-- ==== Sys2Proof/Word.lean ====
section
/-! DEFINITION. The words and index types of the block: 64-bit register words, bytes, 64-byte lines, and the
number of each core, berth, register, link, slice and request id (R3, R4, R16, R17). -/

namespace Sys2Proof

/-- A 64-bit register or data word (R73). -/
abbrev Word := BitVec 64

/-- One byte. -/
abbrev Byte := BitVec 8

/-- A 64-byte line or tile row: byte `b` is bits `8b` to `8b + 7` (R4, R133, R199). -/
abbrev Line := BitVec 512

/-- A core number, also the number of a slice, port or quay engine (R17, R200). -/
abbrev CoreId := Fin 16

/-- A slice, memory port or quay-engine number (R200, R223). -/
abbrev SliceId := Fin 16

/-- A berth of a core (R106). -/
abbrev BerthId := Fin 8

/-- A general register g0 to g31 (R68). -/
abbrev Reg := Fin 32

/-- A predicate register p0 to p7 (R69). -/
abbrev PReg := Fin 8

/-- A link port LP0 to LP47 (R17). -/
abbrev LinkId := Fin 48

/-- A host request id (R29). -/
abbrev HostId := Fin 16

/-- A tile register t0 to t7 (R132). -/
abbrev TileReg := Fin 8

/-- An accumulator or lining number (R132). -/
abbrev AccReg := Fin 4

/-- A dock queue (R253). -/
abbrev QueueId := Fin 4096

/-- A dock watch (R253). -/
abbrev WatchId := Fin 3584

/-- A dock counter (R263). -/
abbrev Ctr := BitVec 16

/-- A hawser chain (R273). -/
abbrev ChainId := Fin 1024

/-- A 40-bit A40 cell (R153). -/
abbrev Cell40 := BitVec 40

end Sys2Proof
end

