-- ==== Sys2Proof/Config.lean ====
section
/-! DEFINITION. What one implementation fixes and the free values: values that the manual says exist and does not
give. Each is a constant without a body, so nothing can be proved of its value. -/

namespace Sys2Proof.Config

/-- The 16 bytes of a spill record for an event id, a count and an age: R116 says what the record holds and gives
no layout. Log entry 11. -/
opaque spillRecord : BitVec 12 → BitVec 16 → BitVec 64 → BitVec 128

/-- SEQ of an idle flit, for the next sequence number: R283 gives every flit the field, and R284 leaves an idle flit
unsequenced. Log entry 43. -/
opaque idleSeq : BitVec 16 → BitVec 16

/-- The value that a lane of a quay program has when its load meets poisoned data at an address: R238 and R24 state
none. Log entry 41. -/
opaque poisonedLane : BitVec 48 → Cell40

/-- Whether MAX (`larger`) or MIN of two zeros of opposite sign, of which operand A has the sign given, is operand A, else B:
Table 7 of "Quay engines" takes the larger or smaller, and R166 has -0 equal to +0. Log entry 40. -/
opaque picksFirst : (larger : Bool) → (signA : Bool) → Bool

/-- What an array holds after an array test: the pattern at an index of an array of a core (0 general registers, 1 predicates, 2 tile
registers, 3 accumulators, 4 linings). R46 says that test patterns are there and gives none. Log entry 103. -/
opaque testPattern : (core array index : Nat) → BitVec 512

/-- COUNT of L2_POISON_s after an array test, whose patterns R222 does not give. Log entry 103. -/
opaque testPoison : (slice : Nat) → BitVec 5

end Sys2Proof.Config
end

