-- ==== Sys2Proof/Syntax.lean ====
section
/-! DEFINITION. The commands of the block, one constructor per row of spec/opcode_table.json. The table gives no row
any bits, so a constructor's operands are those that the row's rule names (log entry 2). -/

namespace Sys2Proof

/-- Who issues an instruction and under which predicate (R69): `sense = false` executes when the predicate is 1. -/
structure Issue where
  core  : CoreId
  sense : Bool
  pred  : PReg
deriving DecidableEq, Repr

/-- An access size (R75, R76, R83). -/
inductive Size where
  | b1 | b2 | b4 | b8
deriving DecidableEq, Repr

/-- The compare conditions of CMP and CMPI (Table 3 of "Gregon instruction set"). -/
inductive Cond where
  | eq | ne | lt | ge | ltu | geu | tst | tstz
deriving DecidableEq, Repr

/-- The two polynomials of CRCS (R88). -/
inductive Poly where
  | crc32c | ieee
deriving DecidableEq, Repr

/-- A fault as its detector presents it to the collector (R323, R326): the source of Table 3 of "Faults, safety and
the breakwater", its instance and what the capture holds. `covered` says that the detector's handling action in progress already covers
it; for source 0x0C, `addr` holds the section id. -/
structure FaultEvent where
  src    : BitVec 6
  inst   : BitVec 8
  access : BitVec 4
  master : BitVec 16
  addr   : BitVec 48
  covered : Bool
deriving DecidableEq, Repr

/-- The claimant for which a memory-port request is made (R223, R224). -/
inductive Client where
  | slice | dock | program | scrub
deriving DecidableEq, Repr

/-- The commands: the instructions of a core, then those of the block, those without operands last. -/
inductive Instr where
  -- Gregon: integer (R72-R74)
  /-- UNASSIGNED_MAJOR (R72): the instruction word. -/
  | unassignedMajor (core : CoreId) (word : BitVec 32)
  /-- ADD (R73). -/
  | add (x : Issue) (rd ra rb : Reg)
  /-- SUB (R73). -/
  | sub (x : Issue) (rd ra rb : Reg)
  /-- AND (R73). -/
  | and (x : Issue) (rd ra rb : Reg)
  /-- OR (R73). -/
  | or (x : Issue) (rd ra rb : Reg)
  /-- XOR (R73). -/
  | xor (x : Issue) (rd ra rb : Reg)
  /-- ANDN (R73). -/
  | andn (x : Issue) (rd ra rb : Reg)
  /-- SLL (R73). -/
  | sll (x : Issue) (rd ra rb : Reg)
  /-- SRL (R73). -/
  | srl (x : Issue) (rd ra rb : Reg)
  /-- SRA (R73). -/
  | sra (x : Issue) (rd ra rb : Reg)
  /-- ROR (R73). -/
  | ror (x : Issue) (rd ra rb : Reg)
  /-- MIN (R73). -/
  | min (x : Issue) (rd ra rb : Reg)
  /-- MAX (R73). -/
  | max (x : Issue) (rd ra rb : Reg)
  /-- MINU (R73). -/
  | minu (x : Issue) (rd ra rb : Reg)
  /-- MAXU (R73). -/
  | maxu (x : Issue) (rd ra rb : Reg)
  /-- ADDW (R73). -/
  | addw (x : Issue) (rd ra rb : Reg)
  /-- SUBW (R73). -/
  | subw (x : Issue) (rd ra rb : Reg)
  /-- SLLW (R73). -/
  | sllw (x : Issue) (rd ra rb : Reg)
  /-- SRLW (R73). -/
  | srlw (x : Issue) (rd ra rb : Reg)
  /-- SRAW (R73). -/
  | sraw (x : Issue) (rd ra rb : Reg)
  /-- ADDI (R73). -/
  | addi (x : Issue) (rd ra : Reg) (imm : BitVec 12)
  /-- ANDI (R73). -/
  | andi (x : Issue) (rd ra : Reg) (imm : BitVec 12)
  /-- ORI (R73). -/
  | ori (x : Issue) (rd ra : Reg) (imm : BitVec 12)
  /-- XORI (R73). -/
  | xori (x : Issue) (rd ra : Reg) (imm : BitVec 12)
  /-- SLLI (R73). -/
  | slli (x : Issue) (rd ra : Reg) (sh : BitVec 6)
  /-- SRLI (R73). -/
  | srli (x : Issue) (rd ra : Reg) (sh : BitVec 6)
  /-- SRAI (R73). -/
  | srai (x : Issue) (rd ra : Reg) (sh : BitVec 6)
  /-- RORI (R73). -/
  | rori (x : Issue) (rd ra : Reg) (sh : BitVec 6)
  /-- MOVI (R73). -/
  | movi (x : Issue) (rd : Reg) (imm : BitVec 17)
  /-- ORSH (R73). -/
  | orsh (x : Issue) (rd : Reg) (imm : BitVec 16)
  /-- MUL (R73). -/
  | mul (x : Issue) (rd ra rb : Reg)
  /-- MULH (R73). -/
  | mulh (x : Issue) (rd ra rb : Reg)
  /-- MULHU (R73). -/
  | mulhu (x : Issue) (rd ra rb : Reg)
  /-- MULW (R73). -/
  | mulw (x : Issue) (rd ra rb : Reg)
  /-- DIV (R74). -/
  | div (x : Issue) (rd ra rb : Reg)
  /-- DIVU (R74). -/
  | divu (x : Issue) (rd ra rb : Reg)
  /-- REM (R74). -/
  | rem (x : Issue) (rd ra rb : Reg)
  /-- REMU (R74). -/
  | remu (x : Issue) (rd ra rb : Reg)
  /-- DIVW (R74). -/
  | divw (x : Issue) (rd ra rb : Reg)
  /-- DIVUW (R74). -/
  | divuw (x : Issue) (rd ra rb : Reg)
  /-- REMW (R74). -/
  | remw (x : Issue) (rd ra rb : Reg)
  /-- REMUW (R74). -/
  | remuw (x : Issue) (rd ra rb : Reg)
  /-- CMP (R73). -/
  | cmp (x : Issue) (pd : PReg) (ra rb : Reg) (cond : Cond)
  /-- CMPI (R73). -/
  | cmpi (x : Issue) (pd : PReg) (ra : Reg) (imm : BitVec 10) (cond : Cond)
  /-- PAND (R73). -/
  | pand (x : Issue) (pd pa pb : PReg)
  /-- POR (R73). -/
  | por (x : Issue) (pd pa pb : PReg)
  /-- PXOR (R73). -/
  | pxor (x : Issue) (pd pa pb : PReg)
  /-- PANDN (R73). -/
  | pandn (x : Issue) (pd pa pb : PReg)
  /-- PNOT (R73). -/
  | pnot (x : Issue) (pd pa : PReg)
  /-- CLZ (R73). -/
  | clz (x : Issue) (rd ra : Reg)
  /-- CTZ (R73). -/
  | ctz (x : Issue) (rd ra : Reg)
  /-- POPC (R73). -/
  | popc (x : Issue) (rd ra : Reg)
  /-- BSWAP (R73). -/
  | bswap (x : Issue) (rd ra : Reg)
  /-- SEXTB (R73). -/
  | sextb (x : Issue) (rd ra : Reg)
  /-- SEXTH (R73). -/
  | sexth (x : Issue) (rd ra : Reg)
  /-- SEXTW (R73). -/
  | sextw (x : Issue) (rd ra : Reg)
  /-- ZEXTW (R73). -/
  | zextw (x : Issue) (rd ra : Reg)
  /-- SEL (R73). -/
  | sel (x : Issue) (rd ra rb : Reg) (ps : PReg)
  -- Gregon: memory (R75-R78, R209-R211, R221)
  /-- LDU (R75). -/
  | ldu (x : Issue) (rd ra : Reg) (size : Size) (imm : BitVec 10)
  /-- LDS (R75). -/
  | lds (x : Issue) (rd ra : Reg) (size : Size) (imm : BitVec 10)
  /-- ST (R75): rd holds the data. -/
  | st (x : Issue) (rd ra : Reg) (size : Size) (imm : BitVec 10)
  /-- LSX_LOAD (R76). -/
  | lsxLoad (x : Issue) (rd ra rb : Reg) (size : Size) (signed : Bool)
  /-- LSX_STORE (R76). -/
  | lsxStore (x : Issue) (rd ra rb : Reg) (size : Size) (signed : Bool)
  /-- LSX_LOAD_POSTINC (R76). -/
  | lsxLoadPostinc (x : Issue) (rd ra rb : Reg) (size : Size) (signed : Bool)
  /-- LSX_STORE_POSTINC (R76). -/
  | lsxStorePostinc (x : Issue) (rd ra rb : Reg) (size : Size) (signed : Bool)
  /-- SWAP (R77): `wide` selects 8 bytes. -/
  | swap (x : Issue) (rd ra rb : Reg) (wide : Bool)
  /-- AMO_ADD (R77). -/
  | amoAdd (x : Issue) (rd ra rb : Reg) (wide : Bool)
  /-- AMO_AND (R77). -/
  | amoAnd (x : Issue) (rd ra rb : Reg) (wide : Bool)
  /-- AMO_OR (R77). -/
  | amoOr (x : Issue) (rd ra rb : Reg) (wide : Bool)
  /-- AMO_XOR (R77). -/
  | amoXor (x : Issue) (rd ra rb : Reg) (wide : Bool)
  /-- AMO_MIN (R77). -/
  | amoMin (x : Issue) (rd ra rb : Reg) (wide : Bool)
  /-- AMO_MAX (R77). -/
  | amoMax (x : Issue) (rd ra rb : Reg) (wide : Bool)
  /-- CAS (R77). -/
  | cas (x : Issue) (rd ra rb : Reg) (wide : Bool)
  /-- PREF_L1D (R221). -/
  | prefL1d (x : Issue) (ra : Reg) (imm : BitVec 12)
  /-- PREF_L2 (R221). -/
  | prefL2 (x : Issue) (ra : Reg) (imm : BitVec 12)
  /-- PREF_STREAM_START (R221). -/
  | prefStreamStart (x : Issue) (ra : Reg) (imm : BitVec 12)
  /-- PREF_STREAM_END (R221). -/
  | prefStreamEnd (x : Issue) (ra : Reg) (imm : BitVec 12)
  /-- IC_INV_A (R210). -/
  | icInvA (x : Issue) (ra : Reg)
  /-- DC_INV_A (R210). -/
  | dcInvA (x : Issue) (ra : Reg)
  /-- L2_CLN_A (R210). -/
  | l2ClnA (x : Issue) (ra : Reg)
  /-- L2_INV_A (R210). -/
  | l2InvA (x : Issue) (ra : Reg)
  /-- L2_CI_A (R210). -/
  | l2CiA (x : Issue) (ra : Reg)
  /-- IC_INV_SW (R209). -/
  | icInvSw (x : Issue) (ra : Reg)
  /-- DC_INV_SW (R209). -/
  | dcInvSw (x : Issue) (ra : Reg)
  /-- L2_CLN_SW (R209). -/
  | l2ClnSw (x : Issue) (ra : Reg)
  /-- L2_INV_SW (R209). -/
  | l2InvSw (x : Issue) (ra : Reg)
  /-- L2_CI_SW (R209). -/
  | l2CiSw (x : Issue) (ra : Reg)
  /-- FENCE (R78). -/
  | fence (x : Issue)
  /-- FENCE_ST (R78). -/
  | fenceSt (x : Issue)
  /-- FENCE_I (R78). -/
  | fenceI (x : Issue)
  /-- FENCE_T (R78). -/
  | fenceT (x : Issue)
  -- Gregon: control and system (R79-R82, R110, R122-R128)
  /-- BR (R79). -/
  | br (x : Issue) (disp : BitVec 22)
  /-- CALL (R79). -/
  | call (x : Issue) (disp : BitVec 22)
  /-- JR (R79). -/
  | jr (x : Issue) (ra : Reg)
  /-- JALR (R79). -/
  | jalr (x : Issue) (rd ra : Reg)
  /-- DBNZ (R79). -/
  | dbnz (x : Issue) (ra : Reg) (disp : BitVec 17)
  /-- CRRD (R81). -/
  | crrd (x : Issue) (g : Reg) (crn : BitVec 12)
  /-- CRWR (R81). -/
  | crwr (x : Issue) (g : Reg) (crn : BitVec 12)
  /-- CRSET (R81). -/
  | crset (x : Issue) (g : Reg) (crn : BitVec 12)
  /-- CRCLR (R81). -/
  | crclr (x : Issue) (g : Reg) (crn : BitVec 12)
  /-- NOP (R80). -/
  | nop (x : Issue)
  /-- TRAP (R122). -/
  | trap (x : Issue) (imm : BitVec 8)
  /-- ERET (R124). -/
  | eret (x : Issue)
  /-- WAIT (R110). -/
  | wait (x : Issue)
  /-- BRK (R45). -/
  | brk (x : Issue)
  /-- SAVE_C (R127). -/
  | saveC (x : Issue)
  /-- SAVE_H (R127). -/
  | saveH (x : Issue)
  /-- LOAD_C (R127). -/
  | loadC (x : Issue)
  /-- LOAD_H (R127). -/
  | loadH (x : Issue)
  -- Gregon: strings, repeat, bit steps (R83-R89)
  /-- SMOV (R84). -/
  | smov (x : Issue) (rd ra rb : Reg) (size : Size)
  /-- SSET (R84). -/
  | sset (x : Issue) (rd ra rb : Reg) (size : Size)
  /-- SCMP (R84). -/
  | scmp (x : Issue) (rd ra rb : Reg) (size : Size) (pd : PReg)
  /-- SSCAN (R84). -/
  | sscan (x : Issue) (rd ra rb : Reg) (size : Size) (pd : PReg)
  /-- REP (R86): the next instruction word is the body. -/
  | rep (x : Issue) (rc : Reg) (body : BitVec 32)
  /-- CRCS (R88). -/
  | crcs (x : Issue) (rd ra rb : Reg) (size : Size) (poly : Poly)
  /-- PAR (R89). -/
  | par (x : Issue) (rd ra : Reg)
  /-- PARB (R89). -/
  | parb (x : Issue) (rd ra : Reg)
  /-- BREV (R89). -/
  | brev (x : Issue) (rd ra : Reg)
  /-- BREVB (R89). -/
  | brevb (x : Issue) (rd ra : Reg)
  /-- BREVW (R89). -/
  | brevw (x : Issue) (rd ra : Reg)
  -- Gregon: tile and customer instructions (R134-R141, R90)
  /-- TLD (R137). -/
  | tld (x : Issue) (td : TileReg) (ra rb : Reg) (rows : BitVec 6) (hint : BitVec 2)
  /-- TST (R138). -/
  | tst (x : Issue) (ts : TileReg) (ra rb : Reg) (rows : BitVec 6)
  /-- TMMA (R139). -/
  | tmma (x : Issue) (ad : AccReg) (ta tb : TileReg) (fmt : BitVec 3) (z : Bool)
  /-- TSWAP (R140). -/
  | tswap (x : Issue) (n : AccReg)
  /-- TDRN (R140). -/
  | tdrn (x : Issue) (l : AccReg) (td : TileReg)
  /-- TCLRA (R140). -/
  | tclra (x : Issue) (n : AccReg)
  /-- TCLRT (R140). -/
  | tclrt (x : Issue) (t : TileReg)
  /-- TLDA (R141). -/
  | tlda (x : Issue) (n : AccReg) (ra : Reg)
  /-- TSTA (R141). -/
  | tsta (x : Issue) (n : AccReg) (ra : Reg)
  /-- CUSTW0 (R90). -/
  | custw0 (x : Issue) (rd ra rb : Reg) (func : BitVec 7)
  /-- CUSTW1 (R90). -/
  | custw1 (x : Issue) (rd ra rb : Reg) (func : BitVec 7)
  /-- CUST0 (R90). -/
  | cust0 (x : Issue) (rd ra rb : Reg) (func : BitVec 7)
  /-- CUST1 (R90). -/
  | cust1 (x : Issue) (rd ra rb : Reg) (func : BitVec 7)
  -- Reset, supply, references (R18, R57, R305-R318)
  /-- TEST_MODE_CHANGE (R18): the strap's new level. -/
  | testModeChange (level : Bool)
  /-- REFERENCE_LOSS (R310): the link references present when the selected one is found lost. -/
  | referenceLoss (present : BitVec 48)
  /-- REFERENCE_JOIN (R308): the link references present at this TIME tick. -/
  | referenceJoin (present : BitVec 48)
  /-- SOURCE_RETURN (R318): a link, or REF_LOCAL for none. -/
  | sourceReturn (link : Option LinkId)
  /-- DRIFT_WINDOW_END (R311): d_A and d_L in 0.1 ppm, none where the reference is absent. -/
  | driftWindowEnd (dA dL : Option (BitVec 16))
  /-- THROTTLE_EVALUATION (R314): the power estimate formed from the activity counters, in 0.25 W. -/
  | throttleEvaluation (pEst : BitVec 10)
  /-- STOP_DEMAND_CHANGE (R333): the synchronised levels of NODE_STOP_A and NODE_STOP_B at `edges` consecutive TIME
  edges. -/
  | stopDemandChange (a b : Bool) (edges : Nat)
  /-- STARTUP_SELF_TEST (R336): whether it passed. -/
  | startupSelfTest (pass : Bool)
  /-- SELF_TEST_PERIOD_START (R334): whether the breakwater test passed. -/
  | selfTestPeriodStart (pass : Bool)
  /-- TILE_KNOWN_ANSWER_TEST (R150): the unit's core and whether it passed. -/
  | tileKnownAnswerTest (core : CoreId) (pass : Bool)
  /-- QUAY_KNOWN_ANSWER_TEST (R247): the engine and whether it passed. -/
  | quayKnownAnswerTest (engine : SliceId) (pass : Bool)
  -- Faults and the log (R321-R328, R345, R346)
  /-- FAULT_RECORD (R325): the faults that arrive in this breakwater cycle. -/
  | faultRecord (arrivals : List FaultEvent)
  /-- FAULT_ACKNOWLEDGE (R323): the source and instance whose handling action completes. -/
  | faultAcknowledge (src : BitVec 6) (inst : BitVec 8)
  -- Host port (R29-R33) and the host writes that have a step of their own
  /-- HOST_REQUEST (R29). -/
  | hostRequest (id : HostId) (write : Bool) (addr : BitVec 24) (be : BitVec 8) (wdata : Word)
  /-- HOST_REPLY (R31). -/
  | hostReply (id : HostId)
  /-- REGISTER_WRITE (R11): a write to a register without behaviour of its own. -/
  | registerWrite (id : HostId) (addr : BitVec 24) (wdata : Word)
  /-- READ_CLEAR (R9): a read of a register with RC fields. -/
  | readClear (id : HostId) (addr : BitVec 24)
  /-- STAGING_WRITE (R53): 8 image bytes at an image offset. -/
  | stagingWrite (id : HostId) (offset : BitVec 24) (wdata : Word)
  /-- COMMIT (R54). -/
  | commit (id : HostId) (sect : BitVec 8)
  /-- DISCARD (R56). -/
  | discard (id : HostId) (sect : BitVec 8)
  /-- UNIT_REQUEST (R59): the SI_ENABLE value written. -/
  | unitRequest (id : HostId) (value : Word)
  /-- UNIT_RELEASE (R60): the SI_ENABLE value written. -/
  | unitRelease (id : HostId) (value : Word)
  /-- BW_ATTN_WRITE (R66). -/
  | bwAttnWrite (id : HostId) (value : Word)
  /-- DOORBELL_RING (R129). -/
  | doorbellRing (id : HostId) (ring : BitVec 16)
  /-- TILE_SAVE (R120). -/
  | tileSave (id : HostId) (save : BitVec 16)
  /-- CLEAN_ALL (R212). -/
  | cleanAll (id : HostId)
  /-- INVALIDATE_ALL (R212). -/
  | invalidateAll (id : HostId)
  /-- CLEAN_AND_INVALIDATE (R212). -/
  | cleanAndInvalidate (id : HostId)
  /-- L2_ARRAY_TEST (R222). -/
  | l2ArrayTest (id : HostId)
  /-- CORE_ARRAY_TEST (R46). -/
  | coreArrayTest (id : HostId) (core : CoreId)
  /-- ARRAY_TEST_DONE (R46, R222): a core, or the L2 for none, and whether it found an error. -/
  | arrayTestDone (core : Option CoreId) (fail : Bool)
  /-- HALT (R45). -/
  | halt (id : HostId) (core : CoreId)
  /-- RESUME (R45). -/
  | resume (id : HostId) (core : CoreId)
  /-- STEP (R45). -/
  | step (id : HostId) (core : CoreId)
  /-- BERTH_REGISTER_ACCESS (R45): the offset in the core's debug window. -/
  | berthRegisterAccess (id : HostId) (core : CoreId) (write : Bool) (offset : BitVec 16) (wdata : Word)
  /-- DEBUG_REQUEST (R47): the request word and, for a write, its data word. -/
  | debugRequest (req wdata : Word)
  /-- GATE_WRITE (R315). -/
  | gateWrite (id : HostId) (value : Word)
  /-- RESELECT (R308). -/
  | reselect (id : HostId)
  /-- SAFE_CLEAR (R332). -/
  | safeClear (id : HostId)
  /-- STOP_FAULT_CLEAR (R333). -/
  | stopFaultClear (id : HostId)
  /-- RELEASE (R331). -/
  | release (id : HostId) (outputs : BitVec 10)
  /-- KICK (R331). -/
  | kick (id : HostId)
  /-- INJECT (R340). -/
  | inject (id : HostId) (src : BitVec 6) (inst : BitVec 8)
  /-- LOG_ENABLE (R345): BASE bits [47:12] and SIZE_LOG2. -/
  | logEnable (id : HostId) (base : BitVec 36) (sizeLog2 : BitVec 4)
  /-- HARBOUR_GO (R347): the NOTICE written with GO. -/
  | harbourGo (id : HostId) (notice : BitVec 10)
  /-- HARBOUR_REOPEN (R351): the NOTICE written with REOPEN. -/
  | harbourReopen (id : HostId) (notice : BitVec 10)
  -- Memory ports (R21-R25, R250)
  /-- MEMORY_REQUEST (R21). -/
  | memoryRequest (port : SliceId) (write : Bool) (client : Client) (addr : BitVec 42) (len : Bool) (tag : BitVec 9)
      (data : BitVec 1024) (strb : BitVec 128)
  /-- MEMORY_READ_RESPONSE (R24). -/
  | memoryReadResponse (port : SliceId) (tag : BitVec 9) (data : BitVec 1024) (err : BitVec 2)
  /-- MEMORY_WRITE_ACK (R22). -/
  | memoryWriteAck (port : SliceId) (tag : BitVec 9) (err : BitVec 2)
  /-- MEMORY_RESPONSE_LATE (R250). -/
  | memoryResponseLate (port : SliceId) (tag : BitVec 9)
  -- Ingress descriptor port, table port, coprocessor ports (R34-R42, R49, R91)
  /-- INGRESS_BEAT (R35). -/
  | ingressBeat (first : Bool) (data : Line)
  /-- INSERT (R41): the slot whose command the classifier performs, the index it gives the entry and whether the
  table has room. -/
  | insert (slot : Fin 16) (entry : BitVec 24) (room : Bool)
  /-- DELETE (R39). -/
  | delete (slot : Fin 16)
  /-- LOOKUP (R40). -/
  | lookup (slot : Fin 16)
  /-- TABLE_RESPONSE (R40). -/
  | tableResponse (tag : Fin 16) (data : BitVec 128)
  /-- COPROCESSOR_RESPONSE (R91). -/
  | coprocessorResponse (core : CoreId) (tag : BitVec 5) (data : Word) (err : Bool)
  /-- COPROCESSOR_TIMEOUT (R91). -/
  | coprocessorTimeout (core : CoreId) (tag : BitVec 5)
  -- Link layer (R283-R303)
  /-- LPN_UP_RISE (R291). -/
  | lpnUpRise (link : LinkId)
  /-- LPN_UP_FALL (R289). -/
  | lpnUpFall (link : LinkId)
  /-- FLIT_SLOT (R287): LPn_TX_READY and the link-cycle count at the slot's beat 0. -/
  | flitSlot (link : LinkId) (ready : Bool) (now : Word)
  /-- FLIT_RECEIVE (R288): whether FIRST was high on beat 0 only (R27), the 256 bytes received and the link-cycle count at
  their arrival. -/
  | flitReceive (link : LinkId) (framed : Bool) (flit : BitVec 2048) (now : Word)
  /-- NAK_RECEIVE (R288): the SEQ that the NAK names. -/
  | nakReceive (link : LinkId) (seq : BitVec 16)
  /-- INIT_RECEIVE (R291): the far end's node id and role. -/
  | initReceive (link : LinkId) (node : BitVec 15) (role : BitVec 2)
  /-- MARKER_RECEIVE (R298): T_TX, P_TX and P_RX of the marker and its arrival count. -/
  | markerReceive (link : LinkId) (tTx pTx pRx now : Word)
  /-- IDLE (R301). -/
  | idle (link : LinkId)
  /-- SLEEP (R301). -/
  | sleep (link : LinkId)
  /-- AGREE (R301). -/
  | agree (link : LinkId)
  /-- DENY (R301). -/
  | deny (link : LinkId)
  /-- WAKE (R301). -/
  | wake (link : LinkId)
  /-- WAKEACK (R301). -/
  | wakeack (link : LinkId)
  /-- TX_PEND (R301). -/
  | txPend (link : LinkId)
  /-- SLEEP_TIMER (R301). -/
  | sleepTimer (link : LinkId)
  /-- CAL_DUE (R301). -/
  | calDue (link : LinkId)
  -- Pilot (R109-R122)
  /-- ARRIVAL_ACCEPT (R114). -/
  | arrivalAccept (core : CoreId)
  /-- SPILL_RETURN (R116). -/
  | spillReturn (core : CoreId)
  /-- PILOT_SELECT (R113). -/
  | pilotSelect (core : CoreId)
  /-- BERTH_SWITCH (R109). -/
  | berthSwitch (core : CoreId)
  /-- EVENT_ENTRY (R122). -/
  | eventEntry (core : CoreId)
  /-- TABLE_COMMAND_SEND (R49). -/
  | tableCommandSend (slot : Fin 16)
  -- Stores, fills, the L2 (R102, R126, R149, R202-R221)
  /-- STORE_BUFFER_DRAIN (R202). -/
  | storeBufferDrain (core : CoreId)
  /-- STORE_ACK (R78): whether the memory port's acknowledgement carries an error. -/
  | storeAck (core : CoreId) (err : Bool)
  /-- LATE_BUS_ERROR (R126). -/
  | lateBusError (core : CoreId)
  /-- L2_FILL (R102): the oldest data fill, or the instruction fetch of an address. -/
  | l2Fill (core : CoreId) (fetch : Option (BitVec 48))
  /-- TIDE_CLEAN_WRITEBACK (R218). -/
  | tideCleanWriteback (slice : SliceId)
  /-- DIRTY_VICTIM (R206): the allocation of the line at an address. -/
  | dirtyVictim (addr : BitVec 48)
  /-- STREAM_FETCH (R221). -/
  | streamFetch (core : CoreId)
  /-- TILE_PREFETCH (R149). -/
  | tilePrefetch (core : CoreId)
  -- Tile unit, output path, dispatch (R119, R142-R145, R179-R198)
  /-- TILE_CLAIM (R119). -/
  | tileClaim (core : CoreId)
  /-- TILE_ENTRY_START (R142): the position in the tile instruction queue. -/
  | tileEntryStart (core : CoreId) (index : Fin 32)
  /-- TILE_ENTRY_COMPLETE (R143). -/
  | tileEntryComplete (core : CoreId) (index : Fin 32)
  /-- EPILOGUE_DESCRIPTOR_READ (R179). -/
  | epilogueDescriptorRead (core : CoreId)
  /-- DRAIN_ROW (R181). -/
  | drainRow (core : CoreId)
  /-- DISPATCH_HANDOFF (R194). -/
  | dispatchHandoff (core : CoreId)
  /-- DISPATCH_OUTCOME (R197): the position of a finished write among those outstanding. -/
  | dispatchOutcome (index : Nat)
  /-- OVERFLOW_RECORD_WRITE (R198). -/
  | overflowRecordWrite (core : CoreId)
  /-- OVERFLOW_TAKE_REREAD (R198). -/
  | overflowTakeReread (core : CoreId)
  -- Quay engines (R223-R250)
  /-- ACCUMULATOR_UPDATE (R228). -/
  | accumulatorUpdate (engine : SliceId)
  /-- MERGE_WRITE (R228): the position of the merge entry. -/
  | mergeWrite (engine : SliceId) (index : Fin 64)
  /-- RING_PUT_PUBLISH (R232): the RING region. -/
  | ringPutPublish (region : Fin 4096)
  /-- LAUNCH_START (R241). -/
  | launchStart (engine : SliceId)
  /-- MICRO_OP_ISSUE (R242). -/
  | microOpIssue (engine : SliceId)
  /-- SCRUB_READ (R245). -/
  | scrubRead (engine : SliceId)
  /-- SCRUB_RESPONSE (R245). -/
  | scrubResponse (engine : SliceId) (err : BitVec 2)
  -- Dock (R251-R271)
  /-- PUT_STORE (R256): a core's store of word 0 of a queue. -/
  | putStore (core : CoreId) (queue : QueueId) (value : Word)
  /-- QUEUE_RESUME (R262): a core's store of word 0 with RESUME and PUT. -/
  | queueResume (core : CoreId) (queue : QueueId) (put : BitVec 32)
  /-- WATCH_STORE (R254). -/
  | watchStore (core : CoreId) (watch : WatchId) (value : Word)
  /-- COUNTER_STORE (R263). -/
  | counterStore (core : CoreId) (ctr : Ctr) (value : Word)
  /-- WATCH_FIRE (R254). -/
  | watchFire (watch : WatchId)
  /-- DESCRIPTOR_FETCH (R256). -/
  | descriptorFetch (queue : QueueId)
  /-- NOP_DESCRIPTOR (R257). -/
  | nopDescriptor (queue : QueueId)
  /-- WRITE_DESCRIPTOR (R260). -/
  | writeDescriptor (queue : QueueId)
  /-- READ_DESCRIPTOR (R260). -/
  | readDescriptor (queue : QueueId)
  /-- DESCRIPTOR_FINISH (R260). -/
  | descriptorFinish (queue : QueueId)
  /-- OPERATION_TIMEOUT (R266): the position among the operations outstanding. -/
  | operationTimeout (index : Nat)
  -- Hawser chains (R272-R282)
  /-- RUN_ARM (R275): the chain; a block has at most one own position in it (R274). -/
  | runArm (chain : ChainId)
  /-- FRAME_LAUNCH (R275). -/
  | frameLaunch (chain : ChainId)
  /-- OPERAND_READ (R282). -/
  | operandRead (chain : ChainId)
  /-- HAWSER_FRAME (R276): the position of the frame among those waiting. -/
  | hawserFrame (index : Nat)
  -- Commands without operands
  /-- PORST_N_ASSERT (R57). -/
  | porstNAssert
  /-- PORST_N_DEASSERT (R306). -/
  | porstNDeassert
  /-- ROOT_LOCK (R306). -/
  | rootLock
  /-- WRST_N_ASSERT (R57): the warm-reset pulse. -/
  | wrstNAssert
  /-- SUP_WARN_RISE (R316). -/
  | supWarnRise
  /-- SUPPLY_EPISODE_END (R316). -/
  | supplyEpisodeEnd
  /-- SUP_RESET (R317). -/
  | supReset
  /-- REF_LOCAL_ABSENT (R306). -/
  | refLocalAbsent
  /-- REF_LOCAL_PRESENT (R310). -/
  | refLocalPresent
  /-- LOSS_OF_EVERY_SOURCE (R318). -/
  | lossOfEverySource
  /-- DIVIDER_CHANGE_SEQUENCE (R313). -/
  | dividerChangeSequence
  /-- STOP_DISCREPANCY_FAULT (R333). -/
  | stopDiscrepancyFault
  /-- KEEPALIVE_EXPIRY (R331). -/
  | keepaliveExpiry
  /-- LOG_RECORD_WRITE (R345). -/
  | logRecordWrite
  /-- LOG_TAKE_REREAD (R345). -/
  | logTakeReread
  /-- LOG_WRITE_ERROR (R346). -/
  | logWriteError
  /-- COMMIT_DONE (R56). -/
  | commitDone
  /-- CONSISTENCY_CHECK_DONE (R59). -/
  | consistencyCheckDone
  /-- L2_MAINT_DONE (R212). -/
  | l2MaintDone
  /-- TRACE_SEND (R48). -/
  | traceSend
  /-- NOTICE_END (R347). -/
  | noticeEnd
  /-- DRAIN_END (R349). -/
  | drainEnd
  /-- HARBOUR_CLOSED (R350). -/
  | harbourClosed
  /-- INGRESS_CREDIT_GRANT (R34). -/
  | ingressCreditGrant
  /-- INGRESS_DESCRIPTOR (R37). -/
  | ingressDescriptor
  /-- INBOX_RECORD_WRITE (R117). -/
  | inboxRecordWrite
  /-- INBOX_TAKE_REREAD (R118). -/
  | inboxTakeReread
  /-- DISPATCH_WRITE_START (R196). -/
  | dispatchWriteStart
  /-- RING_APPEND (R231). -/
  | ringAppend
  /-- LAUNCH_RECORD (R239). -/
  | launchRecord
  /-- LAUNCH_COMPLETE (R240). -/
  | launchComplete
  /-- ARRIVING_WRITE (R252). -/
  | arrivingWrite
  /-- ARRIVING_READ (R268). -/
  | arrivingRead
  /-- ARRIVING_APPEND (R252). -/
  | arrivingAppend
  /-- ACK (R260). -/
  | ack
  /-- READ_DATA (R260). -/
  | readData
  /-- SUP_RESET_RELEASE (R317). -/
  | supResetRelease
  /-- SUP_WARN_FALL (R316). -/
  | supWarnFall
deriving DecidableEq, Repr

end Sys2Proof
end

