-- ==== Sys2Proof/WellFormed.lean ====
section
/-! DEFINITION. Which operands a command's row admits beyond their types. A command that fails a check is still a
command: its meaning turns it away as the host port or the port turns it away. -/

namespace Sys2Proof

/-- Whether a register address is a multiple of 8 bytes (R29, R44). -/
def aligned8 {w : Nat} (a : BitVec w) : Bool := a.toNat % 8 == 0

/-- Whether the byte strobes of a 64-byte request leave the second 64 bytes alone (R21). -/
def strbFits (len : Bool) (strb : BitVec 128) : Bool := len || strb.toNat < 2 ^ 64

/-- The operand checks, one line for each command that has any. Only a slice issues 128-byte requests (R224). -/
def Instr.wf : Instr → Bool
  | .stagingWrite _ offset _ => aligned8 offset && offset.toNat < 0x800000
  | .registerWrite _ addr _ => aligned8 addr
  | .readClear _ addr => aligned8 addr
  | .berthRegisterAccess _ _ _ offset _ => aligned8 offset
  | .stopDemandChange _ _ edges => 0 < edges
  | .memoryRequest _ _ client addr len _ _ strb => !(len && (addr.getLsbD 0 || client != .slice)) && strbFits len strb
  | .faultRecord arrivals => arrivals.all fun e => e.src.toNat ≤ 0x28
  | .faultAcknowledge src _ => src.toNat ≤ 0x28
  | _ => true

end Sys2Proof
end

