-- ==== Sys2Proof/Decode.lean ====
section
/-! DEFINITION. The command that a word of spec/opcode_table.json spells, and the decoder of Gregon instruction words
(R68, R69, R72 and Tables 1 to 5 of "Gregon instruction set"; R134 and Tables 2 to 6 of "Tile unit"), which the
repeat, single-step and illegal-opcode commands use. -/

namespace Sys2Proof

/-- The table gives no row any bits, so no word spells a command. -/
def decodeTableWord (_nbits _w : Nat) : Option Instr := none

/-- Bits `[hi:lo]` of an instruction word. -/
def wordField (w : BitVec 32) (hi lo : Nat) : Nat := (w.toNat >>> lo) % 2 ^ (hi + 1 - lo)

/-- A general-register field. -/
def regField (w : BitVec 32) (lo : Nat) : Reg := Fin.ofNat 32 (w.toNat >>> lo)

/-- A predicate field. -/
def pregField (w : BitVec 32) (lo : Nat) : PReg := Fin.ofNat 8 (w.toNat >>> lo)

/-- A size field (R75). -/
def sizeField (v : Nat) : Size := if v % 4 = 0 then .b1 else if v % 4 = 1 then .b2 else if v % 4 = 2 then .b4 else .b8

/-- A condition field; 8 to 15 are reserved. -/
def condField (v : Nat) : Option Cond :=
  match v with
  | 0 => some .eq | 1 => some .ne | 2 => some .lt | 3 => some .ge | 4 => some .ltu | 5 => some .geu | 6 => some .tst
  | 7 => some .tstz | _ => none

/-- Majors 0x00, 0x08 and 0x09: format 3R without reserved fields but func. -/
def decodeInteger (major func : Nat) (x : Issue) (rd ra rb : Reg) : Option Instr :=
  if major = 0x00 then
    match func with
    | 0x00 => some (.add x rd ra rb)
    | 0x01 => some (.sub x rd ra rb)
    | 0x02 => some (.and x rd ra rb)
    | 0x03 => some (.or x rd ra rb)
    | 0x04 => some (.xor x rd ra rb)
    | 0x05 => some (.andn x rd ra rb)
    | 0x06 => some (.sll x rd ra rb)
    | 0x07 => some (.srl x rd ra rb)
    | 0x08 => some (.sra x rd ra rb)
    | 0x09 => some (.ror x rd ra rb)
    | 0x0A => some (.min x rd ra rb)
    | 0x0B => some (.max x rd ra rb)
    | 0x0C => some (.minu x rd ra rb)
    | 0x0D => some (.maxu x rd ra rb)
    | 0x10 => some (.addw x rd ra rb)
    | 0x11 => some (.subw x rd ra rb)
    | 0x16 => some (.sllw x rd ra rb)
    | 0x17 => some (.srlw x rd ra rb)
    | 0x18 => some (.sraw x rd ra rb)
    | _ => none
  else if major = 0x08 then
    match func with
    | 0 => some (.mul x rd ra rb)
    | 1 => some (.mulh x rd ra rb)
    | 2 => some (.mulhu x rd ra rb)
    | 3 => some (.mulw x rd ra rb)
    | _ => none
  else
    match func with
    | 0 => some (.div x rd ra rb)
    | 1 => some (.divu x rd ra rb)
    | 2 => some (.rem x rd ra rb)
    | 3 => some (.remu x rd ra rb)
    | 4 => some (.divw x rd ra rb)
    | 5 => some (.divuw x rd ra rb)
    | 6 => some (.remw x rd ra rb)
    | 7 => some (.remuw x rd ra rb)
    | _ => none

/-- Major 0x0D: unary on ra, rb reserved. -/
def decodeBitop (func : Nat) (x : Issue) (rd ra : Reg) : Option Instr :=
  match func with
  | 0 => some (.clz x rd ra)
  | 1 => some (.ctz x rd ra)
  | 2 => some (.popc x rd ra)
  | 3 => some (.bswap x rd ra)
  | 4 => some (.sextb x rd ra)
  | 5 => some (.sexth x rd ra)
  | 6 => some (.sextw x rd ra)
  | 7 => some (.zextw x rd ra)
  | _ => none

/-- Major 0x0C. -/
def decodePred (func : Nat) (x : Issue) (pd pa pb : PReg) : Option Instr :=
  match func with
  | 0 => some (.pand x pd pa pb)
  | 1 => some (.por x pd pa pb)
  | 2 => some (.pxor x pd pa pb)
  | 3 => some (.pandn x pd pa pb)
  | 4 => if pb = 0 then some (.pnot x pd pa) else none
  | _ => none

/-- Major 0x13 (R76). -/
def decodeLsx (func : Nat) (x : Issue) (rd ra rb : Reg) : Option Instr :=
  let size := sizeField func
  let sg := func / 4 % 2 == 1
  if func / 32 ≠ 0 then none
  else match func / 8 % 4 with
    | 0 => some (.lsxLoad x rd ra rb size sg)
    | 1 => some (.lsxStore x rd ra rb size sg)
    | 2 => some (.lsxLoadPostinc x rd ra rb size sg)
    | _ => some (.lsxStorePostinc x rd ra rb size sg)

/-- Major 0x14 (R77). -/
def decodeAmo (func : Nat) (x : Issue) (rd ra rb : Reg) : Option Instr :=
  let wide := func / 8 % 2 == 1
  if func / 16 ≠ 0 then none
  else match func % 8 with
    | 0 => some (.swap x rd ra rb wide)
    | 1 => some (.amoAdd x rd ra rb wide)
    | 2 => some (.amoAnd x rd ra rb wide)
    | 3 => some (.amoOr x rd ra rb wide)
    | 4 => some (.amoXor x rd ra rb wide)
    | 5 => some (.amoMin x rd ra rb wide)
    | 6 => some (.amoMax x rd ra rb wide)
    | _ => some (.cas x rd ra rb wide)

/-- Major 0x15 (Table 4): the hint is the rd field. -/
def decodePref (hint : Nat) (x : Issue) (ra : Reg) (imm : BitVec 12) : Option Instr :=
  match hint with
  | 0 => some (.prefL1d x ra imm)
  | 1 => some (.prefL2 x ra imm)
  | 2 => some (.prefStreamStart x ra imm)
  | 3 => some (.prefStreamEnd x ra imm)
  | _ => none

/-- Major 0x16 (Table 5). -/
def decodeCmaint (func : Nat) (x : Issue) (ra : Reg) : Option Instr :=
  match func with
  | 0x00 => some (.icInvA x ra)
  | 0x01 => some (.dcInvA x ra)
  | 0x02 => some (.l2ClnA x ra)
  | 0x03 => some (.l2InvA x ra)
  | 0x04 => some (.l2CiA x ra)
  | 0x08 => some (.icInvSw x ra)
  | 0x09 => some (.dcInvSw x ra)
  | 0x0A => some (.l2ClnSw x ra)
  | 0x0B => some (.l2InvSw x ra)
  | 0x0C => some (.l2CiSw x ra)
  | _ => none

/-- Major 0x17 (R78). -/
def decodeFence (func : Nat) (x : Issue) : Option Instr :=
  match func with
  | 0 => some (.fence x)
  | 1 => some (.fenceSt x)
  | 2 => some (.fenceI x)
  | 3 => some (.fenceT x)
  | _ => none

/-- Major 0x1D (Table 6): imm8 is reserved but for TRAP (R80). -/
def decodeSys (func : Nat) (x : Issue) (imm : BitVec 8) : Option Instr :=
  if func = 1 then some (.trap x imm)
  else if imm ≠ 0 then none
  else match func with
    | 0 => some (.nop x)
    | 2 => some (.eret x)
    | 3 => some (.wait x)
    | 4 => some (.brk x)
    | _ => none

/-- Majors 0x20 to 0x23 (R83). -/
def decodeString (major func : Nat) (x : Issue) (rd ra rb : Reg) : Option Instr :=
  let size := sizeField func
  let pd : PReg := Fin.ofNat 8 (func / 4)
  if func / 32 ≠ 0 then none
  else if major = 0x20 then (if func / 4 = 0 then some (.smov x rd ra rb size) else none)
  else if major = 0x21 then (if func / 4 = 0 then some (.sset x rd ra rb size) else none)
  else if major = 0x22 then some (.scmp x rd ra rb size pd)
  else some (.sscan x rd ra rb size pd)

/-- Major 0x26 (R89). -/
def decodeBits (func : Nat) (x : Issue) (rd ra : Reg) : Option Instr :=
  match func with
  | 0 => some (.par x rd ra)
  | 1 => some (.parb x rd ra)
  | 2 => some (.brev x rd ra)
  | 3 => some (.brevb x rd ra)
  | 4 => some (.brevw x rd ra)
  | _ => none

/-- Majors 0x28 to 0x2C (R134). -/
def decodeTile (major : Nat) (w : BitVec 32) (x : Issue) : Option Instr :=
  let t19 : TileReg := Fin.ofNat 8 (w.toNat >>> 19)
  let t16 : TileReg := Fin.ofNat 8 (w.toNat >>> 16)
  let a : AccReg := Fin.ofNat 4 (w.toNat >>> 20)
  match major with
  | 0x28 =>
    if wordField w 0 0 = 0 then
      some (.tld x t19 (regField w 14) (regField w 9) (BitVec.ofNat 6 (wordField w 8 3)) (BitVec.ofNat 2 (wordField w 2 1)))
    else none
  | 0x29 =>
    if wordField w 2 0 = 0 then
      some (.tst x t19 (regField w 14) (regField w 9) (BitVec.ofNat 6 (wordField w 8 3)))
    else none
  | 0x2A =>
    if wordField w 9 0 = 0 then
      some (.tmma x a (Fin.ofNat 8 (w.toNat >>> 17)) (Fin.ofNat 8 (w.toNat >>> 14)) (BitVec.ofNat 3 (wordField w 13 11))
        (wordField w 10 10 == 1))
    else none
  | 0x2B =>
    let n : AccReg := Fin.ofNat 4 (w.toNat >>> 19)
    let low := wordField w 21 21 == 0
    let bare := wordField w 18 16 == 0
    if wordField w 15 4 ≠ 0 then none
    else match wordField w 3 0 with
      | 0 => if low && bare then some (.tswap x n) else none
      | 1 => if low then some (.tdrn x n t16) else none
      | 2 => if low && bare then some (.tclra x n) else none
      | 3 => if bare then some (.tclrt x t19) else none
      | _ => none
  | 0x2C =>
    if wordField w 14 1 ≠ 0 then none
    else if wordField w 0 0 = 0 then some (.tlda x a (regField w 15))
    else some (.tsta x a (regField w 15))
  | _ => none

/-- The instruction that core `c` reads from a word, with the following word as the body of a REP; none for an
unassigned major, a reserved value or a reserved field that is not zero (R72). -/
def decodeGregon (c : CoreId) (w body : BitVec 32) : Option Instr :=
  let x : Issue := { core := c, sense := wordField w 31 31 == 1, pred := pregField w 28 }
  let major := wordField w 27 22
  let func := wordField w 6 0
  let rd := regField w 17
  let ra := regField w 12
  let rb := regField w 7
  let imm12 : BitVec 12 := BitVec.ofNat 12 w.toNat
  match major with
  | 0x00 => decodeInteger 0x00 func x rd ra rb
  | 0x01 => some (.addi x rd ra imm12)
  | 0x02 => some (.andi x rd ra imm12)
  | 0x03 => some (.ori x rd ra imm12)
  | 0x04 => some (.xori x rd ra imm12)
  | 0x05 =>
    let sh : BitVec 6 := BitVec.ofNat 6 (wordField w 11 6)
    if wordField w 5 2 ≠ 0 then none
    else match wordField w 1 0 with
      | 0 => some (.slli x rd ra sh)
      | 1 => some (.srli x rd ra sh)
      | 2 => some (.srai x rd ra sh)
      | _ => some (.rori x rd ra sh)
  | 0x06 => some (.movi x rd (BitVec.ofNat 17 w.toNat))
  | 0x07 => if wordField w 16 16 = 0 then some (.orsh x rd (BitVec.ofNat 16 w.toNat)) else none
  | 0x08 => decodeInteger 0x08 func x rd ra rb
  | 0x09 => decodeInteger 0x09 func x rd ra rb
  | 0x0A =>
    if wordField w 8 4 ≠ 0 then none
    else (condField (wordField w 3 0)).map fun k => .cmp x (pregField w 19) (regField w 14) (regField w 9) k
  | 0x0B =>
    (condField (wordField w 3 0)).map fun k =>
      .cmpi x (pregField w 19) (regField w 14) (BitVec.ofNat 10 (wordField w 13 4)) k
  | 0x0C =>
    if wordField w 12 4 ≠ 0 then none else decodePred (wordField w 3 0) x (pregField w 19) (pregField w 16) (pregField w 13)
  | 0x0D => if rb = 0 then decodeBitop func x rd ra else none
  | 0x0E => if func % 16 = 0 then some (.sel x rd ra rb (Fin.ofNat 8 (func / 16))) else none
  | 0x10 => some (.ldu x rd ra (sizeField (wordField w 11 10)) (BitVec.ofNat 10 w.toNat))
  | 0x11 => some (.lds x rd ra (sizeField (wordField w 11 10)) (BitVec.ofNat 10 w.toNat))
  | 0x12 => some (.st x rd ra (sizeField (wordField w 11 10)) (BitVec.ofNat 10 w.toNat))
  | 0x13 => decodeLsx func x rd ra rb
  | 0x14 => decodeAmo func x rd ra rb
  | 0x15 => decodePref rd.val x ra imm12
  | 0x16 => if rd = 0 ∧ rb = 0 then decodeCmaint func x ra else none
  | 0x17 => if rd = 0 ∧ ra = 0 ∧ rb = 0 then decodeFence func x else none
  | 0x18 => some (.br x (BitVec.ofNat 22 w.toNat))
  | 0x19 => some (.call x (BitVec.ofNat 22 w.toNat))
  | 0x1A =>
    if rb ≠ 0 then none
    else if func = 0 then (if rd = 0 then some (.jr x ra) else none)
    else if func = 1 then some (.jalr x rd ra) else none
  | 0x1B => some (.dbnz x rd (BitVec.ofNat 17 w.toNat))
  | 0x1C =>
    let crn : BitVec 12 := BitVec.ofNat 12 (wordField w 16 5)
    if wordField w 4 2 ≠ 0 then none
    else match wordField w 1 0 with
      | 0 => some (.crrd x rd crn)
      | 1 => some (.crwr x rd crn)
      | 2 => some (.crset x rd crn)
      | _ => some (.crclr x rd crn)
  | 0x1D => if wordField w 13 4 = 0 then decodeSys (wordField w 3 0) x (BitVec.ofNat 8 (wordField w 21 14)) else none
  | 0x1E =>
    if rd = 0 ∧ ra = 0 ∧ rb = 0 then
      (match func with
      | 0 => some (.saveC x)
      | 1 => some (.saveH x)
      | 2 => some (.loadC x)
      | 3 => some (.loadH x)
      | _ => none)
    else none
  | 0x20 => decodeString 0x20 func x rd ra rb
  | 0x21 => decodeString 0x21 func x rd ra rb
  | 0x22 => decodeString 0x22 func x rd ra rb
  | 0x23 => decodeString 0x23 func x rd ra rb
  | 0x24 => if wordField w 16 0 = 0 then some (.rep x rd body) else none
  | 0x25 =>
    if func / 16 ≠ 0 then none
    else if func / 4 % 4 = 0 then some (.crcs x rd ra rb (sizeField func) .crc32c)
    else if func / 4 % 4 = 1 then some (.crcs x rd ra rb (sizeField func) .ieee) else none
  | 0x26 => if rb = 0 then decodeBits func x rd ra else none
  | 0x28 => decodeTile 0x28 w x
  | 0x29 => decodeTile 0x29 w x
  | 0x2A => decodeTile 0x2A w x
  | 0x2B => decodeTile 0x2B w x
  | 0x2C => decodeTile 0x2C w x
  | 0x3C => some (.custw0 x rd ra rb (BitVec.ofNat 7 func))
  | 0x3D => some (.custw1 x rd ra rb (BitVec.ofNat 7 func))
  | 0x3E => some (.cust0 x rd ra rb (BitVec.ofNat 7 func))
  | 0x3F => some (.cust1 x rd ra rb (BitVec.ofNat 7 func))
  | _ => none

-- The encoder -------------------------------------------------------------------------------------------------

/-- An instruction word: sense, predicate, major and the 22 bits below it (R68, R69). -/
def gregonWord (x : Issue) (major low : Nat) : BitVec 32 :=
  BitVec.ofNat 32 ((if x.sense then 2 ^ 31 else 0) + 2 ^ 28 * x.pred.val + 2 ^ 22 * major + low)

/-- Format 3R: rd, ra, rb and func. -/
def low3R (rd ra rb : Reg) (func : Nat) : Nat := 2 ^ 17 * rd.val + 2 ^ 12 * ra.val + 2 ^ 7 * rb.val + func

/-- Formats with rd, ra and 12 low bits. -/
def lowRI (rd ra : Reg) (imm : Nat) : Nat := 2 ^ 17 * rd.val + 2 ^ 12 * ra.val + imm

/-- Format P: three predicates and func. -/
def lowP (pd pa pb : PReg) (func : Nat) : Nat := 2 ^ 19 * pd.val + 2 ^ 16 * pa.val + 2 ^ 13 * pb.val + func

/-- The code of a size (R75). -/
def sizeCode : Size → Nat
  | .b1 => 0 | .b2 => 1 | .b4 => 2 | .b8 => 3

/-- The code of a condition. -/
def condCode : Cond → Nat
  | .eq => 0 | .ne => 1 | .lt => 2 | .ge => 3 | .ltu => 4 | .geu => 5 | .tst => 6 | .tstz => 7

/-- func of an LSX form (R76). -/
def lsxFunc (kind : Nat) (size : Size) (signed : Bool) : Nat := 8 * kind + (if signed then 4 else 0) + sizeCode size

/-- func of an atomic (R77). -/
def amoFunc (code : Nat) (wide : Bool) : Nat := (if wide then 8 else 0) + code

/-- The word of an instruction of a core; none for the block's own commands and for UNASSIGNED_MAJOR. -/
def encodeGregon (i : Instr) : Option (BitVec 32) :=
  match i with
  | .add x rd ra rb => some (gregonWord x 0x00 (low3R rd ra rb 0x00))
  | .sub x rd ra rb => some (gregonWord x 0x00 (low3R rd ra rb 0x01))
  | .and x rd ra rb => some (gregonWord x 0x00 (low3R rd ra rb 0x02))
  | .or x rd ra rb => some (gregonWord x 0x00 (low3R rd ra rb 0x03))
  | .xor x rd ra rb => some (gregonWord x 0x00 (low3R rd ra rb 0x04))
  | .andn x rd ra rb => some (gregonWord x 0x00 (low3R rd ra rb 0x05))
  | .sll x rd ra rb => some (gregonWord x 0x00 (low3R rd ra rb 0x06))
  | .srl x rd ra rb => some (gregonWord x 0x00 (low3R rd ra rb 0x07))
  | .sra x rd ra rb => some (gregonWord x 0x00 (low3R rd ra rb 0x08))
  | .ror x rd ra rb => some (gregonWord x 0x00 (low3R rd ra rb 0x09))
  | .min x rd ra rb => some (gregonWord x 0x00 (low3R rd ra rb 0x0A))
  | .max x rd ra rb => some (gregonWord x 0x00 (low3R rd ra rb 0x0B))
  | .minu x rd ra rb => some (gregonWord x 0x00 (low3R rd ra rb 0x0C))
  | .maxu x rd ra rb => some (gregonWord x 0x00 (low3R rd ra rb 0x0D))
  | .addw x rd ra rb => some (gregonWord x 0x00 (low3R rd ra rb 0x10))
  | .subw x rd ra rb => some (gregonWord x 0x00 (low3R rd ra rb 0x11))
  | .sllw x rd ra rb => some (gregonWord x 0x00 (low3R rd ra rb 0x16))
  | .srlw x rd ra rb => some (gregonWord x 0x00 (low3R rd ra rb 0x17))
  | .sraw x rd ra rb => some (gregonWord x 0x00 (low3R rd ra rb 0x18))
  | .addi x rd ra imm => some (gregonWord x 0x01 (lowRI rd ra imm.toNat))
  | .andi x rd ra imm => some (gregonWord x 0x02 (lowRI rd ra imm.toNat))
  | .ori x rd ra imm => some (gregonWord x 0x03 (lowRI rd ra imm.toNat))
  | .xori x rd ra imm => some (gregonWord x 0x04 (lowRI rd ra imm.toNat))
  | .slli x rd ra sh => some (gregonWord x 0x05 (lowRI rd ra (2 ^ 6 * sh.toNat + 0)))
  | .srli x rd ra sh => some (gregonWord x 0x05 (lowRI rd ra (2 ^ 6 * sh.toNat + 1)))
  | .srai x rd ra sh => some (gregonWord x 0x05 (lowRI rd ra (2 ^ 6 * sh.toNat + 2)))
  | .rori x rd ra sh => some (gregonWord x 0x05 (lowRI rd ra (2 ^ 6 * sh.toNat + 3)))
  | .movi x rd imm => some (gregonWord x 0x06 (2 ^ 17 * rd.val + imm.toNat))
  | .orsh x rd imm => some (gregonWord x 0x07 (2 ^ 17 * rd.val + imm.toNat))
  | .mul x rd ra rb => some (gregonWord x 0x08 (low3R rd ra rb 0))
  | .mulh x rd ra rb => some (gregonWord x 0x08 (low3R rd ra rb 1))
  | .mulhu x rd ra rb => some (gregonWord x 0x08 (low3R rd ra rb 2))
  | .mulw x rd ra rb => some (gregonWord x 0x08 (low3R rd ra rb 3))
  | .div x rd ra rb => some (gregonWord x 0x09 (low3R rd ra rb 0))
  | .divu x rd ra rb => some (gregonWord x 0x09 (low3R rd ra rb 1))
  | .rem x rd ra rb => some (gregonWord x 0x09 (low3R rd ra rb 2))
  | .remu x rd ra rb => some (gregonWord x 0x09 (low3R rd ra rb 3))
  | .divw x rd ra rb => some (gregonWord x 0x09 (low3R rd ra rb 4))
  | .divuw x rd ra rb => some (gregonWord x 0x09 (low3R rd ra rb 5))
  | .remw x rd ra rb => some (gregonWord x 0x09 (low3R rd ra rb 6))
  | .remuw x rd ra rb => some (gregonWord x 0x09 (low3R rd ra rb 7))
  | .cmp x pd ra rb cond => some (gregonWord x 0x0A (2 ^ 19 * pd.val + 2 ^ 14 * ra.val + 2 ^ 9 * rb.val + condCode cond))
  | .cmpi x pd ra imm cond => some (gregonWord x 0x0B (2 ^ 19 * pd.val + 2 ^ 14 * ra.val + 2 ^ 4 * imm.toNat + condCode cond))
  | .pand x pd pa pb => some (gregonWord x 0x0C (lowP pd pa pb 0))
  | .por x pd pa pb => some (gregonWord x 0x0C (lowP pd pa pb 1))
  | .pxor x pd pa pb => some (gregonWord x 0x0C (lowP pd pa pb 2))
  | .pandn x pd pa pb => some (gregonWord x 0x0C (lowP pd pa pb 3))
  | .pnot x pd pa => some (gregonWord x 0x0C (lowP pd pa 0 4))
  | .clz x rd ra => some (gregonWord x 0x0D (low3R rd ra 0 0))
  | .ctz x rd ra => some (gregonWord x 0x0D (low3R rd ra 0 1))
  | .popc x rd ra => some (gregonWord x 0x0D (low3R rd ra 0 2))
  | .bswap x rd ra => some (gregonWord x 0x0D (low3R rd ra 0 3))
  | .sextb x rd ra => some (gregonWord x 0x0D (low3R rd ra 0 4))
  | .sexth x rd ra => some (gregonWord x 0x0D (low3R rd ra 0 5))
  | .sextw x rd ra => some (gregonWord x 0x0D (low3R rd ra 0 6))
  | .zextw x rd ra => some (gregonWord x 0x0D (low3R rd ra 0 7))
  | .sel x rd ra rb ps => some (gregonWord x 0x0E (low3R rd ra rb (2 ^ 4 * ps.val)))
  | .ldu x rd ra size imm => some (gregonWord x 0x10 (lowRI rd ra (2 ^ 10 * sizeCode size + imm.toNat)))
  | .lds x rd ra size imm => some (gregonWord x 0x11 (lowRI rd ra (2 ^ 10 * sizeCode size + imm.toNat)))
  | .st x rd ra size imm => some (gregonWord x 0x12 (lowRI rd ra (2 ^ 10 * sizeCode size + imm.toNat)))
  | .lsxLoad x rd ra rb size signed => some (gregonWord x 0x13 (low3R rd ra rb (lsxFunc 0 size signed)))
  | .lsxStore x rd ra rb size signed => some (gregonWord x 0x13 (low3R rd ra rb (lsxFunc 1 size signed)))
  | .lsxLoadPostinc x rd ra rb size signed => some (gregonWord x 0x13 (low3R rd ra rb (lsxFunc 2 size signed)))
  | .lsxStorePostinc x rd ra rb size signed => some (gregonWord x 0x13 (low3R rd ra rb (lsxFunc 3 size signed)))
  | .swap x rd ra rb wide => some (gregonWord x 0x14 (low3R rd ra rb (amoFunc 0 wide)))
  | .amoAdd x rd ra rb wide => some (gregonWord x 0x14 (low3R rd ra rb (amoFunc 1 wide)))
  | .amoAnd x rd ra rb wide => some (gregonWord x 0x14 (low3R rd ra rb (amoFunc 2 wide)))
  | .amoOr x rd ra rb wide => some (gregonWord x 0x14 (low3R rd ra rb (amoFunc 3 wide)))
  | .amoXor x rd ra rb wide => some (gregonWord x 0x14 (low3R rd ra rb (amoFunc 4 wide)))
  | .amoMin x rd ra rb wide => some (gregonWord x 0x14 (low3R rd ra rb (amoFunc 5 wide)))
  | .amoMax x rd ra rb wide => some (gregonWord x 0x14 (low3R rd ra rb (amoFunc 6 wide)))
  | .cas x rd ra rb wide => some (gregonWord x 0x14 (low3R rd ra rb (amoFunc 7 wide)))
  | .prefL1d x ra imm => some (gregonWord x 0x15 (lowRI 0 ra imm.toNat))
  | .prefL2 x ra imm => some (gregonWord x 0x15 (lowRI 1 ra imm.toNat))
  | .prefStreamStart x ra imm => some (gregonWord x 0x15 (lowRI 2 ra imm.toNat))
  | .prefStreamEnd x ra imm => some (gregonWord x 0x15 (lowRI 3 ra imm.toNat))
  | .icInvA x ra => some (gregonWord x 0x16 (low3R 0 ra 0 0x00))
  | .dcInvA x ra => some (gregonWord x 0x16 (low3R 0 ra 0 0x01))
  | .l2ClnA x ra => some (gregonWord x 0x16 (low3R 0 ra 0 0x02))
  | .l2InvA x ra => some (gregonWord x 0x16 (low3R 0 ra 0 0x03))
  | .l2CiA x ra => some (gregonWord x 0x16 (low3R 0 ra 0 0x04))
  | .icInvSw x ra => some (gregonWord x 0x16 (low3R 0 ra 0 0x08))
  | .dcInvSw x ra => some (gregonWord x 0x16 (low3R 0 ra 0 0x09))
  | .l2ClnSw x ra => some (gregonWord x 0x16 (low3R 0 ra 0 0x0A))
  | .l2InvSw x ra => some (gregonWord x 0x16 (low3R 0 ra 0 0x0B))
  | .l2CiSw x ra => some (gregonWord x 0x16 (low3R 0 ra 0 0x0C))
  | .fence x => some (gregonWord x 0x17 (0))
  | .fenceSt x => some (gregonWord x 0x17 (1))
  | .fenceI x => some (gregonWord x 0x17 (2))
  | .fenceT x => some (gregonWord x 0x17 (3))
  | .br x disp => some (gregonWord x 0x18 (disp.toNat))
  | .call x disp => some (gregonWord x 0x19 (disp.toNat))
  | .jr x ra => some (gregonWord x 0x1A (low3R 0 ra 0 0))
  | .jalr x rd ra => some (gregonWord x 0x1A (low3R rd ra 0 1))
  | .dbnz x ra disp => some (gregonWord x 0x1B (2 ^ 17 * ra.val + disp.toNat))
  | .crrd x g crn => some (gregonWord x 0x1C (2 ^ 17 * g.val + 2 ^ 5 * crn.toNat + 0))
  | .crwr x g crn => some (gregonWord x 0x1C (2 ^ 17 * g.val + 2 ^ 5 * crn.toNat + 1))
  | .crset x g crn => some (gregonWord x 0x1C (2 ^ 17 * g.val + 2 ^ 5 * crn.toNat + 2))
  | .crclr x g crn => some (gregonWord x 0x1C (2 ^ 17 * g.val + 2 ^ 5 * crn.toNat + 3))
  | .nop x => some (gregonWord x 0x1D (0))
  | .trap x imm => some (gregonWord x 0x1D (2 ^ 14 * imm.toNat + 1))
  | .eret x => some (gregonWord x 0x1D (2))
  | .wait x => some (gregonWord x 0x1D (3))
  | .brk x => some (gregonWord x 0x1D (4))
  | .saveC x => some (gregonWord x 0x1E (0))
  | .saveH x => some (gregonWord x 0x1E (1))
  | .loadC x => some (gregonWord x 0x1E (2))
  | .loadH x => some (gregonWord x 0x1E (3))
  | .smov x rd ra rb size => some (gregonWord x 0x20 (low3R rd ra rb (sizeCode size)))
  | .sset x rd ra rb size => some (gregonWord x 0x21 (low3R rd ra rb (sizeCode size)))
  | .scmp x rd ra rb size pd => some (gregonWord x 0x22 (low3R rd ra rb (2 ^ 2 * pd.val + sizeCode size)))
  | .sscan x rd ra rb size pd => some (gregonWord x 0x23 (low3R rd ra rb (2 ^ 2 * pd.val + sizeCode size)))
  | .rep x rc _ => some (gregonWord x 0x24 (2 ^ 17 * rc.val))
  | .crcs x rd ra rb size .crc32c => some (gregonWord x 0x25 (low3R rd ra rb (sizeCode size)))
  | .crcs x rd ra rb size .ieee => some (gregonWord x 0x25 (low3R rd ra rb (4 + sizeCode size)))
  | .par x rd ra => some (gregonWord x 0x26 (low3R rd ra 0 0))
  | .parb x rd ra => some (gregonWord x 0x26 (low3R rd ra 0 1))
  | .brev x rd ra => some (gregonWord x 0x26 (low3R rd ra 0 2))
  | .brevb x rd ra => some (gregonWord x 0x26 (low3R rd ra 0 3))
  | .brevw x rd ra => some (gregonWord x 0x26 (low3R rd ra 0 4))
  | .tld x td ra rb rows hint =>
    some (gregonWord x 0x28 (2 ^ 19 * td.val + 2 ^ 14 * ra.val + 2 ^ 9 * rb.val + 2 ^ 3 * rows.toNat + 2 * hint.toNat))
  | .tst x ts ra rb rows => some (gregonWord x 0x29 (2 ^ 19 * ts.val + 2 ^ 14 * ra.val + 2 ^ 9 * rb.val + 2 ^ 3 * rows.toNat))
  | .tmma x ad ta tb fmt z =>
    some (gregonWord x 0x2A (2 ^ 20 * ad.val + 2 ^ 17 * ta.val + 2 ^ 14 * tb.val +
      2 ^ 11 * fmt.toNat + (if z then 2 ^ 10 else 0)))
  | .tswap x n => some (gregonWord x 0x2B (2 ^ 19 * n.val))
  | .tdrn x l td => some (gregonWord x 0x2B (2 ^ 19 * l.val + 2 ^ 16 * td.val + 1))
  | .tclra x n => some (gregonWord x 0x2B (2 ^ 19 * n.val + 2))
  | .tclrt x t => some (gregonWord x 0x2B (2 ^ 19 * t.val + 3))
  | .tlda x n ra => some (gregonWord x 0x2C (2 ^ 20 * n.val + 2 ^ 15 * ra.val))
  | .tsta x n ra => some (gregonWord x 0x2C (2 ^ 20 * n.val + 2 ^ 15 * ra.val + 1))
  | .custw0 x rd ra rb func => some (gregonWord x 0x3C (low3R rd ra rb func.toNat))
  | .custw1 x rd ra rb func => some (gregonWord x 0x3D (low3R rd ra rb func.toNat))
  | .cust0 x rd ra rb func => some (gregonWord x 0x3E (low3R rd ra rb func.toNat))
  | .cust1 x rd ra rb func => some (gregonWord x 0x3F (low3R rd ra rb func.toNat))
  | _ => none

/-- Who issues an instruction of a core, and under which predicate. -/
def Instr.issue (i : Instr) : Option Issue :=
  match i with
  | .add x _ _ _ => some x
  | .sub x _ _ _ => some x
  | .and x _ _ _ => some x
  | .or x _ _ _ => some x
  | .xor x _ _ _ => some x
  | .andn x _ _ _ => some x
  | .sll x _ _ _ => some x
  | .srl x _ _ _ => some x
  | .sra x _ _ _ => some x
  | .ror x _ _ _ => some x
  | .min x _ _ _ => some x
  | .max x _ _ _ => some x
  | .minu x _ _ _ => some x
  | .maxu x _ _ _ => some x
  | .addw x _ _ _ => some x
  | .subw x _ _ _ => some x
  | .sllw x _ _ _ => some x
  | .srlw x _ _ _ => some x
  | .sraw x _ _ _ => some x
  | .addi x _ _ _ => some x
  | .andi x _ _ _ => some x
  | .ori x _ _ _ => some x
  | .xori x _ _ _ => some x
  | .slli x _ _ _ => some x
  | .srli x _ _ _ => some x
  | .srai x _ _ _ => some x
  | .rori x _ _ _ => some x
  | .movi x _ _ => some x
  | .orsh x _ _ => some x
  | .mul x _ _ _ => some x
  | .mulh x _ _ _ => some x
  | .mulhu x _ _ _ => some x
  | .mulw x _ _ _ => some x
  | .div x _ _ _ => some x
  | .divu x _ _ _ => some x
  | .rem x _ _ _ => some x
  | .remu x _ _ _ => some x
  | .divw x _ _ _ => some x
  | .divuw x _ _ _ => some x
  | .remw x _ _ _ => some x
  | .remuw x _ _ _ => some x
  | .cmp x _ _ _ _ => some x
  | .cmpi x _ _ _ _ => some x
  | .pand x _ _ _ => some x
  | .por x _ _ _ => some x
  | .pxor x _ _ _ => some x
  | .pandn x _ _ _ => some x
  | .pnot x _ _ => some x
  | .clz x _ _ => some x
  | .ctz x _ _ => some x
  | .popc x _ _ => some x
  | .bswap x _ _ => some x
  | .sextb x _ _ => some x
  | .sexth x _ _ => some x
  | .sextw x _ _ => some x
  | .zextw x _ _ => some x
  | .sel x _ _ _ _ => some x
  | .ldu x _ _ _ _ => some x
  | .lds x _ _ _ _ => some x
  | .st x _ _ _ _ => some x
  | .lsxLoad x _ _ _ _ _ => some x
  | .lsxStore x _ _ _ _ _ => some x
  | .lsxLoadPostinc x _ _ _ _ _ => some x
  | .lsxStorePostinc x _ _ _ _ _ => some x
  | .swap x _ _ _ _ => some x
  | .amoAdd x _ _ _ _ => some x
  | .amoAnd x _ _ _ _ => some x
  | .amoOr x _ _ _ _ => some x
  | .amoXor x _ _ _ _ => some x
  | .amoMin x _ _ _ _ => some x
  | .amoMax x _ _ _ _ => some x
  | .cas x _ _ _ _ => some x
  | .prefL1d x _ _ => some x
  | .prefL2 x _ _ => some x
  | .prefStreamStart x _ _ => some x
  | .prefStreamEnd x _ _ => some x
  | .icInvA x _ => some x
  | .dcInvA x _ => some x
  | .l2ClnA x _ => some x
  | .l2InvA x _ => some x
  | .l2CiA x _ => some x
  | .icInvSw x _ => some x
  | .dcInvSw x _ => some x
  | .l2ClnSw x _ => some x
  | .l2InvSw x _ => some x
  | .l2CiSw x _ => some x
  | .fence x => some x
  | .fenceSt x => some x
  | .fenceI x => some x
  | .fenceT x => some x
  | .br x _ => some x
  | .call x _ => some x
  | .jr x _ => some x
  | .jalr x _ _ => some x
  | .dbnz x _ _ => some x
  | .crrd x _ _ => some x
  | .crwr x _ _ => some x
  | .crset x _ _ => some x
  | .crclr x _ _ => some x
  | .nop x => some x
  | .trap x _ => some x
  | .eret x => some x
  | .wait x => some x
  | .brk x => some x
  | .saveC x => some x
  | .saveH x => some x
  | .loadC x => some x
  | .loadH x => some x
  | .smov x _ _ _ _ => some x
  | .sset x _ _ _ _ => some x
  | .scmp x _ _ _ _ _ => some x
  | .sscan x _ _ _ _ _ => some x
  | .rep x _ _ => some x
  | .crcs x _ _ _ _ _ => some x
  | .par x _ _ => some x
  | .parb x _ _ => some x
  | .brev x _ _ => some x
  | .brevb x _ _ => some x
  | .brevw x _ _ => some x
  | .tld x _ _ _ _ _ => some x
  | .tst x _ _ _ _ => some x
  | .tmma x _ _ _ _ _ => some x
  | .tswap x _ => some x
  | .tdrn x _ _ => some x
  | .tclra x _ => some x
  | .tclrt x _ => some x
  | .tlda x _ _ => some x
  | .tsta x _ _ => some x
  | .custw0 x _ _ _ _ => some x
  | .custw1 x _ _ _ _ => some x
  | .cust0 x _ _ _ _ => some x
  | .cust1 x _ _ _ _ => some x
  | _ => none

/-- The word after an instruction that it takes as its body: that of a REP (R86). -/
def Instr.bodyWord (i : Instr) (next : BitVec 32) : BitVec 32 :=
  match i with
  | .rep _ _ body => body
  | _ => next

end Sys2Proof
end

