-- ==== Sys2Proof/Machine/ShippedTables.lean ====
section
/-! DEFINITION. Byte strings, and the two code tables that are in force after PORST_N (R156). -/

namespace Sys2Proof.Machine

/-- A string of `len` bytes, such as a section body: byte `i` is bits `8i` to `8i + 7` of `bits` (R4), and no bit
past the last byte is set. -/
structure Blob where
  len  : Nat
  bits : Nat
deriving DecidableEq, Repr

/-- The empty string. -/
def Blob.empty : Blob := { len := 0, bits := 0 }

/-- A BF16 value `±m × 2^e`, exact for the small tables here (Table 1 of "Tile arithmetic, bit for bit"). -/
def bf16Exact (neg : Bool) (m : Nat) (e : Int) : Nat :=
  let sign := if neg then 0x8000 else 0
  if m = 0 then sign else
    let l := Nat.log2 m
    sign + ((e + l + 127).toNat <<< 7) + (((m <<< 7) >>> l) % 128)

/-- The BF16 entry of E4M3 code `c` (Table 4 of "Tile arithmetic, bit for bit"). -/
def e4m3Entry (c : Nat) : Nat :=
  let neg := c ≥ 128
  let e := (c / 8) % 16
  let m := c % 8
  if c % 128 = 127 then (if neg then 0xFFC0 else 0x7FC0)
  else if e = 0 then bf16Exact neg m (-9)
  else bf16Exact neg (8 + m) ((e : Int) - 10)

/-- The BF16 entry of E5M2 code `c`. The NaN entries' payloads are never observed (R158, R173); log entry 12. -/
def e5m2Entry (c : Nat) : Nat :=
  let neg := c ≥ 128
  let e := (c / 4) % 32
  let m := c % 4
  if e = 31 then
    (if m = 0 then (if neg then 0xFF80 else 0x7F80) else (if neg then 0xFFC0 else 0x7FC0))
  else if e = 0 then bf16Exact neg m (-16)
  else bf16Exact neg (4 + m) ((e : Int) - 17)

/-- Whether a BF16 word is a NaN. -/
def bf16IsNan (w : Nat) : Bool := (w >>> 7) % 256 == 255 && w % 128 != 0

/-- A shipped code-table slot in the layout of Table 3: PRESENT, ORDER 0, EVEN on even codes that are not NaN. -/
def shippedSlot (entry : Nat → Nat) (flushBelow : Nat) : Blob :=
  let codes := List.range 256
  let even := codes.foldl (fun acc c => if c % 2 = 0 && !bf16IsNan (entry c) then acc ||| (1 <<< c) else acc) 0
  let entries := codes.foldl (fun acc c => acc ||| (entry c <<< (16 * c))) 0
  { len := 1024, bits := 1 ||| (flushBelow <<< 32) ||| (even <<< 256) ||| (entries <<< 512) }

/-- The four slots after PORST_N: E4M3, E5M2, empty, empty (R156). -/
def shippedCodes : List Blob :=
  [shippedSlot e4m3Entry 0x3C80, shippedSlot e5m2Entry 0x3880, { len := 1024, bits := 0 }, { len := 1024, bits := 0 }]

end Sys2Proof.Machine
end

