-- ==== Sys2Proof/Machine/State.lean ====
section
/-! DEFINITION. The state of the block as plain data: everything the manual gives it, by unit, and the queue of
waiting commands; the named stops; and the state under power-on reset. INVENTORY.md lists each field with its rule
and its reset value. -/

namespace Sys2Proof.Machine

/-- The faults a step can stop with. The block has none: what the manual calls a fault or an exception is recorded
or taken, and is a next state. The constructor stands for no row. -/
inductive Fault where
  /-- Raised by no meaning; safe, since no step stops with it. -/
  | unreachable
deriving DecidableEq, Repr

/-- The refusals of a step. -/
inductive Refusal where
  /-- Raised by Machine/Dispatch.lean for a command without a meaning yet; safe: the block stops. -/
  | notModelled (mnemonic : String)
deriving DecidableEq, Repr

-- Cores ------------------------------------------------------------------------------------------------

/-- A late bus error of a berth (R126): pending while `taken` is false, then handled until its handler's ERET, with
`depth` further entries to return from first. -/
structure Lbe where
  addr  : BitVec 48
  more  : BitVec 3
  taken : Bool
  depth : Nat
deriving DecidableEq, Repr

/-- A Gregon context (R106). `pocketLost` is set when a pocket write of the berth failed (R121); `started` once the berth
has become RUNNING or READY under R108; `midway` while the string instruction or REP at `pc` stands at a boundary within it (R85,
R87); `epiFaults` holds the codes of the epilogue exceptions that wait (R180), oldest first. -/
structure Berth where
  g           : Vector Word 32
  p           : BitVec 8
  pc          : Word
  waiting     : Bool
  started     : Bool
  halted      : Bool
  prio        : BitVec 4
  compat      : Bool
  ie          : Bool
  priv        : BitVec 2
  estat       : Word
  era         : BitVec 48
  ereason     : BitVec 16
  gtb         : Word
  slv         : Word
  pocket      : Word
  mode        : BitVec 5
  modeLast    : BitVec 5
  modePend    : List (BitVec 5 × Nat)
  midway      : Bool
  fstat       : BitVec 6
  townEn      : Bool
  townSaved   : Bool
  townHeld    : Bool
  epi         : Word
  epiSerial   : Nat
  tkbase      : Word
  lbe         : Option Lbe
  pocketFault : Option (BitVec 48)
  pocketLost  : Bool
  epiFaults   : List (BitVec 16)
  customer    : Option (BitVec 5)
deriving DecidableEq, Repr

/-- A store in the store buffer (R95, R202). -/
structure StoreEntry where
  berth : BerthId
  addr  : BitVec 48
  data  : Word
  size  : Size
deriving DecidableEq, Repr

/-- What an acknowledgement that is awaited belongs to: a store of the store buffer or an atomic, a tile store or drain write,
or a write of a pocket save (R78, R121, R148, R316). -/
inductive SentKind where
  | core | tile | pocket
deriving DecidableEq, Repr

/-- A write that has left and is not acknowledged (R78): `err` when it was refused, `port` when a memory port acknowledges
it. -/
structure SentStore where
  kind  : SentKind
  berth : BerthId
  addr  : BitVec 48
  err   : Bool
  port  : Bool
deriving DecidableEq, Repr

/-- A line of an L1 cache; `line` is its address divided by 64 (R199). -/
structure L1Line where
  line : Nat
  way  : Nat
  data : Line
deriving DecidableEq, Repr

/-- An L1 cache: its lines and the replacement pointer of each set whose pointer is not way 0 (R201). -/
structure L1 where
  lines : List L1Line
  ptrs  : List (Nat × Nat)
deriving DecidableEq, Repr

/-- A line-buffer entry (R92, R203): a line with its 64 bytes. -/
structure BufLine where
  line : Nat
  data : Line
deriving DecidableEq, Repr

/-- A prefetch stream: its next line and the highest line of it that the core has touched (R221). -/
structure PfStream where
  next : Nat
  high : Nat
deriving DecidableEq, Repr

/-- A customer request in flight (R42, R90). -/
structure CustReq where
  tag   : BitVec 5
  berth : BerthId
  insn  : BitVec 32
  opa   : Word
  opb   : Word
  rd    : Option Reg
deriving DecidableEq, Repr

/-- An accumulator or lining (R132): A16 when `a16`. A cell is row-major, row `i` column `j` at `32i + j`. -/
structure Accum where
  a16    : Bool
  kcount : BitVec 32
  cells  : List Cell40
deriving DecidableEq, Repr

/-- An entry of a row's top-k set (R188). -/
structure TopEntry where
  val : BitVec 32
  pos : BitVec 16
deriving DecidableEq, Repr

/-- A row's running maximum and sum (R186). -/
structure RowStat where
  m : Cell40
  s : Cell40
deriving DecidableEq, Repr

/-- What the tile unit holds for its owner (R132). -/
structure TileState where
  tiles : List (List Line)
  accs  : List Accum
  lins  : List Accum
  topk  : List (List TopEntry)
  stats : List RowStat
deriving DecidableEq, Repr

/-- The operation of a tile-queue entry with what it takes with it at issue (R95, R140, R157, R177). -/
inductive TileOp where
  | tld (td : TileReg) (base stride : Word) (rows : Nat) (hint : BitVec 2)
  | tst (ts : TileReg) (base stride : Word) (rows : Nat)
  | tmma (ad : AccReg) (ta tb : TileReg) (fmt : BitVec 3) (z : Bool) (mode : BitVec 5) (codes : List Blob)
  | tswap (n : AccReg) (a16 : Bool)
  | tdrn (l : AccReg) (td : TileReg) (epi : Word) (serial : Nat) (tkbase : Word) (mode : BitVec 5) (codes : List Blob)
  | tclra (n : AccReg) (a16 : Bool)
  | tclrt (t : TileReg)
  | tlda (n : AccReg) (base : Word) (a16 : Bool)
  | tsta (n : AccReg) (base : Word)
deriving DecidableEq, Repr

/-- A tile-queue entry: `flags` are the FSTAT flags it sets when it completes, `errs` the failed lines (R147, R148). -/
structure TileEntry where
  berth   : BerthId
  op      : TileOp
  started : Bool
  done    : Bool
  flags   : BitVec 6
  errs    : List (BitVec 48)
deriving DecidableEq, Repr

/-- A held epilogue descriptor (R179): `none` data is a read that failed. -/
structure HeldDesc where
  berth  : BerthId
  serial : Nat
  epi    : Word
  data   : Option (BitVec 1024)
deriving DecidableEq, Repr

/-- The drain in progress (R181): the descriptor, the next row and what the TDRN took at issue. -/
structure Drain where
  berth  : BerthId
  l      : AccReg
  td     : TileReg
  tkbase : Word
  mode   : BitVec 5
  codes  : List Blob
  desc   : BitVec 1024
  curves : List Blob
  bias   : Line
  row    : Nat
deriving DecidableEq, Repr

/-- A row handed to the dispatch unit (R194). `next` is the rank of the next write to start; `table` holds, from the
hand-off on, the DISPATCH_TABLE entry of each position, none where the active table has none. -/
structure Handoff where
  row     : Nat
  desc    : BitVec 1024
  entries : List TopEntry
  m       : BitVec 32
  s       : BitVec 32
  next    : Nat
  table   : List (Option (BitVec 128))
deriving DecidableEq, Repr

/-- An overflow record that waits for room in its list (R198). -/
structure OvRecord where
  base : BitVec 48
  log2 : Nat
  done : Ctr
  data : BitVec 256
deriving DecidableEq, Repr

/-- The prefetch of a TLD hint (R149): the lines still to issue. -/
structure TilePf where
  base   : Word
  stride : Word
  rows   : Nat
  next   : Nat
deriving DecidableEq, Repr

/-- A core's tile unit (R132, R142, R144, R179). `save` holds, while a save of R120 is due, how many of the leading
queue entries it still waits for; `katDue` from the due time of the known-answer test to its end (R150). -/
structure TileUnit where
  katDue : Bool
  owner : Option BerthId
  st    : TileState
  queue : List TileEntry
  held  : List HeldDesc
  drain : Option Drain
  rows  : List Handoff
  pf    : List TilePf
  save  : Option Nat
deriving DecidableEq, Repr

/-- What the event entry in force when an event was raised gives it (R62, Table 3 of "Berths, the pilot and exceptions"). -/
structure EvTerms where
  coalesce : Bool
  prio     : BitVec 4
  vector   : Byte
  berth    : BerthId
deriving DecidableEq, Repr

/-- An entry of the pilot's pending store (R113), with the priority and the vector that its event was raised under. -/
structure Arrival where
  id     : BitVec 12
  berth  : BerthId
  count  : BitVec 16
  age    : Word
  prio   : BitVec 4
  vector : Byte
deriving DecidableEq, Repr

/-- The signals of a coprocessor port that the block drives with a request (Table 5 of "Block boundary and ports"). -/
structure CpOut where
  tag  : BitVec 5
  insn : BitVec 32
  opa  : Word
  opb  : Word
deriving DecidableEq, Repr

/-- A core (R92, R106, R45). `last` is the berth that ran last, `selected` the one that the pilot has chosen. The reorder
buffer of 448 entries (R92, R95) holds the instruction that waits, `stalled`, and the younger ones behind it, `rob`. `custLate` are
the tags of requests that ran out of time and whose response has not come (R91); `cpOut` is what CPn last carried; `haltDue` is
the REASON of a halt that waits for the response to a customer instruction (R45, R105). -/
structure Core where
  berths    : Vector Berth 8
  running   : Option BerthId
  selected  : Option BerthId
  last      : BerthId
  cyc       : Word
  sb        : List StoreEntry
  sent      : List SentStore
  l1i       : L1
  l1d       : L1
  lineBuf   : List BufLine
  stalled   : Option Instr
  rob       : List Instr
  fills     : List Nat
  streams   : List PfStream
  cust      : List CustReq
  custLate  : List (BitVec 5)
  cpOut     : CpOut
  halted    : Bool
  haltDue   : Option (BitVec 2)
  reason    : BitVec 2
  hold      : Bool
  traceEn   : Bool
  berthSel  : BerthId
  atestBusy : Bool
  atestFail : Bool
  stuck     : Bool
  tileBad   : Bool
  tile      : TileUnit
  pend      : List Arrival
  spilled   : List (Arrival × Nat)
  spillSeq  : List (Nat × Nat)
  handoffs  : List Handoff
  overflow  : List OvRecord
deriving DecidableEq, Repr

-- The L2 and memory ------------------------------------------------------------------------------------

/-- An L2 line (R204, R205, R216): byte-valid mask, dirty, sharers and poisoned 8-byte granules. -/
structure L2Line where
  line    : Nat
  way     : Nat
  data    : Line
  mask    : BitVec 64
  dirty   : Bool
  sharers : BitVec 16
  poison  : BitVec 8
deriving DecidableEq, Repr

/-- A line that its slice holds for a chunk of a quay program, from the read to the write (R208): the launch and the chunk. -/
structure LineHold where
  line   : Nat
  launch : Nat
  chunk  : Nat
deriving DecidableEq, Repr

/-- The L2 (R199-R222): lines, pointers by 2,048 × slice + set, the order of first dirtying, poison lists, skips,
L2_L1CTL, L2_MAINT, L2_ATEST, and scratch with its poisoned granules, both by place (R220). `tested` while the arrays hold the
test patterns of R222. -/
structure L2 where
  lines     : List L2Line
  ptrs      : List (Nat × Nat)
  order     : List Nat
  poison    : List (Nat × BitVec 8)
  skips     : Vector (BitVec 32) 16
  den       : BitVec 16
  ien       : BitVec 16
  maintBusy : Bool
  atestBusy : Bool
  atestFail : Bool
  tested    : Bool
  holds     : List LineHold
  scratch   : List Host.Cell
  scrPoison : List (Nat × BitVec 8)
deriving DecidableEq, Repr

/-- A request outstanding on a memory port (R22): the line is the address divided by 64. -/
structure PortReq where
  tag    : BitVec 9
  write  : Bool
  client : Client
  line   : Nat
  len    : Bool
deriving DecidableEq, Repr

/-- The signals of a memory port that the block drives (Table 2 of "Block boundary and ports"). -/
structure MpPins where
  rdValid : Bool
  rdAddr  : BitVec 42
  rdLen   : Bool
  rdTag   : BitVec 9
  wrValid : Bool
  wrAddr  : BitVec 42
  wrLen   : Bool
  wrTag   : BitVec 9
  wrData  : BitVec 1024
  wrStrb  : BitVec 128
deriving DecidableEq, Repr

/-- The signals that the block drives (R16), but for those that another field holds: the memory ports, and the VALID and credit
signals of the other ports, which are high for one cycle: HP_RSP, IDP_CREDIT, TP_CMD, CPn_REQ and LPn_TX with its FIRST. -/
structure Pins where
  mp      : Vector MpPins 16
  hpRsp   : Bool
  credit  : Bool
  tpCmd   : Bool
  cpReq   : BitVec 16
  lpTx    : BitVec 48
deriving DecidableEq, Repr

-- Structure image and host -----------------------------------------------------------------------------

/-- An enable unit (Table 7 of "Structure image, enabling and host replies"). -/
inductive EnUnit where
  | clock | memory | l2 | quay | link | hawser | dock | epilogue | pilot | safety
  | core (n : CoreId)
deriving DecidableEq, Repr

/-- A committed section: a whole body, or a PARTIAL one that starts at entry `first` (R51, R62). -/
structure Sect where
  body  : Blob
  isPartial : Bool
  first : Nat
deriving DecidableEq, Repr

/-- A commit in progress (R54): the section id, the reason it will end with (0 for none), the body and, for
MANIFEST, the node id and serial. -/
structure CommitJob where
  sect   : Nat
  reason : Nat
  body   : Sect
  nodeId : BitVec 15
  serial : Word
deriving DecidableEq, Repr

/-- The phases of a harbour closing (Table 6 of "Operating at scale"). `swept` is drain ended, save and clean done. -/
inductive Harbour where
  | open | notice | drain | swept | closed
deriving DecidableEq, Repr

/-- The work present at the stop edge (R349): queue descriptors, dispatch writes, launches, served operations and
the chains in a run, each with its RUNS. -/
structure Cut where
  descs    : List (Nat × BitVec 32)
  dispatch : List Nat
  launches : List Nat
  served   : List Nat
  chains   : List (Nat × BitVec 32)
deriving DecidableEq, Repr

/-- The SI unit (R50-R64, R347-R351). `parity` lists the active sections whose chart-store copy has a parity error
(source 0x0C of Table 3 of "Faults, safety and the breakwater"). -/
structure Si where
  staging    : Nat
  pend       : List (Nat × Sect)
  active     : List (Nat × Blob)
  codes      : List Blob
  curves     : List Blob
  nodeId     : BitVec 15
  serial     : Word
  enable     : BitVec 32
  commit     : Option CommitJob
  csSection  : BitVec 8
  csReason   : BitVec 16
  csState    : BitVec 2
  check      : Option (EnUnit × HostId)
  notice     : BitVec 10
  harbour    : Harbour
  stuck      : BitVec 16
  elapsed    : BitVec 32
  incomplete : BitVec 8
  goTime     : Word
  stopTime   : Word
  cut        : Cut
  untested   : Bool
  parity     : List Nat
deriving DecidableEq, Repr

/-- A host reply before ATTN is sampled (R12, R31, R64). -/
structure Reply where
  outcome : BitVec 4
  data    : BitVec 32
  rdata   : Word
deriving DecidableEq, Repr

/-- A host request that has transferred and is not answered: its unit window and, once decided, its reply (R29, R32). -/
structure HostReq where
  id     : HostId
  window : Nat
  reply  : Option Reply
deriving DecidableEq, Repr

/-- A request of the SI window that waits behind an SI_ENABLE check (R32, R33). -/
structure HostJob where
  id    : HostId
  write : Bool
  addr  : BitVec 24
  wdata : Word
deriving DecidableEq, Repr

/-- The reply on the HP_RSP signals (R31, Table 4 of "Block boundary and ports"). -/
structure HostRsp where
  id     : HostId
  status : BitVec 8
  data   : BitVec 32
  rdata  : Word
deriving DecidableEq, Repr

/-- The host port. -/
structure HostPort where
  outstanding : List HostReq
  waiting     : List HostJob
  rsp         : HostRsp
deriving DecidableEq, Repr

/-- The debug port and the trace buffer (R47, R48). -/
structure Debug where
  beats     : List (BitVec 48)
  trace     : List Word
  lost      : BitVec 32
  lastStamp : Word
  sent      : Word
deriving DecidableEq, Repr

-- Clocks and breakwater --------------------------------------------------------------------------------

/-- The root's source (Table 7 of "Clocks, reference and supply events"). -/
inductive RefSource where
  | refLocal | link (n : LinkId) | holdover
deriving DecidableEq, Repr

/-- The CK unit (R305-R320). -/
structure Clocks where
  source     : RefSource
  localUp    : Bool
  present    : BitVec 48
  bad        : BitVec 48
  timeStep   : Bool
  localDev   : Bool
  noMajority : Bool
  dLocal     : BitVec 16
  dAlt       : BitVec 16
  episode    : Bool
  agree      : Nat
  beyond     : Nat
  pEst       : BitVec 10
  throttle   : Nat
  below      : Nat
  divs       : Vector (BitVec 3) 16
  gates      : BitVec 21
  reselect   : Bool
  supEpisode : Bool
  supCount   : Bool
  stopped    : Bool
  aonTime    : Bool
deriving DecidableEq, Repr

/-- A first-error capture (R326). -/
structure Capture where
  valid : Bool
  esc   : Bool
  count : BitVec 8
  ev    : FaultEvent
  time  : Word
deriving DecidableEq, Repr

/-- A log entry before it is written (Table 4 of "Operating at scale"): `event` for an attention event. -/
structure LogEntry where
  time  : Word
  event : Bool
  code  : BitVec 8
  cls   : BitVec 2
  esc   : Bool
  ev    : FaultEvent
deriving DecidableEq, Repr

/-- A fault that the collector has not accepted (R325), with TIME at its detection and whether BW_INJECT caused it (R340). -/
structure QueuedFault where
  ev       : FaultEvent
  time     : Word
  injected : Bool
deriving DecidableEq, Repr

/-- A fault recorded and not acknowledged (R323): its class 0 C, 1 U, 2 F. -/
structure Unacked where
  src  : BitVec 6
  inst : BitVec 8
  cls  : BitVec 2
deriving DecidableEq, Repr

/-- Fault counts of an instance (R338): keyed by unit kind and number. -/
structure InstCount where
  unit : BitVec 4
  inst : BitVec 8
  c    : Nat
  u    : Nat
deriving DecidableEq, Repr

/-- The breakwater (R321-R342) and the fault log (R345, R346). `armed` holds the RELEASE bits that were written while SAFE
was 0 (R332), `startupFailed` says that the start-up self-test has failed (R336), `keepAt` is the TIME at which the keepalive window
began (R331), and `periodAt` that of the self-test period in progress (R334). -/
structure Breakwater where
  attn      : BitVec 16
  pendC     : BitVec 41
  pendU     : BitVec 41
  pendF     : BitVec 41
  freed     : BitVec 41
  capFreed  : Bool
  caps      : Vector Capture 3
  queue     : List QueuedFault
  lostq     : BitVec 8
  unacked   : List Unacked
  doubleF   : Bool
  fStop     : Bool
  startupOk : Bool
  startupFailed : Bool
  safe      : Bool
  stopA     : Bool
  stopB     : Bool
  runA      : Nat
  runB      : Nat
  discCnt   : BitVec 21
  stopFault : Bool
  release   : BitVec 10
  armed     : BitVec 10
  keepExp   : Bool
  keepAt    : Word
  periodAt  : Option Word
  counts    : List InstCount
  markCore  : BitVec 16
  markSlice : BitVec 16
  markPort  : BitVec 16
  markLink  : BitVec 48
  logBase   : BitVec 36
  logSize   : BitVec 4
  logEn     : Bool
  ringBase  : BitVec 36
  ringSize  : BitVec 4
  logBuf    : List LogEntry
  logLost   : BitVec 8
  logErr    : Bool
  logPut    : Word
  logTake   : Word
  logSeq    : BitVec 32
deriving DecidableEq, Repr

-- Pilot, ingress, table port ---------------------------------------------------------------------------

/-- Where an offered arrival waits (Table 4 of "Berths, the pilot and exceptions"), in the order of R114. -/
inductive OfferSrc where
  | ingress | table (slot : Fin 16) | latch | doorbell | dock (watch : WatchId)
deriving DecidableEq, Repr

/-- An arrival offered to one target core (R112, R114), under the event entry that was in force when it was raised. -/
structure Offer where
  id    : BitVec 12
  core  : CoreId
  src   : OfferSrc
  terms : EvTerms
deriving DecidableEq, Repr

/-- A framed descriptor: its event id, its beats (head first) and whether its record has been written (R37, R117). -/
structure IngressDesc where
  id      : BitVec 12
  beats   : List Line
  written : Bool
deriving DecidableEq, Repr

/-- A descriptor in the descriptor buffer: `bad` when a new FIRST beat ended it early, and its beats, head first (R38). -/
structure IngressBuf where
  bad   : Bool
  beats : List Line
deriving DecidableEq, Repr

/-- The pilot and the ingress descriptor port (R34-R38, R113-R118); `credits` is G. -/
structure Pilot where
  offers    : List Offer
  fabric    : Word
  credits   : Nat
  buffer    : List IngressBuf
  overrun   : Bool
  current   : Option IngressDesc
  seqs      : List (Nat × BitVec 32)
deriving DecidableEq, Repr

/-- A table-port slot (Table 22 of "Block boundary and ports"); `sent` once its command has gone to the classifier. -/
structure TpSlot where
  command  : Line
  response : BitVec 128
  go       : Bool
  sent     : Bool
deriving DecidableEq, Repr

/-- An entry of the classifier's tables (R39): `port = none` is the global table. -/
structure TableEntry where
  port  : Option Byte
  key   : BitVec 384
  klen  : Byte
  act   : BitVec 4
  data  : Word
  entry : BitVec 24
deriving DecidableEq, Repr

/-- The table port and the classifier behind it (R39-R41, R49): `answers` are those the classifier owes. -/
structure TablePort where
  slots   : Vector TpSlot 16
  tables  : List TableEntry
  answers : List (Fin 16 × BitVec 128)
  cmdTag  : BitVec 4
  cmdData : Line
deriving DecidableEq, Repr

-- Quay engines -----------------------------------------------------------------------------------------

/-- An accumulator's pending update in a merge entry (R227, R228): a bound it was set to, and the exact sum since. -/
structure Pend64 where
  bound : Option Int
  sum   : Int
deriving DecidableEq, Repr

/-- Updates of one accumulator line (R226, R228): the region, the operation they belong to, and the element of each of
the 8 accumulators, with the flags that its elements set. -/
structure LineUpdate where
  line   : Nat
  region : Nat
  op     : Nat
  elems  : List Pend64
  inv    : Bool
  sat    : Bool
deriving DecidableEq, Repr

/-- A merge entry (R228): the operations whose lines it will acknowledge; `out` while its write is outstanding, with the
operations that this write serves, `sent`. -/
structure MergeEntry where
  line   : Nat
  region : Nat
  ops    : List Nat
  sums   : List Pend64
  out    : Bool
  sent   : List Nat
deriving DecidableEq, Repr

/-- A chunk of a launch on an engine (R241, R242): next micro-op, the loop in progress (first, last, passes left) and
v0 to v7. -/
structure Chunk where
  launch : Nat
  index  : Nat
  pc     : Nat
  loop   : Option (Nat × Nat × Nat)
  v      : List (List Cell40)
deriving DecidableEq, Repr

/-- A quay engine (R223-R249). `test` from the start of its known-answer test to its end (R247). -/
structure Engine where
  test     : Bool
  psat     : Bool
  pinv     : Bool
  lerrV    : Bool
  lerrC    : BitVec 4
  lerrA    : BitVec 48
  scrubEn  : Bool
  interval : BitVec 16
  scrubPos : Nat
  scrubOut : Option Nat
  updates  : List LineUpdate
  merge    : List MergeEntry
  chunks   : List Chunk
  cursor   : Option (Nat × Nat)
deriving DecidableEq, Repr

/-- A launch in the queue (R239-R241): its program entry, the record, the program it runs, the operation of its write, and the engines
that have started and completed it. -/
structure Launch where
  id      : Nat
  op      : Nat
  entry   : Nat
  record  : BitVec 1024
  prog    : List (BitVec 64)
  started : BitVec 16
  done    : BitVec 16
deriving DecidableEq, Repr

/-- The owner's view of a ring (R231, R232): its region entry, reservation count, held TAKE, FULL_COUNT, the PUT last published, and
the reservations that are not acknowledged, each with its operation. -/
structure RingOwner where
  region : Nat
  entry  : BitVec 256
  open_  : List (Word × Nat)
  v     : Word
  take  : Word
  full  : Word
  put   : Word
  overrun : Bool
deriving DecidableEq, Repr

/-- A launch write whose records wait to enter the queue (R239): its operation, program entry, next record, address and bytes. -/
structure LaunchWrite where
  op    : Nat
  entry : Nat
  next  : Nat
  addr  : BitVec 48
  data  : Blob
deriving DecidableEq, Repr

/-- The quay engines together: flags by 4,096 × engine + region (bit 0 SAT, 1 INV, 2 LOST), rings by region, or from 4,096 on for a
ring whose region entry has been replaced while it had appends open (R62), launches. -/
structure Quay where
  eng      : Vector Engine 16
  flags    : List (Nat × BitVec 3)
  rings    : List (Nat × RingOwner)
  waiting  : List LaunchWrite
  launches : List Launch
  nextId   : Nat
deriving DecidableEq, Repr

-- Dock -------------------------------------------------------------------------------------------------

/-- How an operation travels (R259, R267, R293). -/
inductive Route where
  | loop | link (n : LinkId)
deriving DecidableEq, Repr

/-- A descriptor in progress (R258, R260): its number, its bytes and, once known, its CAUSE and flags. -/
structure Started where
  n       : BitVec 32
  desc    : Line
  outcome : Option (BitVec 8 × BitVec 3)
deriving DecidableEq, Repr

/-- A queue (R255-R262): `next` is the next descriptor to fetch; `old` is its entry of a QUEUE_PLAN replaced in service
while the queue had a descriptor in progress. -/
structure DQueue where
  put     : BitVec 32
  take    : BitVec 32
  next    : BitVec 32
  qcount  : BitVec 32
  state   : BitVec 2
  fetched : Option (BitVec 32 × Line)
  started : List Started
  old     : Option (BitVec 128)
deriving DecidableEq, Repr

/-- A watch (Table 8 of "Dock"). -/
structure Watch where
  arm    : Bool
  target : BitVec 32
deriving DecidableEq, Repr

/-- The kinds of remote operation (R285). -/
inductive OpKind where
  | write | read | append
deriving DecidableEq, Repr

/-- Who started an outstanding operation: a queue's descriptor, or a core's dispatch write with its overflow record. -/
inductive OpOwner where
  | queue (q : Nat) (n : BitVec 32)
  | dispatch (core : CoreId) (record : OvRecord)
deriving DecidableEq, Repr

/-- An outstanding remote operation (R265, R266): `answer` once the CAUSE and flags of a dispatch write are known; `stored` the
outcome of a read whose data waits for the memory's acknowledgements (R260). -/
structure RemoteOp where
  id     : Nat
  kind   : OpKind
  route  : Route
  tag    : BitVec 16
  dest   : BitVec 15
  owner  : OpOwner
  local_ : BitVec 48
  len    : Nat
  answer : Option (BitVec 8 × BitVec 3)
  stored : Option (BitVec 8 × BitVec 3)
deriving DecidableEq, Repr

/-- An operation that has arrived (R252, R285), with what its check at the first flit found: the region, its entry then, and
the CAUSE, 0 where it passed. -/
structure ArrivingOp where
  region : Nat
  entry  : BitVec 256
  cause  : BitVec 8
  kind   : OpKind
  via    : Route
  src    : BitVec 15
  tag    : BitVec 16
  notify : Bool
  note   : Ctr
  len    : Nat
  addr   : BitVec 48
  data   : Blob
deriving DecidableEq, Repr

/-- What the end of a served operation does: it is answered (R260), or a frame of a hawser chain has its result (R278). -/
inductive ServedEnd where
  | answer
  | chain (i frame : Nat)
deriving DecidableEq, Repr

/-- An operation being served (R228, R232, R240, R260): lines, launches or acknowledgements still to come, flags and the
CAUSE so far. -/
structure Served where
  id     : Nat
  op     : ArrivingOp
  left   : Nat
  flags  : BitVec 3
  cause  : BitVec 8
  fin    : ServedEnd
deriving DecidableEq, Repr

/-- Whose write a memory acknowledgement completes: an operation being served, a read of this block, or a merge entry. -/
inductive AckOwner where
  | served (id : Nat)
  | remote (id : Nat)
  | merge
deriving DecidableEq, Repr

/-- A line written by the dock or a merge entry whose acknowledgement has not come (R228, R232, R260). -/
structure PortAck where
  line  : Nat
  owner : AckOwner
deriving DecidableEq, Repr

/-- An answer that has arrived for an operation of this block (R285): READ DATA with its bytes. -/
structure Answer where
  route  : Route
  src    : BitVec 15
  tag    : BitVec 16
  isRead : Bool
  cause  : BitVec 8
  flags  : BitVec 3
  data   : Blob
deriving DecidableEq, Repr

/-- The dock (R251-R271). `late` are the operations that ended without an answer: an answer that comes later is discarded, and
until then their tags stay in use (R266). -/
structure Dock where
  acks     : List PortAck
  late     : List RemoteOp
  queues   : List (Nat × DQueue)
  ctrs     : List (Nat × BitVec 32)
  watches  : List (Nat × Watch)
  ops      : List RemoteOp
  arriving : List ArrivingOp
  appends  : List (Nat × Nat)
  serving  : List Served
  answers  : List Answer
  lastQ    : Nat
  lastCore : Nat
  nextId   : Nat
deriving DecidableEq, Repr

-- Hawser and links -------------------------------------------------------------------------------------

/-- A hawser frame (R272, R280). -/
structure HwFrame where
  chain  : Nat
  frame  : Nat
  pos    : Nat
  poison : Bool
  via    : Option LinkId
  cells  : List Cell40
deriving DecidableEq, Repr

/-- A chain at its own position (R275-R279, R304): the frames launched or passed in this run, the operands read, and the frames
whose result is not acknowledged. -/
structure HwChain where
  writes   : List Nat
  runs     : BitVec 32
  armed    : Bool
  sat      : Bool
  err      : Bool
  frame    : Nat
  operands : List (Nat × Bool × List Cell40)
deriving DecidableEq, Repr

/-- The hawser unit: chains that have left their reset state, and frames that wait (R275). -/
structure Hawser where
  chains : List (Nat × HwChain)
  frames : List HwFrame
deriving DecidableEq, Repr

/-- A flit without its credit fields, SEQ, ACK and CRC (R283, R284): header bits [50:0] and TYPE, and the payload. `note` is the
counter that rises when it leaves (R260), `from_` the receive buffer that it holds until then: the link it arrived on and the credit
index (R286). -/
structure TxFlit where
  head    : Word
  payload : BitVec 1920
  note    : Option Ctr := none
  from_   : Option (LinkId × Nat) := none
deriving DecidableEq, Repr

/-- An operation being received over several flits (R285): `dest` the link it is forwarded on, with the rank `out`, `drop` when
its further flits are discarded, and for an operation of this block what its check found (R252). -/
structure Reassembly where
  out    : Nat
  region : Nat
  entry  : BitVec 256
  cause  : BitVec 8
  src    : BitVec 15
  tag    : BitVec 16
  answer : Bool
  head   : BitVec 256
  data   : Blob
  dest   : Option LinkId
  drop   : Bool
deriving DecidableEq, Repr

/-- The state of a link (Table 15 of "Hawser chains and the link layer"). -/
inductive LinkState where
  | down | bringUp | up | retired
deriving DecidableEq, Repr

/-- A link port (R283-R304). `hold` while beat 0 of the flit in `out` waits for READY (R26); `rx` are the VC0 flits for this block
that stay in their receive buffers, oldest first (R268, R286). -/
structure Link where
  hold     : Bool
  rx       : List (BitVec 2048)
  lpUp     : Bool
  state    : LinkState
  initRx   : Bool
  txSeq    : BitVec 16
  rxSeq    : BitVec 16
  nakOpen  : Bool
  nakDue   : Bool
  retry    : List (BitVec 16 × TxFlit)
  replay   : List (BitVec 16 × TxFlit)
  replaySq : BitVec 16
  replayN  : Nat
  credit   : List Nat
  owed     : List Nat
  txq      : List TxFlit
  ctlq     : List (BitVec 4)
  vc2Run   : Nat
  vc1Run   : Nat
  lowRun   : List (Nat × Nat)
  slot     : BitVec 12
  lastTx   : Word
  lastRx   : Word
  rtt      : BitVec 16
  tlink    : BitVec 16
  lastT    : List (BitVec 16)
  slState  : BitVec 4
  slStop   : Bool
  slTimer  : BitVec 2
  wakes    : Nat
  replays  : BitVec 16
  crcFail  : BitVec 16
  out      : BitVec 2048
  machine  : Blob
  asm      : List Reassembly
deriving DecidableEq, Repr

-- The whole block --------------------------------------------------------------------------------------

/-- The block. `memBad` are the granules, by line, whose last read by the dock or a quay program was uncorrected (R24). -/
structure State where
  porst      : Bool
  supHold    : Bool
  rootLocked : Bool
  testMode   : Bool
  cpPresent  : BitVec 16
  supWarn    : Bool
  time       : Word
  si         : Si
  host       : HostPort
  dbg        : Debug
  ck         : Clocks
  bw         : Breakwater
  pl         : Pilot
  tp         : TablePort
  cores      : Vector Core 16
  l2         : L2
  mem        : List Host.Cell
  memBad     : List (Nat × BitVec 8)
  ports      : Vector (List PortReq) 16
  pins       : Pins
  qy         : Quay
  dk         : Dock
  hw         : Hawser
  lk         : Vector Link 48
  pending    : List Instr
deriving DecidableEq, Repr

-- Reset ------------------------------------------------------------------------------------------------

/-- A berth after PORST_N or WRST_N (R71, R81). -/
def Berth.reset : Berth :=
  { g := Vector.replicate 32 0, p := 1, pc := 0, waiting := true, started := false, halted := false, prio := 0, compat := false,
    ie := false, priv := 3, estat := 0, era := 0, ereason := 0, gtb := 0, slv := 0, pocket := 0, mode := 0,
    modeLast := 0, modePend := [], midway := false, fstat := 0, townEn := false, townSaved := false, townHeld := false, epi := 0,
    epiSerial := 0, tkbase := 0, lbe := none, pocketFault := none,
    pocketLost := false, epiFaults := [], customer := none }

/-- An L1 cache with every line invalid (R213). -/
def L1.empty : L1 := { lines := [], ptrs := [] }

/-- An accumulator or lining of +0 cells (R140). -/
def Accum.zero (a16 : Bool) : Accum := { a16 := a16, kcount := 0, cells := List.replicate 1024 0 }

/-- The tile state that a claim with SAVED clear starts from (R119, R186): m is -inf, sigma is +0. -/
def TileState.cleared : TileState :=
  { tiles := List.replicate 8 (List.replicate 32 0), accs := List.replicate 4 (Accum.zero false),
    lins := List.replicate 4 (Accum.zero false), topk := List.replicate 32 [],
    stats := List.replicate 32 { m := 0xFFE0000000, s := 0 } }

/-- A tile unit without an owner. -/
def TileUnit.reset : TileUnit :=
  { katDue := false, owner := none, st := TileState.cleared, queue := [], held := [], drain := none, rows := [], pf := [], save := none }

/-- A core that is not enabled. -/
def Core.reset : Core :=
  { berths := Vector.replicate 8 Berth.reset, running := none, selected := none, last := 0, cyc := 0, sb := [], sent := [],
    l1i := L1.empty, l1d := L1.empty, lineBuf := [], stalled := none, rob := [], fills := [], streams := [], cust := [],
    custLate := [], cpOut := { tag := 0, insn := 0, opa := 0, opb := 0 }, halted := false, haltDue := none,
    reason := 0, hold := false, traceEn := false, berthSel := 0, atestBusy := false, atestFail := false,
    stuck := false, tileBad := false, tile := TileUnit.reset, pend := [], spilled := [], spillSeq := [],
    handoffs := [], overflow := [] }

/-- The L2 with nothing cached (Tables 4, 6, 9, 12 of "Caches and scratch"). -/
def L2.reset : L2 :=
  { lines := [], ptrs := [], order := [], poison := [], skips := Vector.replicate 16 0, den := 0xFFFF, ien := 0xFFFF,
    maintBusy := false, atestBusy := false, atestFail := false, tested := false, holds := [], scratch := [], scrPoison := [] }

/-- No work at the stop edge. -/
def Cut.empty : Cut := { descs := [], dispatch := [], launches := [], served := [], chains := [] }

/-- The SI unit after PORST_N (R57, R156, R183; Tables 5 and 6 of "Operating at scale"). -/
def Si.reset : Si :=
  { staging := 0, pend := [], active := [], codes := shippedCodes,
    curves := List.replicate 8 { len := 512, bits := 0 }, nodeId := 0, serial := 0, enable := 0, commit := none,
    csSection := 0, csReason := 0, csState := 0, check := none, notice := 0x064, harbour := .open, stuck := 0,
    elapsed := 0, incomplete := 0, goTime := 0, stopTime := 0, cut := Cut.empty, untested := false, parity := [] }

/-- The host port with no request outstanding (Table 4 of "Block boundary and ports"). -/
def HostPort.reset : HostPort :=
  { outstanding := [], waiting := [], rsp := { id := 0, status := 0, data := 0, rdata := 0 } }

/-- The debug port and an empty trace buffer. -/
def Debug.reset : Debug := { beats := [], trace := [], lost := 0, lastStamp := 0, sent := 0 }

/-- The clock unit with the defaults of R306 (Tables 7 to 10 of "Clocks, reference and supply events"). -/
def Clocks.reset : Clocks :=
  { source := .refLocal, localUp := true, present := 0, bad := 0, timeStep := false, localDev := false,
    noMajority := false, dLocal := 0, dAlt := 0, episode := false, agree := 0, beyond := 0, pEst := 0, throttle := 3,
    below := 0, divs := Vector.replicate 16 3, gates := 0x1FFFFF, reselect := false, supEpisode := false,
    supCount := false, stopped := false, aonTime := false }

/-- The fault event of an empty capture. -/
def FaultEvent.zero : FaultEvent := { src := 0, inst := 0, access := 0, master := 0, addr := 0, covered := false }

/-- An empty capture (Table 5 of "Faults, safety and the breakwater"). -/
def Capture.empty : Capture := { valid := false, esc := false, count := 0, ev := FaultEvent.zero, time := 0 }

/-- The breakwater after PORST_N (R19, R330; Tables 4 to 12). -/
def Breakwater.reset : Breakwater :=
  { attn := 0, pendC := 0, pendU := 0, pendF := 0, freed := 0, capFreed := false,
    caps := Vector.replicate 3 Capture.empty, queue := [], lostq := 0, unacked := [], doubleF := false, fStop := false,
    startupOk := false, startupFailed := false, safe := true, stopA := false, stopB := false, runA := 0, runB := 0, discCnt := 0,
    stopFault := false, release := 0, armed := 0, keepExp := false, keepAt := 0, periodAt := none, counts := [], markCore := 0, markSlice := 0,
    markPort := 0, markLink := 0, logBase := 0, logSize := 0, logEn := false, ringBase := 0, ringSize := 0,
    logBuf := [], logLost := 0, logErr := false, logPut := 0, logTake := 0, logSeq := 0 }

/-- The pilot with nothing pending (R34: G is zero). -/
def Pilot.reset : Pilot :=
  { offers := [], fabric := 0, credits := 0, buffer := [], overrun := false, current := none, seqs := [] }

/-- The table port: every byte of the window is zero (R49). -/
def TablePort.reset : TablePort :=
  { slots := Vector.replicate 16 { command := 0, response := 0, go := false, sent := false }, tables := [],
    answers := [], cmdTag := 0, cmdData := 0 }

/-- A quay engine at its reset values (Tables 14 to 17 of "Quay engines"). -/
def Engine.reset : Engine :=
  { test := false, psat := false, pinv := false, lerrV := false, lerrC := 0, lerrA := 0, scrubEn := true,
    interval := 0x1000, scrubPos := 0, scrubOut := none, updates := [], merge := [], chunks := [], cursor := none }

/-- The quay engines. -/
def Quay.reset : Quay :=
  { eng := Vector.replicate 16 Engine.reset, flags := [], rings := [], waiting := [], launches := [], nextId := 0 }

/-- The dock with every counter, queue and watch cleared (R255). DESIGN CHOICE (log entry 49): both rotations begin with number 0. -/
def Dock.reset : Dock :=
  { acks := [], late := [], queues := [], ctrs := [], watches := [], ops := [], arriving := [], appends := [], serving := [],
    answers := [], lastQ := 4095, lastCore := 15, nextId := 0 }

/-- The hawser unit (R275). -/
def Hawser.reset : Hawser := { chains := [], frames := [] }

/-- The default sleep machine in the layout of R300 (Tables 11 and 14 of "Hawser chains and the link layer"). The pairs
ASKED with RX_DENY and with TIMER, which Table 14 lists and whose fields are all 0, carry the reserved bit 10, so that
they are not taken for pairs left at 0x0000 (log entry 46). -/
def defaultMachine : Blob :=
  let ent (s e next action timer : Nat) : Nat := (next + 16 * action + 256 * timer) <<< (8 * (32 + 2 * (16 * s + e)))
  let listed (s e : Nat) : Nat := 0x400 <<< (8 * (32 + 2 * (16 * s + e)))
  { len := 160,
    bits := 1 ||| (3 <<< 8) ||| (2 <<< 24) ||| (12000 <<< 32) ||| (2400 <<< 64) ||| (24000 <<< 96) |||
      (1200000 <<< 128) |||
      ent 0 0 1 1 1 ||| ent 0 1 0 3 0 ||| ent 0 2 2 2 0 ||| ent 0 6 0 5 0 |||
      listed 1 4 ||| listed 1 8 |||
      ent 1 1 2 6 0 ||| ent 1 2 2 6 0 ||| ent 1 3 2 6 0 ||| ent 1 5 3 4 2 ||| ent 1 6 0 5 0 |||
      ent 2 5 3 4 2 ||| ent 2 9 3 4 2 ||| ent 2 6 0 5 0 ||| ent 2 10 0 7 0 |||
      ent 3 7 0 7 0 ||| ent 3 6 0 5 0 ||| ent 3 8 3 4 2 }

/-- A link that is down. The credits are the buffer counts of Table 8 of "Hawser chains and the link layer", by
index: VC0 ranks 0-3, VC1 ranks 0-3, VC2, VC3. -/
def Link.reset : Link :=
  { hold := false, rx := [], lpUp := false, state := .down, initRx := false, txSeq := 0, rxSeq := 0, nakOpen := false,
    nakDue := false, retry := [], replay := [], replaySq := 0, replayN := 0,
    credit := [32, 32, 32, 32, 32, 32, 32, 32, 64, 8], owed := [0, 0, 0, 0, 0, 0, 0, 0, 0, 0], txq := [], ctlq := [],
    vc2Run := 0, vc1Run := 0, lowRun := [], slot := 0, lastTx := 0, lastRx := 0, rtt := 0, tlink := 0, lastT := [],
    slState := 0, slStop := false, slTimer := 0, wakes := 0, replays := 0, crcFail := 0, out := 0,
    machine := defaultMachine, asm := [] }

/-- A memory port without a request (Table 2 of "Block boundary and ports"). -/
def MpPins.reset : MpPins :=
  { rdValid := false, rdAddr := 0, rdLen := false, rdTag := 0, wrValid := false, wrAddr := 0, wrLen := false, wrTag := 0,
    wrData := 0, wrStrb := 0 }

/-- The signals in their reset states (R16). -/
def Pins.reset : Pins :=
  { mp := Vector.replicate 16 MpPins.reset, hpRsp := false, credit := false, tpCmd := false, cpReq := 0, lpTx := 0 }

/-- The block while PORST_N is low (R16, R57, R71, R330): every register at its reset value, nothing listed in memory,
no command waiting. Log entries 3 and 4 name the values that the manual does not state. -/
def State.reset : State :=
  { porst := true, supHold := false, rootLocked := false, testMode := false, cpPresent := 0, supWarn := false,
    time := 0, si := Si.reset, host := HostPort.reset, dbg := Debug.reset, ck := Clocks.reset, bw := Breakwater.reset,
    pl := Pilot.reset, tp := TablePort.reset, cores := Vector.replicate 16 Core.reset, l2 := L2.reset, mem := [],
    memBad := [], ports := Vector.replicate 16 [], pins := Pins.reset, qy := Quay.reset, dk := Dock.reset, hw := Hawser.reset,
    lk := Vector.replicate 48 Link.reset, pending := [] }

end Sys2Proof.Machine
end

