-- ==== Sys2Proof/Machine/Bits.lean ====
section
/-! DEFINITION. Bit, byte-string, sparse-map and sparse-memory operations that the units share (R3, R4, R51). -/

namespace Sys2Proof.Machine

-- Sparse maps: lists of (key, value) in rising key order ---------------------------------------------

/-- The value at a key. -/
def aget {α : Type} (k : Nat) : List (Nat × α) → Option α
  | [] => none
  | (j, v) :: t => if j = k then some v else aget k t

/-- Set the value at a key, keeping the keys rising. -/
def aput {α : Type} (k : Nat) (v : α) : List (Nat × α) → List (Nat × α)
  | [] => [(k, v)]
  | (j, w) :: t => if j = k then (k, v) :: t else if k < j then (k, v) :: (j, w) :: t else (j, w) :: aput k v t

/-- Remove a key. -/
def adel {α : Type} (k : Nat) : List (Nat × α) → List (Nat × α)
  | [] => []
  | (j, w) :: t => if j = k then t else (j, w) :: adel k t

-- Sparse memory ----------------------------------------------------------------------------------------

/-- A byte of a sparse memory; an unlisted address reads as 0 (log entry 3). -/
def cellGet (m : List Host.Cell) (a : Nat) : Byte := (aget a m).getD 0

/-- Write a byte; writing what an unlisted address reads as removes the entry. -/
def cellPut (m : List Host.Cell) (a : Nat) (v : Byte) : List Host.Cell :=
  if v = 0 then adel a m else aput a v m

/-- The canonical form of a sparse memory: addresses strictly rising, and no entry that an unlisted address reads as. -/
def Memory.wf : List Host.Cell → Bool
  | [] => true
  | (a, v) :: t => v != 0 && (t.all fun c => a < c.1) && Memory.wf t

/-- The little-endian number held by the `n` bytes from `a` (R4). -/
def cellsNat (m : List Host.Cell) (a : Nat) : Nat → Nat
  | 0 => 0
  | n + 1 => (cellGet m a).toNat + 256 * cellsNat m (a + 1) n

/-- Write the low `n` bytes of a number from `a`, those whose bit of `strb` is set. -/
def cellsPut (m : List Host.Cell) (a v strb : Nat) : Nat → List Host.Cell
  | 0 => m
  | n + 1 => cellsPut (if strb % 2 = 1 then cellPut m a (BitVec.ofNat 8 v) else m) (a + 1) (v / 256) (strb / 2) n

-- Byte strings -----------------------------------------------------------------------------------------

/-- The `w` bits from bit `lo` of byte `off`; bytes past the end read as zero (R361). -/
def Blob.field (b : Blob) (off lo w : Nat) : Nat := (b.bits >>> (8 * off + lo)) % 2 ^ w

/-- A byte. -/
def Blob.byte (b : Blob) (off : Nat) : Nat := b.field off 0 8

/-- The `n` bytes from `off`. -/
def Blob.slice (b : Blob) (off n : Nat) : Blob := { len := n, bits := b.field off 0 (8 * n) }

/-- Replace the bytes from `off` by those of another string, growing as needed. -/
def Blob.patch (b : Blob) (off : Nat) (c : Blob) : Blob :=
  let keepLow := b.bits % 2 ^ (8 * off)
  let high := b.bits >>> (8 * (off + c.len))
  { len := Nat.max b.len (off + c.len), bits := keepLow ||| (c.bits <<< (8 * off)) ||| (high <<< (8 * (off + c.len))) }

/-- Join two strings. -/
def Blob.append (b c : Blob) : Blob := { len := b.len + c.len, bits := b.bits ||| (c.bits <<< (8 * b.len)) }

/-- Whether every byte from `off` on is zero. -/
def Blob.zeroFrom (b : Blob) (off : Nat) : Bool := b.bits >>> (8 * off) == 0

/-- One bit step of a reflected CRC register (R51, R88). -/
def crcBit (poly state bit : Nat) : Nat :=
  if (state ^^^ bit) % 2 = 1 then (state >>> 1) ^^^ poly else state >>> 1

/-- `n` bit steps over the low bits of `data`, lowest first (the crc_step of "Gregon instruction set"). -/
def crcBits (poly : Nat) : Nat → Nat → Nat → Nat
  | 0, state, _ => state
  | n + 1, state, data => crcBits poly n (crcBit poly state data) (data >>> 1)

/-- The reflected Castagnoli polynomial (R51, R88). -/
def polyCrc32c : Nat := 0x82F63B78

/-- The CRC-32C of a byte string (R51). -/
def Blob.crc32c (b : Blob) : Nat := crcBits polyCrc32c (8 * b.len) 0xFFFFFFFF b.bits ^^^ 0xFFFFFFFF

-- Bits of words ------------------------------------------------------------------------------------------

/-- Set or clear one bit. -/
def setBit {w : Nat} (v : BitVec w) (i : Nat) (on : Bool) : BitVec w :=
  if on then v ||| (1#w <<< i) else v &&& ~~~(1#w <<< i)

/-- Whether bit `i` is set. -/
def bitAt {w : Nat} (v : BitVec w) (i : Nat) : Bool := v.getLsbD i

/-- Bits `[hi:lo]` as a number (R3). -/
def bitsNat (v : Word) (hi lo : Nat) : Nat := (v.toNat >>> lo) % 2 ^ (hi + 1 - lo)

/-- A Bool as a number. -/
def b2n (b : Bool) : Nat := if b then 1 else 0

/-- Saturating increment of a counter of width `w` (R249, R304, R326). -/
def satInc {w : Nat} (v : BitVec w) : BitVec w := if v = BitVec.allOnes w then v else v + 1

/-- The number of bytes of an access size (R75). -/
def sizeBytes : Size → Nat
  | .b1 => 1 | .b2 => 2 | .b4 => 4 | .b8 => 8

/-- Replace the element at a position of a list. -/
def setAt {α : Type} (l : List α) (i : Nat) (v : α) : List α := l.set i v

/-- Remove the element at a position. -/
def dropAt {α : Type} (l : List α) (i : Nat) : List α := l.eraseIdx i

/-- The bytes of a line that a byte mask selects, as a bit mask. -/
def expandMask : Nat → Nat → Nat
  | 0, _ => 0
  | n + 1, mask => (if mask % 2 = 1 then 255 else 0) + 256 * expandMask n (mask / 2)

/-- `old` with the bytes that `mask` selects taken from `new` (R205, R208). -/
def mergeLine (old new : Line) (mask : BitVec 64) : Line :=
  let m : Line := BitVec.ofNat 512 (expandMask 64 mask.toNat)
  (new &&& m) ||| (old &&& ~~~m)

-- Parts of the state ---------------------------------------------------------------------------------------

/-- A core. -/
def State.core (s : State) (c : CoreId) : Core := s.cores[c]

/-- Replace a core. -/
def State.setCore (s : State) (c : CoreId) (x : Core) : State := { s with cores := s.cores.set c x }

/-- A berth of a core. -/
def Core.berth (k : Core) (b : BerthId) : Berth := k.berths[b]

/-- Replace a berth of a core. -/
def Core.setBerth (k : Core) (b : BerthId) (x : Berth) : Core := { k with berths := k.berths.set b x }

/-- A berth. -/
def State.berth (s : State) (c : CoreId) (b : BerthId) : Berth := (s.core c).berth b

/-- Replace a berth. -/
def State.setBerth (s : State) (c : CoreId) (b : BerthId) (x : Berth) : State :=
  s.setCore c ((s.core c).setBerth b x)

/-- A quay engine. -/
def State.engine (s : State) (n : SliceId) : Engine := s.qy.eng[n]

/-- Replace a quay engine. -/
def State.setEngine (s : State) (n : SliceId) (e : Engine) : State := { s with qy := { s.qy with eng := s.qy.eng.set n e } }

/-- A link. -/
def State.link (s : State) (n : LinkId) : Link := s.lk[n]

/-- Replace a link. -/
def State.setLink (s : State) (n : LinkId) (l : Link) : State := { s with lk := s.lk.set n l }

/-- All core numbers in rising order. -/
def allCores : List CoreId := [0, 1, 2, 3, 4, 5, 6, 7, 8, 9, 10, 11, 12, 13, 14, 15]

/-- All berth numbers in rising order. -/
def allBerths : List BerthId := [0, 1, 2, 3, 4, 5, 6, 7]

/-- All link numbers in rising order. -/
def allLinks : List LinkId := (List.range 48).map (Fin.ofNat 48)

/-- Apply an update to every core. -/
def State.mapCores (s : State) (f : CoreId → Core → Core) : State :=
  allCores.foldl (fun s c => s.setCore c (f c (s.core c))) s

/-- Apply an update to every link. -/
def State.mapLinks (s : State) (f : LinkId → Link → Link) : State :=
  allLinks.foldl (fun s n => s.setLink n (f n (s.link n))) s

end Sys2Proof.Machine
end

