-- ==== Sys2Proof/Machine/Plans.lean ====
section
/-! DEFINITION. The fields of the active sections, read where their chapters place them. A section that is absent
reads as R363 gives; a byte past the end of a body reads as zero (R361). -/

namespace Sys2Proof.Machine

/-- The section ids of Table 3 of "Structure image, enabling and host replies". -/
def secManifest : Nat := 0x01
def secClock : Nat := 0x02
def secCore : Nat := 0x03
def secL2 : Nat := 0x04
def secMap : Nat := 0x05
def secLink : Nat := 0x06
def secRoute : Nat := 0x07
def secRegion : Nat := 0x08
def secQueue : Nat := 0x09
def secDispatch : Nat := 0x0A
def secPrograms : Nat := 0x0B
def secCodes : Nat := 0x0C
def secCurves : Nat := 0x0D
def secPilot : Nat := 0x0E
def secSafety : Nat := 0x0F
def secHawser : Nat := 0x10
def secSleep : Nat := 0x11
def secThrottle : Nat := 0x12

/-- The active body of a section, empty while absent (R363). -/
def State.sect (s : State) (id : Nat) : Blob := (aget id s.si.active).getD Blob.empty

/-- Whether a section is active. -/
def State.hasSect (s : State) (id : Nat) : Bool := (aget id s.si.active).isSome

-- CLOCK_PLAN (Table 2 of "Clocks, reference and supply events") -----------------------------------------

/-- The CLOCK_PLAN of R363 where the section is absent: every CORE_DIV 3, FIX_DIV as required, LOCAL, no candidate. -/
def defaultClockPlan : Blob :=
  let cores := (List.range 16).foldl (fun acc n => acc ||| (3 <<< (8 * n))) 0
  let fix := [6, 6, 6, 8, 12, 24, 48, 96].zipIdx.foldl (fun acc p => acc ||| (p.1 <<< (8 * (16 + p.2)))) 0
  { len := 64,
    bits := cores ||| fix ||| (1 <<< (8 * 24)) ||| (0x3F3F3F3F <<< (8 * 25)) ||| (50 <<< (8 * 32)) ||| (150 <<< (8 * 34)) }

/-- The clock plan in force (R306, R363). -/
def State.clockPlan (s : State) : Blob := (aget secClock s.si.active).getD defaultClockPlan

/-- CORE_DIV of core `n`. -/
def coreDiv (p : Blob) (n : Nat) : Nat := p.byte n
/-- Whether REF_MODE is LOCAL. -/
def refLocalMode (p : Blob) : Bool := p.field 24 0 1 == 1
/-- CAND in order, without the entries that name none. -/
def candidates (p : Blob) : List Nat := ((List.range 4).map fun i => p.field (25 + i) 0 6).filter (· < 48)
def warnPpm (p : Blob) : Nat := p.field 32 0 16
def switchPpm (p : Blob) : Nat := p.field 34 0 16
def sscDepth (p : Blob) : Nat := p.byte 36

-- MEMORY_MAP (Table 18 of "Quay engines") ----------------------------------------------------------------

def nRange (p : Blob) : Nat := p.field 0 0 7
def tmemMax (p : Blob) : Nat := p.field 2 0 13
def dockWin (p : Blob) : Nat := p.field 8 0 48
def tpWin (p : Blob) : Nat := p.field 16 0 48
def rangeBase (p : Blob) (i : Nat) : Nat := p.field (32 + 16 * i) 0 48
def rangeLen (p : Blob) (i : Nat) : Nat := p.field (40 + 16 * i) 0 48

/-- Whether an address lies in a range of MEMORY_MAP. -/
def State.inRange (s : State) (a : Nat) : Bool :=
  let p := s.sect secMap
  (List.range (nRange p)).any fun i => rangeBase p i ≤ a && a < rangeBase p i + rangeLen p i

/-- Whether an address lies in the 640 KiB dock window (R255). -/
def State.inDockWin (s : State) (a : Nat) : Bool :=
  let p := s.sect secMap
  s.hasSect secMap && (dockWin p ≤ a && a < dockWin p + 0xA0000)

/-- Whether an address lies in the 2 KiB table-port window (R49). -/
def State.inTpWin (s : State) (a : Nat) : Bool :=
  let p := s.sect secMap
  s.hasSect secMap && (tpWin p ≤ a && a < tpWin p + 0x800)

/-- Whether a list of intervals covers `[a, a + n)`: the end of the one that holds `a` is taken as the next start. -/
def coveredFrom (ivs : List (Nat × Nat)) : Nat → Nat → Nat → Bool
  | 0, _, n => n == 0
  | k + 1, a, n =>
    n == 0 || (match ivs.find? fun r => r.1 ≤ a && a < r.1 + r.2 with
      | some r => let m := Nat.min n (r.1 + r.2 - a); coveredFrom ivs k (a + m) (n - m)
      | none => false)

-- L2_PLAN (Table 10 of "Caches and scratch") ---------------------------------------------------------------

/-- Scratch ways per slice, equal in every slice (R219). -/
def State.scratchWays (s : State) : Nat := (s.sect secL2).field 0 0 4
def State.scratchBase (s : State) : Nat := (s.sect secL2).field 16 0 48
/-- TIDE_LIMIT in MiB: 4 where no L2_PLAN is active (R219). -/
def State.tideLimit (s : State) : Nat := if s.hasSect secL2 then (s.sect secL2).field 24 0 4 else 4

/-- Whether an address lies in scratch (R220). -/
def State.inScratch (s : State) (a : Nat) : Bool :=
  s.scratchBase ≤ a && a < s.scratchBase + s.scratchWays * 0x200000

-- CORE_PLAN (Table 16 of "Berths, the pilot and exceptions") ---------------------------------------------

def planPresent (p : Blob) (n : Nat) : Bool := p.field (32 * n) 0 1 == 1
def planSpare (p : Blob) (n : Nat) : Bool := p.field (32 * n) 1 1 == 1
def planLock (p : Blob) (n : Nat) : Bool := p.field (32 * n) 2 1 == 1
def planCpLimit (p : Blob) (n : Nat) : Nat := p.field (32 * n + 4) 0 13
def planStart (p : Blob) (n : Nat) : Nat := p.field (32 * n + 8) 0 48

-- PILOT_EVENTS (Tables 2 and 3 of "Berths, the pilot and exceptions") ------------------------------------

def berthOff (c b : Nat) : Nat := 32 * (8 * c + b)
def berthUsed (p : Blob) (c b : Nat) : Bool := b == 0 || p.field (berthOff c b) 0 1 == 1
def berthCompat (p : Blob) (c b : Nat) : Bool := p.field (berthOff c b) 1 1 == 1
def berthSpill (p : Blob) (c b : Nat) : Bool := p.field (berthOff c b) 2 2 == 1
def berthPrio (p : Blob) (c b : Nat) : Nat := p.field (berthOff c b) 4 4
def berthInboxSlots (p : Blob) (c b : Nat) : Nat := 16 * 2 ^ p.field (berthOff c b + 1) 0 4
def berthSpillSlots (p : Blob) (c b : Nat) : Nat := 16 * 2 ^ p.field (berthOff c b + 1) 4 4
def berthStart (p : Blob) (c b : Nat) : Nat := p.field (berthOff c b + 8) 0 64
def berthInbox (p : Blob) (c b : Nat) : Nat := p.field (berthOff c b + 16) 0 64
def berthSpillBase (p : Blob) (c b : Nat) : Nat := p.field (berthOff c b + 24) 0 64

/-- Event entry `i` lies at 4,096 + 16i. -/
def evOff (i : Nat) : Nat := 4096 + 16 * i
def evValid (p : Blob) (i : Nat) : Bool := i < 3840 && p.field (evOff i) 0 1 == 1
def evCoalesce (p : Blob) (i : Nat) : Bool := p.field (evOff i) 1 1 == 1
def evPrio (p : Blob) (i : Nat) : Nat := p.field (evOff i + 1) 0 4
def evVector (p : Blob) (i : Nat) : Nat := p.field (evOff i + 2) 0 8
def evBerth (p : Blob) (i : Nat) : Nat := p.field (evOff i + 3) 0 4

/-- What event entry `i` gives an event that it covers. -/
def evTerms (p : Blob) (i : Nat) : EvTerms :=
  { coalesce := evCoalesce p i, prio := BitVec.ofNat 4 (evPrio p i), vector := BitVec.ofNat 8 (evVector p i),
    berth := Fin.ofNat 8 (evBerth p i) }

def evFirst (p : Blob) (i : Nat) : Nat := p.field (evOff i + 4) 0 4
def evCount (p : Blob) (i : Nat) : Nat := p.field (evOff i + 4) 4 4 + 1

/-- The target cores of event `i` (R112). -/
def evTargets (p : Blob) (i : Nat) : List CoreId :=
  (List.range (evCount p i)).map fun j => Fin.ofNat 16 (evFirst p i + j)

-- SAFETY_PLAN (Table 6 of "Faults, safety and the breakwater") -------------------------------------------

/-- N_D, the discrepancy count of R333: 5 ms until a SAFETY_PLAN is active (R329). -/
def State.discLimit (s : State) : Nat :=
  if s.hasSect secSafety then (s.sect secSafety).field 0 0 5 * 100000 else 500000
def planOutEn (p : Blob) : BitVec 10 := BitVec.ofNat 10 (p.field 4 0 10)
def planStest (p : Blob) : Nat := p.field 1 0 6
def planKeep (p : Blob) : Nat := p.field 2 0 4
def planRetC (p : Blob) : Nat := p.field 6 0 16
def planRetU (p : Blob) : Nat := p.field 8 0 8
def planMask (p : Blob) : BitVec 41 := BitVec.ofNat 41 (p.field 16 0 41)

-- LINK_PLAN and ROUTE_TABLE (R290, R292) -----------------------------------------------------------------

/-- The role of a link: 0 NODE, 1 FABRIC, 2 SPARE. A link that the body does not reach is SPARE. -/
def linkRole (p : Blob) (n : Nat) : Nat := if 32 * n < p.len then p.field (32 * n) 0 2 else 2
def linkAccel (p : Blob) (n : Nat) : Nat := p.field (32 * n) 2 3
def linkPeer (p : Blob) (n : Nat) : Nat := p.field (32 * n + 2) 0 15

/-- A routing choice of R292. -/
structure RouteChoice where
  valid : Bool
  eq    : Bool
  rank  : Nat
  link  : Nat
deriving DecidableEq, Repr

/-- Choice `i` of a node's entry. -/
def routeChoice (p : Blob) (node i : Nat) : RouteChoice :=
  let w := p.field (16 * node + 2 * i) 0 16
  { valid := w % 2 == 1, eq := (w / 2) % 2 == 1, rank := (w / 4) % 4, link := (w / 16) % 64 }

/-- The valid choices of a node's entry, in order. -/
def routeChoices (p : Blob) (node : Nat) : List RouteChoice :=
  ((List.range 4).map (routeChoice p node)).filter (·.valid)

-- REGION_TABLE, QUEUE_PLAN, DISPATCH_TABLE (Tables 1, 3, 4 of "Dock"; Table 8 of "Output path") ----------

/-- The number of entries of `size` bytes that a body reaches. -/
def reached (p : Blob) (off size : Nat) : Nat := (p.len - off + size - 1) / size

def regValid (p : Blob) (i : Nat) : Bool := p.field (32 * i) 0 1 == 1
def regAttr (p : Blob) (i : Nat) : Nat := p.field (32 * i) 1 2
def regEntryEn (p : Blob) (i : Nat) : Bool := p.field (32 * i) 3 1 == 1
def regRd (p : Blob) (i : Nat) : Bool := p.field (32 * i) 4 1 == 1
def regWr (p : Blob) (i : Nat) : Bool := p.field (32 * i) 5 1 == 1
def regEntry (p : Blob) (i : Nat) : Nat := p.field (32 * i + 1) 0 6
def regSlotLog2 (p : Blob) (i : Nat) : Nat := p.field (32 * i + 2) 0 5
def regNodeLo (p : Blob) (i : Nat) : Nat := p.field (32 * i + 4) 0 15
def regNodeHi (p : Blob) (i : Nat) : Nat := p.field (32 * i + 6) 0 15
def regBase (p : Blob) (i : Nat) : Nat := p.field (32 * i + 8) 0 48
def regLen (p : Blob) (i : Nat) : Nat := p.field (32 * i + 16) 0 48

/-- The valid region that contains an address (R252). -/
def findRegion (p : Blob) (a : Nat) : Option Nat :=
  (List.range (Nat.min (reached p 0 32) 4096)).find? fun i =>
    regValid p i && (regBase p i ≤ a && a < regBase p i + regLen p i)

/-- Whether `[a, a + n)` lies in one or more valid regions, judged line by line (R111, R253). -/
def inRegions (p : Blob) (a n : Nat) : Bool :=
  (List.range ((a % 64 + n + 63) / 64)).all fun i => (findRegion p (64 * (a / 64 + i))).isSome

def quValid (p : Blob) (q : Nat) : Bool := p.field (16 * q) 0 1 == 1
def quStop (p : Blob) (q : Nat) : Bool := p.field (16 * q) 1 1 == 1
def quBound (p : Blob) (q : Nat) : Bool := p.field (16 * q) 2 1 == 1
def quLink (p : Blob) (q : Nat) : Nat := p.field (16 * q + 1) 0 6
def quRingLog2 (p : Blob) (q : Nat) : Nat := p.field (16 * q + 2) 0 4
def quWaitN (p : Blob) (q : Nat) : Nat := p.field (16 * q + 2) 4 4
def quWaitFirst (p : Blob) (q : Nat) : Nat := p.field (16 * q + 4) 0 12
def quErrCtr (p : Blob) (q : Nat) : Ctr := BitVec.ofNat 16 (p.field (16 * q + 6) 0 16)
def quRingBase (p : Blob) (q : Nat) : Nat := p.field (16 * q + 8) 0 48
def waValid (p : Blob) (w : Nat) : Bool := p.field (65536 + 8 * w) 0 1 == 1
def waCtr (p : Blob) (w : Nat) : Nat := p.field (65536 + 8 * w + 2) 0 16

def diReplicas (p : Blob) (e : Nat) : Nat := p.field (16 * e) 0 3
def diRing (p : Blob) (e : Nat) : Nat := p.field (16 * e + 2) 0 48
def diNode (p : Blob) (e i : Nat) : Nat := p.field (16 * e + 8 + 2 * i) 0 15

-- QUAY_PROGRAMS (Tables 5 and 6 of "Quay engines") -------------------------------------------------------

def prValid (p : Blob) (d : Nat) : Bool := p.field (16 * d) 0 1 == 1
def prProfile (p : Blob) (d : Nat) : Bool := p.field (16 * d) 1 1 == 1
def prStart (p : Blob) (d : Nat) : Nat := p.field (16 * d + 2) 0 13
def prLen (p : Blob) (d : Nat) : Nat := p.field (16 * d + 4) 0 14
def prXfmt (p : Blob) (d : Nat) : Nat := p.field (16 * d + 6) 0 3
/-- XSCALE, signed. -/
def prXscale (p : Blob) (d : Nat) : Int := (BitVec.ofNat 9 (p.field (16 * d + 7) 0 9)).toInt
/-- Micro-op word `i`. -/
def prWord (p : Blob) (i : Nat) : BitVec 64 := BitVec.ofNat 64 (p.field (1024 + 8 * i) 0 64)

-- HAWSER_PLAN (Tables 1 and 2 of "Hawser chains and the link layer") -------------------------------------

def chValid (p : Blob) (i : Nat) : Bool := p.field (64 * i) 0 1 == 1
def chBraid (p : Blob) (i : Nat) : Bool := p.field (64 * i) 1 1 == 1
def chInFmt (p : Blob) (i : Nat) : Nat := p.field (64 * i) 2 2
def chResFmt (p : Blob) (i : Nat) : Nat := p.field (64 * i) 4 2
def chPace (p : Blob) (i : Nat) : Nat := p.field (64 * i + 1) 0 8
def chNpos (p : Blob) (i : Nat) : Nat := p.field (64 * i + 2) 0 10
def chFirst (p : Blob) (i : Nat) : Nat := p.field (64 * i + 4) 0 14
def chStartCtr (p : Blob) (i : Nat) : Nat := p.field (64 * i + 6) 0 16
def chNcells (p : Blob) (i : Nat) : Nat := p.field (64 * i + 8) 0 32
def chDoneCtr (p : Blob) (i : Nat) : Ctr := BitVec.ofNat 16 (p.field (64 * i + 12) 0 16)
def chResult (p : Blob) (i : Nat) : Nat := p.field (64 * i + 16) 0 48
def elOff (e : Nat) : Nat := 65536 + 16 * e
def elNode (p : Blob) (e : Nat) : Nat := p.field (elOff e) 0 15
def elEngine (p : Blob) (e : Nat) : Nat := p.field (elOff e + 2) 0 4
def elLink (p : Blob) (e : Nat) : Nat := p.field (elOff e + 3) 0 6
def elStrand (p : Blob) (e : Nat) : Nat := p.field (elOff e + 4) 0 10
def elOperand (p : Blob) (e : Nat) : Nat := p.field (elOff e + 8) 0 48

/-- This block's position in a chain, if it has one (R273). -/
def State.ownPos (s : State) (chain : Nat) : Option Nat :=
  let p := s.sect secHawser
  (List.range (chNpos p chain)).find? fun i => elNode p (chFirst p chain + i) == s.si.nodeId.toNat

-- Enable bits --------------------------------------------------------------------------------------------

/-- The SI_ENABLE bit of a unit (Table 6 of "Structure image, enabling and host replies"). -/
def EnUnit.bit : EnUnit → Nat
  | .clock => 0 | .memory => 1 | .l2 => 2 | .quay => 3 | .link => 4 | .hawser => 5 | .dock => 6 | .epilogue => 7
  | .pilot => 8 | .safety => 9 | .core n => 16 + n.val

/-- Whether a unit is enabled. -/
def State.enabled (s : State) (u : EnUnit) : Bool := s.si.enable.getLsbD u.bit

/-- Whether an address is in MEMORY_MAP, or in the scratch of an enabled L2: everything else is outside (R250, R255). -/
def State.mapped (s : State) (a : Nat) : Bool := s.inRange a || (s.enabled .l2 && s.inScratch a)

/-- The intervals of MEMORY_MAP and of the scratch of an enabled L2. -/
def State.mappedIvs (s : State) : List (Nat × Nat) :=
  let p := s.sect secMap
  (List.range (nRange p)).map (fun i => (rangeBase p i, rangeLen p i)) ++
    (if s.enabled .l2 then [(s.scratchBase, s.scratchWays * 0x200000)] else [])

/-- Whether the whole of `[a, a + n)` lies in MEMORY_MAP and scratch. -/
def State.rangeCovers (s : State) (a n : Nat) : Bool := a + n ≤ 2 ^ 48 && coveredFrom s.mappedIvs 66 a n

/-- Whether the whole of `[a, a + n)` is mapped, judged line by line: ranges and scratch are made of whole lines. -/
def State.mappedAll (s : State) (a n : Nat) : Bool :=
  a + n ≤ 2 ^ 48 && ((List.range ((a % 64 + n + 63) / 64)).all fun i => s.mapped (64 * (a / 64 + i)))

end Sys2Proof.Machine
end

