-- ==== Sys2Proof/Machine/Events.lean ====
section
/-! DEFINITION. Offering an event to its target cores (R112, R114 and Table 4 of "Berths, the pilot and exceptions"). -/

namespace Sys2Proof.Machine

/-- The body of PILOT_EVENTS in force. -/
def State.pilotPlan (s : State) : Blob := s.sect secPilot

/-- Whether two offers are one: the same source offers the same event to the same core. -/
def Offer.same (x y : Offer) : Bool := x.id == y.id && x.core == y.core && x.src == y.src

/-- Add an offer unless the same source already offers the same event to the same core (Table 4): a later occurrence merges
into the offer that is held. -/
def addOffer (l : List Offer) (o : Offer) : List Offer := if l.any o.same then l else l ++ [o]

/-- Offer event `id` from `src` to each of its targets, under its event entry now (R62). An id without a valid entry has none
(R111). -/
def State.offerEvent (s : State) (id : Nat) (src : OfferSrc) : State :=
  let p := s.pilotPlan
  if evValid p id then
    let l := (evTargets p id).foldl (fun l c => addOffer l { id := BitVec.ofNat 12 id, core := c, src := src, terms := evTerms p id }) s.pl.offers
    { s with pl := { s.pl with offers := l } }
  else s

/-- The target core of a descriptor event by its IN_PORT (R112), if its entry is valid. -/
def State.portTarget (s : State) (id inPort : Nat) : Option CoreId :=
  let p := s.pilotPlan
  if evValid p id then some (Fin.ofNat 16 (evFirst p id + inPort % evCount p id)) else none

/-- Whether any offer from a source is left. -/
def State.offered (s : State) (id : Nat) (src : OfferSrc) : Bool :=
  s.pl.offers.any fun o => o.id.toNat == id && o.src == src

end Sys2Proof.Machine
end

