-- ==== Sys2Proof/Machine/Faults.lean ====
section
/-! DEFINITION. Recording a fault (R321-R328, R338), raising an attention cause (R65, R66) and the safe state (R330). -/

namespace Sys2Proof.Machine

/-- The class of a source, 0 C, 1 U, 2 F (Table 3 of "Faults, safety and the breakwater"). -/
def faultClass (src : Nat) : Nat :=
  if [0x02, 0x0D, 0x14, 0x18, 0x1B, 0x1F].contains src then 0
  else if [0x00, 0x01, 0x03, 0x04, 0x05, 0x06, 0x09, 0x0A, 0x16, 0x17, 0x1E].contains src then 2
  else 1

/-- Whether a source is a safety mechanism (the S rows of Table 3). -/
def faultSafety (src : Nat) : Bool := [0x00, 0x01, 0x03, 0x04, 0x05, 0x06, 0x07, 0x08].contains src

/-- The UNIT code of a source (Table 5); a dock operation on no link is the block's (log entry 6). -/
def faultUnit (src inst : Nat) : Nat :=
  if 0x0D ≤ src && src ≤ 0x13 then 1
  else if 0x14 ≤ src && src ≤ 0x17 then 2
  else if (0x18 ≤ src && src ≤ 0x1E) || src == 0x23 || src == 0x27 then 3
  else if 0x1F ≤ src && src ≤ 0x22 then (if inst < 48 then 4 else 0)
  else if src == 0x26 || src == 0x28 then 5
  else if src == 0x24 || src == 0x25 then 6
  else if src ≤ 0x05 || (0x07 ≤ src && src ≤ 0x09) then 7
  else 0

/-- What a capture or a log record keeps of an event: the address is 0 for a source that has none. -/
def shownEvent (e : FaultEvent) : FaultEvent := { e with addr := if e.src = 0x0C then 0 else e.addr, covered := false }

/-- INSTANCE of a capture or a log record: 0 outside the four counted kinds (Table 5). -/
def shownInst (e : FaultEvent) : Nat :=
  let u := faultUnit e.src.toNat e.inst.toNat
  if 1 ≤ u && u ≤ 4 then e.inst.toNat else 0

/-- The instance of a fault (R323): a counted kind with its number, or the block. -/
def faultKey (src : BitVec 6) (inst : BitVec 8) : Nat × Nat :=
  let u := faultUnit src.toNat inst.toNat
  if 1 ≤ u && u ≤ 4 then (u, inst.toNat) else (0, 0)

/-- Put an entry into the log buffer, or count it as lost (R345). -/
def Breakwater.log (b : Breakwater) (e : LogEntry) : Breakwater :=
  if b.logBuf.length < 64 then { b with logBuf := b.logBuf ++ [e] } else { b with logLost := satInc b.logLost }

/-- Raise an event attention cause (R66); its log record follows (R345). -/
def State.raiseCause (s : State) (n : Nat) : State :=
  let e : LogEntry :=
    { time := s.time, event := true, code := BitVec.ofNat 8 n, cls := 0, esc := false, ev := FaultEvent.zero }
  { s with bw := { s.bw with attn := setBit s.bw.attn n true }.log e }

/-- Enter the safe state (R330): SAFE is set and every RELEASE bit clears. -/
def Breakwater.enterSafe (b : Breakwater) : Breakwater := { b with safe := true, release := 0, armed := 0 }

/-- The pending register of a class. -/
def Breakwater.pendOf (b : Breakwater) (cls : Nat) : BitVec 41 :=
  if cls = 0 then b.pendC else if cls = 1 then b.pendU else b.pendF

/-- Set the pending bit of a source in a class (R325). An F bit waits again for a WRST_N (Table 4). -/
def Breakwater.setPend (b : Breakwater) (cls src : Nat) : Breakwater :=
  if cls = 0 then { b with pendC := setBit b.pendC src true }
  else if cls = 1 then { b with pendU := setBit b.pendU src true }
  else { b with pendF := setBit b.pendF src true, freed := setBit b.freed src false }

/-- The class that a fault is recorded in and whether it is escalated (R323). -/
def Breakwater.classify (b : Breakwater) (e : FaultEvent) : Nat × Bool :=
  let base := faultClass e.src.toNat
  let key := faultKey e.src e.inst
  let here := b.unacked.filter fun u => faultKey u.src u.inst == key
  if e.covered && !here.isEmpty then (base, false)
  else if base < 2 && here.any (fun u => u.cls.toNat == base) then (base + 1, true)
  else (base, false)

/-- Whether a fault is merged into one whose handling action covers it (R323). -/
def Breakwater.merges (b : Breakwater) (e : FaultEvent) : Bool :=
  e.covered && b.unacked.any fun u => faultKey u.src u.inst == faultKey e.src e.inst

/-- Take a fault into its class's capture; whether the capture becomes valid (R326). -/
def Breakwater.capture (b : Breakwater) (cls : Nat) (esc : Bool) (e : FaultEvent) (time : Word) : Breakwater × Bool :=
  let k : Fin 3 := Fin.ofNat 3 cls
  let c := b.caps[k]
  if c.valid then ({ b with caps := b.caps.set k { c with count := satInc c.count } }, false)
  else
    ({ b with
        caps := b.caps.set k { valid := true, esc := esc, count := 0, ev := shownEvent e, time := time }
        capFreed := if cls = 2 then false else b.capFreed }, true)

/-- Add one to the fault counts of an instance (R338). -/
def bumpCount (cls unit inst : Nat) : List InstCount → List InstCount
  | [] => [{ unit := BitVec.ofNat 4 unit, inst := BitVec.ofNat 8 inst, c := if cls = 0 then 1 else 0,
             u := if cls = 0 then 0 else 1 }]
  | x :: t =>
    if x.unit.toNat = unit ∧ x.inst.toNat = inst then
      (if cls = 0 then { x with c := x.c + 1 } else { x with u := x.u + 1 }) :: t
    else x :: bumpCount cls unit inst t

/-- Mark an instance (Tables 11 and 12). -/
def Breakwater.mark (b : Breakwater) (unit inst : Nat) : Breakwater :=
  if unit = 1 then { b with markCore := setBit b.markCore inst true }
  else if unit = 2 then { b with markSlice := setBit b.markSlice inst true }
  else if unit = 3 then { b with markPort := setBit b.markPort inst true }
  else if unit = 4 then { b with markLink := setBit b.markLink inst true }
  else b

/-- Whether counts have reached the thresholds of a SAFETY_PLAN (R338). -/
def InstCount.due (x : InstCount) (p : Blob) : Bool := planRetC p ≤ x.c || planRetU p ≤ x.u

/-- Mark every instance whose counts have reached the thresholds, as a SAFETY_PLAN becomes active (R338). -/
def State.applyMarks (s : State) : State :=
  if s.hasSect secSafety then
    let p := s.sect secSafety
    { s with bw := s.bw.counts.foldl (fun b x => if x.due p then b.mark x.unit.toNat x.inst.toNat else b) s.bw }
  else s

/-- The test of R338 at a counted fault: that of its instance. -/
def State.markCounted (s : State) (unit inst : Nat) : State :=
  let mine (x : InstCount) : Bool := x.unit.toNat == unit && x.inst.toNat == inst && x.due (s.sect secSafety)
  if s.hasSect secSafety && s.bw.counts.any mine then { s with bw := s.bw.mark unit inst } else s

/-- End a harbour closing at an F-class fault (R350): FATAL is set and STATE becomes closed. -/
def Si.fatal (i : Si) (time : Word) : Si :=
  match i.harbour with
  | .open | .closed => i
  | _ =>
    { i with
      harbour := .closed, incomplete := setBit i.incomplete 7 true,
      elapsed := BitVec.ofNat 32 (Nat.min (2 ^ 32 - 1) (time.toNat - i.goTime.toNat)) }

/-- The reactions that act on another unit's state: 0x0C, 0x0E and 0x0F of Table 3. -/
def State.faultReaction (s : State) (e : FaultEvent) : State :=
  let c : CoreId := Fin.ofNat 16 e.inst.toNat
  if e.src = 0x0C then
    let id := e.addr.toNat % 256
    if id = 0 || s.si.parity.contains id then s else { s with si := { s.si with parity := id :: s.si.parity } }
  else if e.src = 0x0E && e.inst.toNat < 16 then
    let k := allBerths.foldl (fun k b => k.setBerth b { k.berth b with halted := true }) (s.core c)
    s.setCore c { k with running := none, selected := none }
  else if e.src = 0x0F && e.inst.toNat < 16 then
    { s.setCore c { s.core c with tileBad := true } with si := { s.si with untested := true } }
  else s

/-- Whether a source forces the safe state as it is detected: F-class, or a U-class safety mechanism (R321, R330). -/
def forcesSafe (src : Nat) : Bool := faultClass src == 2 || faultSafety src

/-- What a detection does at once: the outputs go safe (R330) and the reaction on other units takes place. -/
def State.sense (s : State) (e : FaultEvent) : State :=
  let s := if forcesSafe e.src.toNat then { s with bw := s.bw.enterSafe } else s
  s.faultReaction e

/-- A fault is recorded (R321, R325): class and escalation, pending bit, counts, marks, and the reaction of its class (Table 1).
One that is accepted is also captured and logged; one that is lost, since it found the queue full, is counted in LOSTQ instead
(log entry 101). An injected C- or U-class fault is acknowledged at once (R340). -/
def State.recordFault (s : State) (q : QueuedFault) (lost : Bool) : State :=
  let e := q.ev
  let src := e.src.toNat
  let (cls, esc) := s.bw.classify e
  let key := faultKey e.src e.inst
  let unacked :=
    if s.bw.merges e || (q.injected && cls < 2) then s.bw.unacked
    else s.bw.unacked ++ [{ src := e.src, inst := e.inst, cls := BitVec.ofNat 2 cls }]
  let double := s.bw.doubleF || (cls == 2 && s.bw.unacked.any fun u => u.cls == 2)
  let b := s.bw.setPend cls src
  let (b, fresh) := if lost then ({ b with lostq := satInc b.lostq }, false) else b.capture cls esc e q.time
  let b := { b with unacked := unacked, doubleF := double, fStop := b.fStop || cls == 2 }
  let b := if key.1 = 0 then b else { b with counts := bumpCount cls key.1 key.2 b.counts }
  let entry : LogEntry :=
    { time := q.time, event := false, code := BitVec.ofNat 8 src, cls := BitVec.ofNat 2 cls, esc := esc, ev := shownEvent e }
  let b := if lost then b else b.log entry
  let b := if cls = 2 ∨ (cls = 1 ∧ faultSafety src = true) then b.enterSafe else b
  let s := { s with bw := b, si := if cls = 2 then s.si.fatal s.time else s.si }
  let s := if key.1 = 0 then s else s.markCounted key.1 key.2
  if fresh then s.offerEvent 0x005 .latch else s

/-- The collector accepts one fault (R325). -/
def State.acceptFault (s : State) (q : QueuedFault) : State := s.recordFault q false

/-- A fault joins the collector's queue (R325); one that finds it full is lost. -/
def State.queueFault (s : State) (q : QueuedFault) : State :=
  if s.bw.queue.length < 256 then { s with bw := { s.bw with queue := s.bw.queue ++ [q] } } else s.recordFault q true

/-- A fault reaches the collector: it is accepted at once, or waits behind those that arrived before it. -/
def State.arriveFault (s : State) (q : QueuedFault) : State :=
  if s.bw.queue.isEmpty then s.acceptFault q else s.queueFault q

/-- A fault that a unit detects now. -/
def State.faultNow (s : State) (e : FaultEvent) : QueuedFault := { ev := e, time := s.time, injected := false }

/-- A unit detects a fault. -/
def State.detect (s : State) (e : FaultEvent) : State := (s.sense e).arriveFault (s.faultNow e)

/-- A fault event without access, master or address. -/
def plainFault (src inst : Nat) : FaultEvent :=
  { FaultEvent.zero with src := BitVec.ofNat 6 src, inst := BitVec.ofNat 8 inst }

/-- MASTER of a capture for a berth of a core (Table 5). -/
def coreMaster (c : CoreId) (b : BerthId) : BitVec 16 := BitVec.ofNat 16 (0x1000 + 256 * c.val + b.val)
/-- MASTER of a capture for a quay engine. -/
def quayMaster (n : Nat) : BitVec 16 := BitVec.ofNat 16 (0x2000 + n)
/-- MASTER of a capture for the dock. -/
def dockMaster (n : Nat) : BitVec 16 := BitVec.ofNat 16 (0x3000 + n % 4096)
/-- MASTER of a capture for the pilot. -/
def pilotMaster : BitVec 16 := 0x5000

-- Levels ------------------------------------------------------------------------------------------------------

/-- BW_ATTN CAUSE, bit n for cause n: the event bits and the level causes of R325 and R346. -/
def State.attnBits (s : State) : BitVec 16 :=
  let v := s.bw.attn
  let v := setBit v 0xF (s.bw.pendF != 0)
  let v := setBit v 0xE s.bw.safe
  let v := setBit v 0xD (s.bw.pendU != 0)
  let v := setBit v 0x7 (s.bw.pendC != 0)
  setBit v 0x1 (!s.bw.logBuf.isEmpty || s.bw.logPut != s.bw.logTake)

/-- The highest-numbered uncleared cause, 0 for none (R65). -/
def State.topCause (s : State) : Nat := ((List.range 16).filter fun n => bitAt s.attnBits n).foldl Nat.max 0

/-- Whether the NODE link of an accelerator is up (R331). -/
def State.accelUp (s : State) (i : Nat) : Bool :=
  let p := s.sect secLink
  allLinks.any fun n => linkRole p n == 0 && linkAccel p n == i && s.enabled .link && (s.link n).state == .up

/-- Whether output `i` is released: the conditions of R331. -/
def State.released (s : State) (i : Nat) : Bool :=
  s.enabled .safety && bitAt (planOutEn (s.sect secSafety)) i && s.bw.startupOk && s.bw.pendF == 0 && !s.bw.safe &&
    !s.bw.stopA && !s.bw.stopB && !s.bw.stopFault && !s.bw.keepExp && bitAt s.bw.armed i && (8 ≤ i || s.accelUp i)

/-- Whether any output is released. -/
def State.anyReleased (s : State) : Bool := (List.range 10).any s.released

/-- OUT of BW_STATUS: the levels driven; NODE_PWR_ALLOW is safe low, COOL_FULL and LINK_TX_HOLD safe high (R19). -/
def State.outLevels (s : State) : BitVec 10 :=
  (List.range 10).foldl (fun v i => setBit v i (if i < 8 then s.released i else !s.released i)) 0

/-- Whether LINK_TX_HOLD is asserted. -/
def State.txHold (s : State) : Bool := !s.released 9

/-- The level of AUD_FAULT_N (R327): low until the start-up self-test passes. -/
def State.audFaultN (s : State) : Bool :=
  s.bw.startupOk &&
    ((s.bw.pendC ||| s.bw.pendU ||| s.bw.pendF) &&& ~~~planMask (s.sect secSafety)) == 0

end Sys2Proof.Machine
end

