-- ==== Sys2Proof/Machine/Memory.lean ====
section
/-! DEFINITION. Local memory as its accesses meet it: the slices and their lines (R199-R207), order with the quay
engines and the dock (R208), poison (R216, R217), the tide clean (R218) and the L1 caches. An access takes effect
whole in the step that makes it; a line is named by its address divided by 64. -/

namespace Sys2Proof.Machine

-- Placement -------------------------------------------------------------------------------------------------

/-- The slice that owns a line (R200). -/
def sliceOf (line : Nat) : Nat :=
  (line % 16) ^^^ ((line / 16) % 16) ^^^ ((line / 256) % 16) ^^^ ((line / 4096) % 16)

/-- The L2 set of a line: A[20:10]. -/
def l2SetOf (line : Nat) : Nat := (line / 16) % 2048

/-- The pointer key of a line's slice and set. -/
def l2Key (line : Nat) : Nat := 2048 * sliceOf line + l2SetOf line

/-- The number of ways in which the L2 caches memory (R220). -/
def State.cacheWays (s : State) : Nat := if s.enabled .l2 then 16 - s.scratchWays else 16

/-- Whether a line lies in scratch of the enabled L2. -/
def State.scratchLine (s : State) (line : Nat) : Bool := s.enabled .l2 && s.inScratch (64 * line)

/-- The place of a scratch line (R220): slice of R200, set A[20:10], physical way 15 - A[24:21], as the number of a line of the
L2 arrays. -/
def scratchPlace (line : Nat) : Nat := (sliceOf line * 2048 + l2SetOf line) * 16 + (15 - line / 32768 % 16)

-- Sparse lines ------------------------------------------------------------------------------------------------

/-- The 64 bytes of a line of a sparse memory. -/
def cellsLine (m : List Host.Cell) (line : Nat) : Line := BitVec.ofNat 512 (cellsNat m (64 * line) 64)

/-- Write the bytes of a line that a mask selects. -/
def cellsPutLine (m : List Host.Cell) (line : Nat) (data : Line) (mask : BitVec 64) : List Host.Cell :=
  cellsPut m (64 * line) data.toNat mask.toNat 64

/-- The bytes of the granules that a granule mask selects (R216: 8-byte granules). -/
def granuleBytes (g : BitVec 8) : BitVec 64 :=
  (List.range 8).foldl (fun v i => if bitAt g i then v ||| (0xFF#64 <<< (8 * i)) else v) 0

/-- The granules whose 8 bytes a byte mask covers whole. -/
def granulesCovered (mask : BitVec 64) : BitVec 8 :=
  (List.range 8).foldl (fun g i => setBit g i ((mask.toNat >>> (8 * i)) % 256 == 255)) 0

/-- The granules that a byte mask touches. -/
def granulesTouched (mask : BitVec 64) : BitVec 8 :=
  (List.range 8).foldl (fun g i => setBit g i ((mask.toNat >>> (8 * i)) % 256 != 0)) 0

-- L1 caches -----------------------------------------------------------------------------------------------------

/-- The line of an L1 cache at a line number. -/
def L1.find (c : L1) (line : Nat) : Option L1Line := c.lines.find? (·.line == line)

/-- Invalidate one line; the set's pointer does not move (R201). -/
def L1.drop (c : L1) (line : Nat) : L1 := { c with lines := c.lines.filter (·.line != line) }

/-- Replace the data of a line that is present. -/
def L1.update (c : L1) (line : Nat) (data : Line) (mask : BitVec 64) : L1 :=
  { c with lines := c.lines.map fun l => if l.line == line then { l with data := mergeLine l.data data mask } else l }

/-- Fill a line (R201): the lowest invalid way of its set, else the way that the set's pointer names. -/
def L1.fill (c : L1) (sets ways line : Nat) (data : Line) : L1 :=
  let c := c.drop line
  let key := line % sets
  let used := (c.lines.filter (·.line % sets == key)).map (·.way)
  match (List.range ways).find? (fun w => !used.contains w) with
  | some w => { c with lines := c.lines ++ [{ line := line, way := w, data := data }] }
  | none =>
    let w := (aget key c.ptrs).getD 0
    let kept := c.lines.filter fun l => !(l.line % sets == key && l.way == w)
    { lines := kept ++ [{ line := line, way := w, data := data }], ptrs := aput key ((w + 1) % ways) c.ptrs }

/-- Invalidate the L1D copies of a line in every core but one (R204); `none` spares no core. -/
def State.dropL1d (s : State) (line : Nat) (spare : Option CoreId) : State :=
  s.mapCores fun c k => if spare == some c then k else { k with l1d := k.l1d.drop line }

-- L2 lines --------------------------------------------------------------------------------------------------------

/-- The L2 line at a line number. -/
def L2.find (l : L2) (line : Nat) : Option L2Line := l.lines.find? (·.line == line)

/-- Replace an L2 line that is present. -/
def L2.put (l : L2) (x : L2Line) : L2 := { l with lines := l.lines.map fun y => if y.line == x.line then x else y }

/-- Remove an L2 line and its place in the dirty order. -/
def L2.drop (l : L2) (line : Nat) : L2 :=
  { l with lines := l.lines.filter (·.line != line), order := l.order.filter (· != line) }

/-- The dirty lines of a slice in the order of first dirtying (R218). -/
def L2.dirtyOf (l : L2) (slice : Nat) : List Nat := l.order.filter (sliceOf · == slice)

/-- The entries of a slice's poison list. -/
def L2.poisonOf (l : L2) (slice : Nat) : List (Nat × BitVec 8) := l.poison.filter (sliceOf ·.1 == slice)

/-- The poisoned granules of a line in its slice's list. -/
def L2.listed (l : L2) (line : Nat) : BitVec 8 := (aget line l.poison).getD 0

/-- A write that covers granules clears their bits in the list (R217). -/
def L2.unlist (l : L2) (line : Nat) (g : BitVec 8) : L2 :=
  let left := l.listed line &&& ~~~g
  { l with poison := if left = 0 then adel line l.poison else aput line left l.poison }

/-- A line leaves the L2 or is cleaned with poisoned granules (R217): it enters the slice's list, or source 0x17 is
recorded when the list is full. -/
def State.listPoison (s : State) (line : Nat) (g : BitVec 8) : State :=
  if g = 0 then s
  else if (aget line s.l2.poison).isSome || (s.l2.poisonOf (sliceOf line)).length < 16 then
    { s with l2 := { s.l2 with poison := aput line (s.l2.listed line ||| g) s.l2.poison } }
  else s.detect { plainFault 0x17 (sliceOf line) with access := 2, addr := BitVec.ofNat 48 (64 * line) }

/-- The granules of a line whose last read from memory was uncorrected, once a mask has been written. -/
def badClear (l : List (Nat × BitVec 8)) (line : Nat) (mask : BitVec 64) : List (Nat × BitVec 8) :=
  match aget line l with
  | some g => let left := g &&& ~~~granulesCovered mask; if left = 0 then adel line l else aput line left l
  | none => l

/-- A write reaches memory: the bytes of a line that a mask selects. -/
def State.memWrite (s : State) (line : Nat) (data : Line) (mask : BitVec 64) : State :=
  { s with mem := cellsPutLine s.mem line data mask, memBad := badClear s.memBad line mask }

/-- Write a line back to memory: strobes on its valid, unpoisoned bytes (R205, R217). -/
def State.writeBack (s : State) (x : L2Line) : State := s.memWrite x.line x.data (x.mask &&& ~~~granuleBytes x.poison)

/-- Clean a line: it stays, no longer dirty (R209, R212, R218). -/
def State.cleanLine (s : State) (line : Nat) : State :=
  match s.l2.find line with
  | some x =>
    if x.dirty then
      let s := (s.writeBack x).listPoison line x.poison
      { s with l2 := { s.l2.put { x with dirty := false } with order := s.l2.order.filter (· != line) } }
    else s
  | none => s

/-- Evict a line (R206, R217): a dirty line is written back, every L1D copy goes. -/
def State.evictLine (s : State) (line : Nat) : State :=
  match s.l2.find line with
  | some x =>
    let s := (if x.dirty then s.writeBack x else s).listPoison line x.poison
    { s with l2 := s.l2.drop line }.dropL1d line none
  | none => s

/-- Discard a line: dirty bytes are lost (R209); an entry of the poison list stays. -/
def State.discardLine (s : State) (line : Nat) : State :=
  if s.scratchLine line then s else { s with l2 := s.l2.drop line }.dropL1d line none

/-- L2.INV.A of a listed line removes its entry too (R217). -/
def State.forgetLine (s : State) (line : Nat) : State :=
  if s.scratchLine line then s
  else let s := s.discardLine line; { s with l2 := { s.l2 with poison := adel line s.l2.poison } }

/-- Clean every line of a slice in the order of first dirtying. -/
def State.cleanLines (s : State) (lines : List Nat) : State := lines.foldl State.cleanLine s

/-- Take a way for a new line, evicting where none is invalid (R201, R206). -/
def State.takeWay (s : State) (line : Nat) : State × Nat :=
  let ways := s.cacheWays
  let key := l2Key line
  let here := s.l2.lines.filter (fun x => l2Key x.line == key)
  let used := here.map (·.way)
  match (List.range ways).find? (fun w => !used.contains w) with
  | some w => (s, w)
  | none =>
    let w := (aget key s.l2.ptrs).getD 0
    let s := match here.find? (·.way == w) with
      | some v => s.evictLine v.line
      | none => s
    ({ s with l2 := { s.l2 with ptrs := aput key ((w + 1) % ways) s.l2.ptrs } }, w)

/-- Bring the whole of a memory line into the L2 (R205): a miss fills it, and a partly valid line takes the bytes it
lacks. A listed line's granules are marked poisoned (R217). -/
def State.l2Fill (s : State) (line : Nat) : State :=
  match s.l2.find line with
  | some x =>
    if x.mask = BitVec.allOnes 64 then s
    else
      let data := mergeLine (cellsLine s.mem line) x.data x.mask
      { s with l2 := s.l2.put { x with data := data, mask := BitVec.allOnes 64, poison := x.poison ||| s.l2.listed line } }
  | none =>
    let (s, w) := s.takeWay line
    let x : L2Line :=
      { line := line, way := w, data := cellsLine s.mem line, mask := BitVec.allOnes 64, dirty := false, sharers := 0,
        poison := s.l2.listed line }
    { s with l2 := { s.l2 with lines := s.l2.lines ++ [x] } }

/-- What a read through the slice returns: the line, and its poisoned granules. The L2 must hold a memory line. -/
def State.sliceRead (s : State) (line : Nat) : Line × BitVec 8 :=
  if s.scratchLine line then
    (cellsLine s.l2.scratch (scratchPlace line), (aget (scratchPlace line) s.l2.scrPoison).getD 0)
  else match s.l2.find line with
    | some x => (x.data, x.poison)
    | none => (cellsLine s.mem line, s.l2.listed line)

/-- The slice limit of dirty lines (R218). -/
def State.dirtyLimit (s : State) : Nat := s.tideLimit * 1024

/-- Write back the head of a slice's dirty order. -/
def State.cleanHead (s : State) (slice : Nat) : State :=
  match s.l2.dirtyOf slice with
  | line :: _ => s.cleanLine line
  | [] => s

/-- A write that a slice performs for a core (R202-R205, R218): `line` takes the bytes of `data` that `mask` selects.
In a supply episode it goes to memory and makes no line dirty (R316). Every L1D copy but the writer's goes. -/
def State.sliceWrite (s : State) (line : Nat) (data : Line) (mask : BitVec 64) (writer : Option CoreId) : State :=
  let good := granulesCovered mask
  if s.scratchLine line then
    let at_ := scratchPlace line
    let p := ((aget at_ s.l2.scrPoison).getD 0) &&& ~~~good
    { s with l2 := { s.l2 with scratch := cellsPutLine s.l2.scratch at_ data mask,
                               scrPoison := if p = 0 then adel at_ s.l2.scrPoison else aput at_ p s.l2.scrPoison }
    }.dropL1d line writer
  else
    let s := s.dropL1d line writer
    let s := { s with l2 := s.l2.unlist line good }
    let through := s.ck.supEpisode
    let s := if through then s.memWrite line data mask else s
    match s.l2.find line with
    | some x =>
      let keep : BitVec 16 := match writer with | some c => x.sharers &&& (1#16 <<< c.val) | none => 0
      let y := { x with data := mergeLine x.data data mask, mask := x.mask ||| mask, poison := x.poison &&& ~~~good,
                        sharers := keep }
      if x.dirty || through then { s with l2 := s.l2.put y }
      else
        let s := if s.dirtyLimit ≤ (s.l2.dirtyOf (sliceOf line)).length then s.cleanHead (sliceOf line) else s
        { s with l2 := { s.l2.put { y with dirty := true } with order := s.l2.order ++ [line] } }
    | none =>
      if through then s
      else
        let s := if s.dirtyLimit ≤ (s.l2.dirtyOf (sliceOf line)).length then s.cleanHead (sliceOf line) else s
        let (s, w) := s.takeWay line
        let x : L2Line :=
          { line := line, way := w, data := data, mask := mask, dirty := true, sharers := 0, poison := 0 }
        { s with l2 := { s.l2 with lines := s.l2.lines ++ [x], order := s.l2.order ++ [line] } }

-- Engine and dock accesses (R208) -----------------------------------------------------------------------------------

/-- A read of a line by a quay engine or the dock: the L2 bytes merged over memory, and the poisoned granules. -/
def State.engineRead (s : State) (line : Nat) : Line × BitVec 8 :=
  if s.scratchLine line then s.sliceRead line
  else
    let lost := s.l2.listed line ||| (aget line s.memBad).getD 0
    match s.l2.find line with
    | some x =>
      (mergeLine (cellsLine s.mem line) x.data x.mask,
        x.poison ||| (if x.mask = BitVec.allOnes 64 then 0 else lost &&& ~~~granulesCovered x.mask))
    | none => (cellsLine s.mem line, lost)

/-- A write of a line by a quay engine or the dock: memory takes it merged with the dirty bytes of the line, and every
cached copy goes. -/
def State.engineWrite (s : State) (line : Nat) (data : Line) (mask : BitVec 64) : State :=
  if s.scratchLine line then s.sliceWrite line data mask none
  else
    let good := granulesCovered mask
    let s := match s.l2.find line with
      | some x =>
        let s := (if x.dirty then s.writeBack x else s).listPoison line (x.poison &&& ~~~good)
        { s with l2 := s.l2.drop line }
      | none => s
    ({ s with l2 := s.l2.unlist line good }.memWrite line data mask).dropL1d line none

/-- Whether every miss entry of a slice is in use (R207): its reads outstanding on the memory port. -/
def State.missFull (s : State) (slice : Nat) : Bool :=
  256 ≤ (s.ports[(Fin.ofNat 16 slice : SliceId)].filter fun r => r.client == .slice && !r.write).length

/-- Whether a line holds a miss entry. -/
def State.missing (s : State) (line : Nat) : Bool :=
  s.ports[(Fin.ofNat 16 (sliceOf line) : SliceId)].any fun r =>
    r.client == .slice && !r.write && (r.line == line || (r.len && r.line + 1 == line))

/-- Whether a demand access to a line must wait at its slice (R207): it misses, every miss entry is in use and the line holds
none. -/
def State.missWaits (s : State) (line : Nat) : Bool :=
  !s.scratchLine line && !(match s.l2.find line with | some x => x.mask == BitVec.allOnes 64 | none => false) &&
    s.missFull (sliceOf line) && !s.missing line

/-- Whether a slice holds every other access to a line, from a quay program's read to its write (R208). -/
def State.lineHeld (s : State) (line : Nat) : Bool := s.l2.holds.any (·.line == line)

/-- Whether a slice holds a line of `[a, a + n)` for a quay program (R208). -/
def State.rangeHeld (s : State) (a n : Nat) : Bool :=
  s.l2.holds.any fun h => n != 0 && (a / 64 ≤ h.line && h.line < (a + n + 63) / 64)

/-- Whether an access of a core to a line waits at its slice. -/
def State.lineWaits (s : State) (line : Nat) : Bool := s.missWaits line || s.lineHeld line

/-- Whether a line is served by a memory port or by scratch (R250). -/
def State.lineMapped (s : State) (line : Nat) : Bool := s.mapped (64 * line)

/-- Read `n` bytes from an address through the engines: none where a byte is outside local memory; otherwise the bytes
and whether a granule read is poisoned. -/
def State.engineBytes (s : State) (a n : Nat) : Option (Blob × Bool) :=
  if !s.mappedAll a n then none
  else
    let first := a / 64
    let cnt := (a % 64 + n + 63) / 64
    let ls := (List.range cnt).map fun i =>
      let r := s.engineRead (first + i)
      let lo := if i = 0 then a % 64 else 0
      let hi := Nat.min 64 (a + n - 64 * (first + i))
      let touched := granulesTouched (BitVec.ofNat 64 ((2 ^ hi - 1) - (2 ^ lo - 1)))
      (r.1, r.2 &&& touched != 0)
    let bits := ls.zipIdx.foldl (fun acc p => acc ||| (p.1.1.toNat <<< (512 * p.2))) 0
    some ({ len := n, bits := (bits >>> (8 * (a % 64))) % 2 ^ (8 * n) }, ls.any (·.2))

/-- Write a byte string from an address through the engines, line by line. -/
def State.engineStore (s : State) (a : Nat) (b : Blob) : State :=
  let first := a / 64
  let cnt := (a % 64 + b.len + 63) / 64
  let bits := b.bits <<< (8 * (a % 64))
  let mask := (2 ^ b.len - 1) <<< (a % 64)
  (List.range cnt).foldl (fun s i =>
    s.engineWrite (first + i) (BitVec.ofNat 512 (bits >>> (512 * i))) (BitVec.ofNat 64 (mask >>> (64 * i)))) s

/-- Read a 64-bit word through the engines; none where it fails. -/
def State.engineWord (s : State) (a : Nat) : Option Nat :=
  match s.engineBytes a 8 with
  | some (b, false) => some b.bits
  | _ => none

/-- Write a 64-bit word through the engines. -/
def State.engineWordPut (s : State) (a v : Nat) : State := s.engineStore a { len := 8, bits := v % 2 ^ 64 }

-- Whole-cache operations ----------------------------------------------------------------------------------------

/-- Clean every slice in the tide-clean order (R212). -/
def State.cleanAll (s : State) : State := s.cleanLines s.l2.order

/-- Invalidate every cache way: dirty data is discarded, every pointer returns to way 0 (R201, R212). -/
def State.invalidateAll (s : State) : State :=
  let memLines := s.l2.lines.map (·.line)
  let s := { s with l2 := { s.l2 with lines := [], ptrs := [], order := [] } }
  memLines.foldl (fun s l => s.dropL1d l none) s

/-- The invalidation of an accepted L2 enable (R213): every way invalid, scratch zero, the order clear. -/
def State.l2EnableInvalidate (s : State) : State :=
  { s with l2 := { s.l2 with lines := [], ptrs := [], order := [], poison := [], tested := false, scratch := [], scrPoison := [] } }

/-- The invalidation of a core enable (R213). -/
def Core.invalidateL1 (k : Core) : Core := { k with l1i := L1.empty, l1d := L1.empty, lineBuf := [], fills := [] }

/-- The cache actions of a parity fault (Table 7 of "Caches and scratch"): the line of the L1 that failed, L1I when the access
was a fetch and L1D when it was not; a clean L2 line; the poisoned granule of a dirty or scratch line; a line whose tag or state is
in doubt, with its sharers. -/
def State.parityAction (s : State) (e : FaultEvent) : State :=
  let line := e.addr.toNat / 64
  let c : CoreId := Fin.ofNat 16 e.inst.toNat
  if e.src = 0x0D && e.inst.toNat < 16 then
    let k := s.core c
    s.setCore c (if e.access = 4 then { k with l1i := k.l1i.drop line } else { k with l1d := k.l1d.drop line })
  else if e.src = 0x14 then
    match s.l2.find line with
    | some x => if x.dirty then s else { s with l2 := s.l2.drop line }.dropL1d line none
    | none => s
  else if e.src = 0x15 then
    let g : BitVec 8 := 1#8 <<< (e.addr.toNat / 8 % 8)
    if s.scratchLine line then
      let at_ := scratchPlace line
      { s with l2 := { s.l2 with scrPoison := aput at_ ((aget at_ s.l2.scrPoison).getD 0 ||| g) s.l2.scrPoison } }
    else match s.l2.find line with
      | some x => if x.dirty then { s with l2 := s.l2.put { x with poison := x.poison ||| g } } else s
      | none => s
  else if e.src = 0x16 && !s.scratchLine line then State.dropL1d { s with l2 := s.l2.drop line } line none
  else s

end Sys2Proof.Machine
end

