-- ==== Sys2Proof/Machine/Windows.lean ====
section
/-! DEFINITION. The dock window (R255, Tables 5 to 8 of "Dock") and the table-port window (R49, Table 22 of "Block
boundary and ports") as cores and quay programs reach them, and the dock's counters (R263). -/

namespace Sys2Proof.Machine

-- Queues, counters and watches ------------------------------------------------------------------------------------

/-- A queue that nothing has used. -/
def DQueue.empty : DQueue :=
  { put := 0, take := 0, next := 0, qcount := 0, state := 0, fetched := none, started := [], old := none }

/-- A queue. -/
def State.dq (s : State) (q : Nat) : DQueue := (aget q s.dk.queues).getD DQueue.empty

/-- Replace a queue. -/
def State.setDq (s : State) (q : Nat) (x : DQueue) : State :=
  { s with dk := { s.dk with queues := if x = DQueue.empty then adel q s.dk.queues else aput q x s.dk.queues } }

/-- A counter (R263). -/
def State.ctr (s : State) (c : Nat) : BitVec 32 := (aget c s.dk.ctrs).getD 0

/-- Set a counter. -/
def State.setCtr (s : State) (c : Nat) (v : BitVec 32) : State :=
  { s with dk := { s.dk with ctrs := if v = 0 then adel c s.dk.ctrs else aput c v s.dk.ctrs } }

/-- Raise a counter by 1; it wraps (R263). -/
def State.raiseCtr (s : State) (c : Ctr) : State := s.setCtr c.toNat (s.ctr c.toNat + 1)

/-- reached(c, v) of R263. -/
def ctrReached (c v : BitVec 32) : Bool := (c - v).toNat < 2 ^ 31

/-- A watch. -/
def State.watch (s : State) (w : Nat) : Watch := (aget w s.dk.watches).getD { arm := false, target := 0 }

/-- Whether a watch offers its event (R254): valid, armed, and its counter has reached the target. -/
def State.watchReady (s : State) (w : Nat) : Bool :=
  let x := s.watch w
  waValid (s.sect secQueue) w && x.arm && ctrReached (s.ctr (waCtr (s.sect secQueue) w)) x.target

/-- Replace a watch and withdraw what it offered. -/
def State.setWatch (s : State) (w : Nat) (x : Watch) : State :=
  { s with
    dk := { s.dk with watches := if x = { arm := false, target := 0 } then adel w s.dk.watches else aput w x s.dk.watches }
    pl := { s.pl with offers := s.pl.offers.filter fun o => o.src != .dock (Fin.ofNat 3584 w) } }

/-- The queue plan in force. -/
def State.queuePlan (s : State) : Blob := s.sect secQueue

/-- Descriptors in a queue's ring. -/
def ringSlots (p : Blob) (q : Nat) : Nat := 16 * 2 ^ quRingLog2 p q

/-- The 16-byte entry in force for a queue: the one before a replacement while the queue has a descriptor in progress. -/
def State.queueEntry (s : State) (q : Nat) : Blob :=
  match (s.dq q).old with
  | some e => { len := 16, bits := e.toNat }
  | none => s.queuePlan.slice (16 * q) 16

/-- A queue without a descriptor in progress takes the entry of the active plan (R62). -/
def DQueue.idleEntry (x : DQueue) : DQueue := if x.fetched.isNone && x.started.isEmpty then { x with old := none } else x

/-- Raise ERR_CTR of a queue. -/
def State.queueError (s : State) (q : Nat) : State := s.raiseCtr (quErrCtr (s.queueEntry q) 0)

/-- A store of word 0 of a valid queue (R256, R262): PUT, RESUME, and RING_ERR when PUT passes the ring; `master` is who stores. -/
def State.storeWord0 (s : State) (q : Nat) (put : BitVec 32) (resume : Bool) (master : BitVec 16) : State :=
  let p := s.queueEntry q
  let x := { s.dq q with put := put }
  let x :=
    if resume && x.state != 0 then
      { x with state := 0, fetched := none, next := x.take + BitVec.ofNat 32 x.started.length }.idleEntry
    else x
  if (put - x.take).toNat > ringSlots p 0 && x.state != 2 then
    let s := (s.setDq q { x with state := 2 }).queueError q
    s.detect { plainFault 0x28 0 with access := 2, master := master, addr := BitVec.ofNat 48 (quRingBase p 0) }
  else s.setDq q x

-- The dock window ---------------------------------------------------------------------------------------------------

/-- What an 8-byte load from an offset of the dock window returns; none is a bus error (Table 5). -/
def State.dockLoad (s : State) (off : Nat) : Option Word :=
  if off < 0x10000 then
    let q := off / 16
    let x := s.dq q
    if off % 16 < 8 then some (x.put.setWidth 64)
    else
      let st : Nat := if quValid (s.queueEntry q) 0 then x.state.toNat else 3
      some (BitVec.ofNat 64 (x.qcount.toNat + st * 2 ^ 32))
  else if off < 0x17000 then
    let w := s.watch ((off - 0x10000) / 8)
    some (BitVec.ofNat 64 (w.target.toNat + b2n w.arm * 2 ^ 32))
  else if 0x20000 ≤ off && off < 0xA0000 then some ((s.ctr ((off - 0x20000) / 8)).setWidth 64)
  else none

/-- An 8-byte store to an offset of the dock window; none is the late bus error, with nothing changed. -/
def State.dockStore (s : State) (off : Nat) (v : Word) (master : BitVec 16) : Option State :=
  if off < 0x10000 then
    let q := off / 16
    if off % 16 < 8 then
      if v.toNat ≥ 2 ^ 33 then none
      else if quValid (s.queueEntry q) 0 then some (s.storeWord0 q (v.setWidth 32) (bitAt v 32) master)
      else some s
    else if v.toNat ≥ 2 ^ 34 then none
    else some s
  else if off < 0x17000 then
    let w := (off - 0x10000) / 8
    if v.toNat ≥ 2 ^ 33 then none
    else if waValid s.queuePlan w then some (s.setWatch w { arm := bitAt v 32, target := v.setWidth 32 })
    else some s
  else if 0x20000 ≤ off && off < 0xA0000 then
    if v.toNat ≥ 2 ^ 32 then none else some (s.setCtr ((off - 0x20000) / 8) (v.setWidth 32))
  else none

-- The table-port window -----------------------------------------------------------------------------------------------

/-- A table-port slot. -/
def State.slot (s : State) (n : Fin 16) : TpSlot := s.tp.slots[n]

/-- Replace a table-port slot. -/
def State.setSlot (s : State) (n : Fin 16) (x : TpSlot) : State := { s with tp := { s.tp with slots := s.tp.slots.set n x } }

/-- Write a response into a slot: GO clears and table done is raised (R39, R49). -/
def State.slotRespond (s : State) (n : Fin 16) (r : BitVec 128) : State :=
  (s.setSlot n { s.slot n with response := r, go := false, sent := false }).offerEvent 0x003 (.table n)

/-- The OP byte of a table command. -/
def tcOp (c : Line) : Nat := c.toNat % 256

/-- Whether OP is one of Table 11. -/
def tcOpOk (c : Line) : Bool := 1 ≤ tcOp c && tcOp c ≤ 3

/-- What an 8-byte load from an offset of the table-port window returns. -/
def State.tpLoad (s : State) (off : Nat) : Word :=
  let x := s.slot (Fin.ofNat 16 (off / 128))
  let o := off % 128
  if o < 64 then BitVec.ofNat 64 (x.command.toNat >>> (8 * o))
  else if o < 80 then BitVec.ofNat 64 (x.response.toNat >>> (8 * (o - 64)))
  else if o < 88 then BitVec.ofNat 64 (b2n x.go)
  else 0

/-- The reserved bits of a slot's word at an offset in it (Tables 11, 12 and 22): those of COMMAND bytes 0 to 7, of RESPONSE
bytes 0 to 7, and of GO and the bytes above it. -/
def tpReserved (o : Nat) : Word :=
  if o = 0 then 0xFFFFFFF0003F0000
  else if o = 64 then 0xF0000000FFFFFF00
  else if o < 80 then 0
  else if o = 80 then 0xFFFFFFFFFFFFFFFE
  else 0xFFFFFFFFFFFFFFFF

/-- An 8-byte store to an offset of the table-port window; none is the late bus error: while GO is 1, or setting a reserved bit
(R49). A store to RESPONSE changes nothing. A reserved OP is answered BAD_COMMAND at GO (Table 11); while PILOT is disabled the
store of GO is held as every other is, and the answer comes once PILOT is enabled (log entry 100). -/
def State.tpStore (s : State) (off : Nat) (v : Word) : Option State :=
  let n : Fin 16 := Fin.ofNat 16 (off / 128)
  let x := s.slot n
  let o := off % 128
  if x.go || v &&& tpReserved o != 0 then none
  else if o < 64 then
    let m : BitVec 64 := 0xFF#64 <<< o
    let d : Line := BitVec.ofNat 512 (v.toNat <<< (8 * o))
    some (s.setSlot n { x with command := mergeLine x.command d m })
  else if o < 80 then some s
  else if o < 88 then
    if v = 1 then
      if tcOpOk x.command || !s.enabled .pilot then some (s.setSlot n { x with go := true, sent := false })
      else some (s.slotRespond n 0x04)
    else some s
  else some s

-- Both windows ----------------------------------------------------------------------------------------------------------

/-- Whether an address lies in either window. -/
def State.inWindow (s : State) (a : Nat) : Bool := s.inDockWin a || s.inTpWin a

/-- An aligned 8-byte load from a window. -/
def State.windowLoad (s : State) (a : Nat) : Option Word :=
  let p := s.sect secMap
  if s.inDockWin a then s.dockLoad (a - dockWin p) else if s.inTpWin a then some (s.tpLoad (a - tpWin p)) else none

/-- An aligned 8-byte store to a window. -/
def State.windowStore (s : State) (a : Nat) (v : Word) (master : BitVec 16) : Option State :=
  let p := s.sect secMap
  if s.inDockWin a then s.dockStore (a - dockWin p) v master else if s.inTpWin a then s.tpStore (a - tpWin p) v else none

end Sys2Proof.Machine
end

