-- ==== Sys2Proof/Machine/Flits.lean ====
section
/-! DEFINITION. Flits and routes: how operations and answers are cut into flits (R283-R285), where they leave (R293), and
how a remote operation is answered (R260, R261). -/

namespace Sys2Proof.Machine

-- Outcomes (Tables 10 and 11 of "Dock") ----------------------------------------------------------------------------------

/-- The OUTCOME of a CAUSE (Table 10). -/
def outcomeOf (cause : Nat) : Nat :=
  if cause = 0 then 0
  else if cause ≤ 2 ∨ cause = 0x0D then 1
  else if cause ≤ 5 then 3
  else if cause = 6 then 4
  else if cause ≤ 8 then 6
  else if cause = 9 then 2
  else 5

/-- A status byte: ATTN over an OUTCOME (R12, R261). -/
def State.statusByte (s : State) (outcome : Nat) : Nat := 16 * s.topCause + outcome

-- Flits (R284, R285) -------------------------------------------------------------------------------------------------------

/-- TYPE values of Table 6 that are sent. -/
def tyIdle : Nat := 0
def tyData : Nat := 1
def tyNak : Nat := 2
def tyMarker : Nat := 3
def tyInit : Nat := 4
def tySleep : Nat := 5
def tyAgree : Nat := 6
def tyDeny : Nat := 7
def tyWake : Nat := 8
def tyWakeAck : Nat := 9

/-- The header of a data flit of VC0 or VC1 without its credit fields. -/
def dataHead (vc rank : Nat) (first : Bool) (dest src : BitVec 15) (tag : BitVec 16) : Word :=
  BitVec.ofNat 64 (vc + 4 * rank + 16 * b2n first + dest.toNat * 2 ^ 5 + src.toNat * 2 ^ 20 + tag.toNat * 2 ^ 35 +
    tyData * 2 ^ 60)

/-- The header of a control flit of VC3. -/
def ctlHead (ty : Nat) : Word := BitVec.ofNat 64 (3 + ty * 2 ^ 60)

/-- Fields of a flit header (Table 5). -/
def flVc (h : Word) : Nat := bitsNat h 1 0
def flRank (h : Word) : Nat := bitsNat h 3 2
def flFirst (h : Word) : Bool := bitAt h 4
def flDest (h : Word) : BitVec 15 := BitVec.ofNat 15 (bitsNat h 19 5)
def flSrc (h : Word) : BitVec 15 := BitVec.ofNat 15 (bitsNat h 34 20)
def flTag (h : Word) : BitVec 16 := BitVec.ofNat 16 (bitsNat h 50 35)
def flCredits (h : Word) : Nat := bitsNat h 55 51
def flCvc (h : Word) : Nat := bitsNat h 57 56
def flCrank (h : Word) : Nat := bitsNat h 59 58
def flType (h : Word) : Nat := bitsNat h 63 60

/-- Replace VC0 or VC1's rank in a header. -/
def withRank (h : Word) (rank : Nat) : Word := (h &&& ~~~0xC#64) ||| BitVec.ofNat 64 (4 * rank)

/-- The credit index of a virtual channel and rank: VC0 ranks, VC1 ranks, VC2, VC3. -/
def creditIx (vc rank : Nat) : Nat := if vc = 0 then rank else if vc = 1 then 4 + rank else if vc = 2 then 8 else 9

/-- Add one to an entry of a list of counts. -/
def bumpAt (l : List Nat) (i n : Nat) : List Nat := setAt l i (l.getD i 0 + n)

/-- An operation header (Table 7). -/
def opHeader (opk : Nat) (notify : Bool) (note : Ctr) (len addr status cause flags : Nat) : Nat :=
  opk + b2n notify * 2 ^ 8 + note.toNat * 2 ^ 16 + (len % 2 ^ 24) * 2 ^ 32 + (addr % 2 ^ 48) * 2 ^ 64 + status * 2 ^ 128 +
    cause * 2 ^ 136 + flags * 2 ^ 144

/-- The number of flits of `len` data bytes (R285). -/
def flitCount (len : Nat) : Nat := 1 + (len - 208 + 239) / 240

/-- The flits of an operation or answer: the header and its data. -/
def opFlits (vc rank : Nat) (dest src : BitVec 15) (tag : BitVec 16) (header : Nat) (data : Blob) : List TxFlit :=
  let bits := header + data.bits * 2 ^ 256
  (List.range (flitCount data.len)).map fun i =>
    { head := dataHead vc rank (i == 0) dest src tag, payload := BitVec.ofNat 1920 (bits >>> (1920 * i)) }

-- Routes (R292, R293) ----------------------------------------------------------------------------------------------------------

/-- The link plan in force. -/
def State.linkPlan (s : State) : Blob := s.sect secLink

/-- The role of a link; SPARE where no LINK_PLAN is active. -/
def State.role (s : State) (n : LinkId) : Nat := linkRole s.linkPlan n.val

/-- Whether a choice is usable at an arriving rank. -/
def State.choiceUsable (s : State) (rank : Nat) (c : RouteChoice) : Bool :=
  c.link < 48 && s.enabled .link && (s.link (Fin.ofNat 48 c.link)).state == .up && s.role (Fin.ofNat 48 c.link) == 1 &&
    rank ≤ c.rank

/-- Cut valid choices into groups: EQ joins a choice to the one before it. -/
def choiceGroups : List RouteChoice → List (List RouteChoice)
  | [] => []
  | c :: t =>
    match choiceGroups t, t with
    | g :: gs, d :: _ => if d.eq then (c :: g) :: gs else [c] :: g :: gs
    | _, _ => [[c]]

/-- The route of an operation to a node (R293): the link and the rank it leaves with. -/
def State.routeTo (s : State) (node src : BitVec 15) (tag : BitVec 16) (rank : Nat) : Option (LinkId × Nat) :=
  let groups := choiceGroups (routeChoices (s.sect secRoute) node.toNat)
  match (groups.map (·.filter (s.choiceUsable rank))).find? (!·.isEmpty) with
  | some g =>
    match g[(src.toNat + tag.toNat) % g.length]? with
    | some c => some (Fin.ofNat 48 c.link, c.rank)
    | none => none
  | none => none

/-- Whether a node's entry has a valid choice. -/
def State.hasRoute (s : State) (node : BitVec 15) : Bool := !(routeChoices (s.sect secRoute) node.toNat).isEmpty

/-- Put flits into a link's transmit queue; a retired link takes none. -/
def State.queueFlits (s : State) (n : LinkId) (l : List TxFlit) : State :=
  let k := s.link n
  if k.state = .retired then s else s.setLink n { k with txq := k.txq ++ l }

-- Answers ------------------------------------------------------------------------------------------------------------------------

/-- The last flit of an answer raises a counter when it leaves (R260). -/
def noteLast (l : List TxFlit) (note : Option Ctr) : List TxFlit :=
  match l.reverse with
  | f :: t => t.reverse ++ [{ f with note := note }]
  | [] => []

/-- Answer an operation: on the local loop at once, to an accelerator on its NODE link, else by a new route (R285, R293). With
NOTIFY, the data of a READ raises its counter as the last flit leaves, or at once on the loop (R260). -/
def State.answerOp (s : State) (op : ArrivingOp) (cause : Nat) (flags : BitVec 3) (data : Blob) : State :=
  let isRead := op.kind == .read
  let noted := op.notify && isRead && cause == 0
  match op.via with
  | .loop =>
    let a : Answer := { route := .loop, src := s.si.nodeId, tag := op.tag, isRead := isRead, cause := BitVec.ofNat 8 cause, flags := flags,
                        data := data }
    let s := if noted then s.raiseCtr op.note else s
    { s with dk := { s.dk with answers := s.dk.answers ++ [a] } }
  | .link n =>
    let hd := opHeader (if isRead then 5 else 4) false 0 data.len 0 (s.statusByte (outcomeOf cause)) cause flags.toNat
    let out := if s.role n = 0 then some (n, 0) else s.routeTo op.src s.si.nodeId op.tag 0
    match out with
    | some (m, rank) =>
      let note := if noted then some op.note else none
      s.queueFlits m (noteLast (opFlits 1 rank op.src s.si.nodeId op.tag hd data) note)
    | none => s

/-- Finish an operation at the target: NOTIFY of a write raises its counter on success, then the answer leaves (R260). -/
def State.finishOp (s : State) (op : ArrivingOp) (cause : Nat) (flags : BitVec 3) (data : Blob) : State :=
  let s := if op.notify && op.kind != .read && cause == 0 then s.raiseCtr op.note else s
  s.answerOp op cause flags data

-- The check at the target (R252) ---------------------------------------------------------------------------------------------

/-- The region table in force. -/
def State.regions (s : State) : Blob := s.sect secRegion
/-- The program store in force. -/
def State.programs (s : State) : Blob := s.sect secPrograms

/-- The element size of XFMT (R226). -/
def xfmtSize (x : Nat) : Nat := if x ≤ 1 then 2 else if x = 2 then 4 else if x = 3 then 5 else 8

/-- Whether a write breaks the attribute rule of its region (R226, R231, R239); `result` for a hawser result, whose elements in
an EXACT_ACC region are A40. -/
def State.attrBroken (s : State) (r : Nat) (op : ArrivingOp) (result : Bool) : Bool :=
  let p := s.regions
  let a := op.addr.toNat
  match op.kind with
  | .read => false
  | .append => regAttr p r != 2 || 2 ^ regSlotLog2 p r < op.len
  | .write =>
    if regAttr p r = 0 then regEntryEn p r && op.len % 128 != 0
    else if regAttr p r = 1 then
      let z := xfmtSize (if result then 3 else prXfmt s.programs (regEntry p r))
      (a - regBase p r) % 8 != 0 || op.len % z != 0 || regBase p r + regLen p r < a + 8 * (op.len / z)
    else 2 ^ regSlotLog2 p r < op.len

/-- The checks of R252 in order: the region and CAUSE, 0 for none failing. -/
def State.targetCheck (s : State) (op : ArrivingOp) (result : Bool) : Nat × Nat :=
  let p := s.regions
  let a := op.addr.toNat
  match findRegion p a with
  | none => (0, 5)
  | some r =>
    let allowed := if op.kind = .read then regRd p r else regWr p r
    if !allowed || op.src.toNat < regNodeLo p r || regNodeHi p r < op.src.toNat then (r, 6)
    else if regBase p r + regLen p r < a + op.len then (r, 7)
    else if s.attrBroken r op result then (r, 8)
    else (r, 0)

/-- An operation with what its check finds now: the region, its entry and the CAUSE. -/
def State.checked (s : State) (op : ArrivingOp) (result : Bool) : ArrivingOp :=
  let c := s.targetCheck op result
  { op with region := c.1, entry := BitVec.ofNat 256 (s.regions.slice (32 * c.1) 32).bits, cause := BitVec.ofNat 8 c.2 }

/-- The region entry of an operation as bytes. -/
def ArrivingOp.ent (op : ArrivingOp) : Blob := { len := 32, bits := op.entry.toNat }

-- Chains (R275, R278, R279) ----------------------------------------------------------------------------------------------------

/-- The hawser plan in force. -/
def State.hawserPlan (s : State) : Blob := s.sect secHawser

/-- A chain that has left its reset state nowhere. -/
def HwChain.empty : HwChain :=
  { writes := [], runs := 0, armed := false, sat := false, err := false, frame := 0, operands := [] }

/-- A chain at its own position. -/
def State.chain (s : State) (i : Nat) : HwChain := (aget i s.hw.chains).getD HwChain.empty

/-- Replace a chain. -/
def State.setChain (s : State) (i : Nat) (x : HwChain) : State :=
  { s with hw := { s.hw with chains := if x = HwChain.empty then adel i s.hw.chains else aput i x s.hw.chains } }

/-- Frames of a run. -/
def chFrames (p : Blob) (i : Nat) : Nat := (chNcells p i + 47) / 48

/-- Cells of a frame that the run has. -/
def chCells (p : Blob) (i f : Nat) : Nat := Nat.min 48 (chNcells p i - 48 * f)

/-- The element entry of an own position. -/
def chElem (p : Blob) (i pos : Nat) : Nat := chFirst p i + pos

/-- The run ends once its last frame has been forwarded or written and every result is acknowledged: RUNS and DONE_CTR rise
(R278). -/
def State.runCheck (s : State) (i : Nat) : State :=
  let p := s.hawserPlan
  let x := s.chain i
  if x.armed && chFrames p i ≤ x.frame && x.writes.isEmpty then
    (s.setChain i { x with runs := x.runs + 1, armed := false, frame := 0, operands := [] }).raiseCtr (chDoneCtr p i)
  else s

/-- A position has forwarded its frame, or sent its result. -/
def State.frameDone (s : State) (i : Nat) : State :=
  let x := s.chain i
  (s.setChain i { x with operands := x.operands.filter (·.1 != x.frame), frame := x.frame + 1 }).runCheck i

/-- An operand or result error (R279): ERR and a U-class fault of the engine's port. -/
def State.chainError (s : State) (i pos a access : Nat) : State :=
  let n := elEngine s.hawserPlan (chElem s.hawserPlan i pos)
  (s.setChain i { s.chain i with err := true }).detect
    { plainFault 0x23 n with access := BitVec.ofNat 4 access, master := quayMaster n, addr := BitVec.ofNat 48 a }

/-- The result of a frame is acknowledged, or was refused with a CAUSE (R278, R279). -/
def State.chainWritten (s : State) (i f cause : Nat) : State :=
  let p := s.hawserPlan
  let x := s.chain i
  let s := s.setChain i { x with writes := x.writes.erase f }
  let s := if cause = 0 then s else s.chainError i (chNpos p i - 1) (chResult p i) 2
  s.runCheck i

-- Operations being served --------------------------------------------------------------------------------------------------------

/-- Find an operation being served. -/
def State.servedOp (s : State) (id : Nat) : Option Served := s.dk.serving.find? (·.id == id)

/-- The end of an operation being served. -/
def State.servedEnds (s : State) (x : Served) : State :=
  match x.fin with
  | .answer => s.finishOp x.op x.cause.toNat x.flags Blob.empty
  | .chain i f => s.chainWritten i f x.cause.toNat

/-- Update an operation being served; with nothing left to apply it is finished and leaves. -/
def State.serve (s : State) (id : Nat) (f : Served → Served) : State :=
  match s.servedOp id with
  | none => s
  | some x =>
    let y := f x
    if y.left = 0 then { s with dk := { s.dk with serving := s.dk.serving.filter (·.id != id) } }.servedEnds y
    else { s with dk := { s.dk with serving := s.dk.serving.map fun z => if z.id == id then y else z } }

/-- An operation begins to be served: `left` lines, appends or launches are to be applied before it ends. -/
def State.beginServing (s : State) (op : ArrivingOp) (left : Nat) (fin : ServedEnd) : State × Nat :=
  let id := s.dk.nextId
  let x : Served := { id := id, op := op, left := left, flags := 0, cause := 0, fin := fin }
  ({ s with dk := { s.dk with serving := s.dk.serving ++ [x], nextId := id + 1 } }, id)

/-- The lines of `[a, a + n)` that memory acknowledges: those outside scratch. -/
def State.ackLines (s : State) (a n : Nat) : List Nat :=
  if n = 0 then [] else ((List.range ((a % 64 + n + 63) / 64)).map (a / 64 + ·)).filter fun l => !s.scratchLine l

/-- A write of lines awaits their acknowledgements. -/
def State.awaitAcks (s : State) (owner : AckOwner) (lines : List Nat) : State :=
  { s with dk := { s.dk with acks := s.dk.acks ++ lines.map fun l => { line := l, owner := owner } } }

/-- One line or launch of an operation is applied: its flags and CAUSE are kept. -/
def Served.applied (x : Served) (flags : BitVec 3) (cause : Nat) : Served :=
  { x with left := x.left - 1, flags := x.flags ||| flags, cause := if x.cause = 0 then BitVec.ofNat 8 cause else x.cause }

end Sys2Proof.Machine
end

