-- ==== Sys2Proof/Machine/Numerics.lean ====
section
/-! DEFINITION. The arithmetic of the tile unit and the output path, bit for bit ("Tile arithmetic, bit for bit",
R152-R173). Values are exact: a sign, a magnitude and a power of two. -/

namespace Sys2Proof.Machine

/-- A value: NaN, an infinity, or `±m × 2^e`; a zero keeps its sign. -/
inductive Num where
  | nan
  | inf (neg : Bool)
  | fin (neg : Bool) (m : Nat) (e : Int)
deriving DecidableEq, Repr

/-- A binary format by its exponent and fraction widths (Table 1). -/
structure FloatFmt where
  eb : Nat
  fb : Nat
deriving DecidableEq, Repr

def fmtBF16 : FloatFmt := { eb := 8, fb := 7 }
def fmtB16 : FloatFmt := { eb := 5, fb := 10 }
def fmtB32 : FloatFmt := { eb := 8, fb := 23 }
def fmtA40 : FloatFmt := { eb := 10, fb := 29 }

/-- The exponent bias. -/
def FloatFmt.bias (f : FloatFmt) : Nat := 2 ^ (f.eb - 1) - 1
/-- The exponent of the smallest quantum (qmin of Table 5). -/
def FloatFmt.qmin (f : FloatFmt) : Int := 1 - (f.bias : Int) - f.fb
/-- The exponent of the overflow limit (Table 5). -/
def FloatFmt.limit (f : FloatFmt) : Int := f.bias + 1
/-- The largest finite value with a sign. -/
def FloatFmt.maxFin (f : FloatFmt) (neg : Bool) : Num := .fin neg (2 ^ (f.fb + 1) - 1) ((f.bias : Int) - f.fb)
/-- The canonical NaN (Table 9). -/
def FloatFmt.canonNan (f : FloatFmt) : Nat := (2 ^ f.eb - 1) * 2 ^ f.fb + 2 ^ (f.fb - 1)
/-- The sign bit. -/
def FloatFmt.signBit (f : FloatFmt) (neg : Bool) : Nat := if neg then 2 ^ (f.eb + f.fb) else 0

-- Encodings (R153, R158) ----------------------------------------------------------------------------------------

/-- Decode a bit pattern; a NaN's payload is ignored. -/
def FloatFmt.decode (f : FloatFmt) (w : Nat) : Num :=
  let neg := w / 2 ^ (f.eb + f.fb) % 2 == 1
  let e := w / 2 ^ f.fb % 2 ^ f.eb
  let frac := w % 2 ^ f.fb
  if e = 2 ^ f.eb - 1 then (if frac = 0 then .inf neg else .nan)
  else if e = 0 then .fin neg frac f.qmin
  else .fin neg (2 ^ f.fb + frac) (f.qmin + (e : Int) - 1)

/-- `m × 2^k` rounded down. -/
def shiftBy (m : Nat) (k : Int) : Nat := if k < 0 then m >>> k.natAbs else m <<< k.toNat

/-- Whether `m × 2^k` is a whole number. -/
def shiftExact (m : Nat) (k : Int) : Bool := 0 ≤ k || m % 2 ^ k.natAbs == 0

/-- The exponent of the leading bit of a non-zero magnitude. -/
def leadExp (m : Nat) (e : Int) : Int := (m.log2 : Int) + e

/-- Encode a value that the format holds exactly; NaN becomes the canonical NaN. -/
def FloatFmt.encode (f : FloatFmt) : Num → Nat
  | .nan => f.canonNan
  | .inf neg => f.signBit neg + (2 ^ f.eb - 1) * 2 ^ f.fb
  | .fin neg m e =>
    if m = 0 then f.signBit neg
    else
      let l := leadExp m e
      let field := l + f.bias
      if field < 1 then f.signBit neg + shiftBy m (e - f.qmin)
      else f.signBit neg + field.toNat * 2 ^ f.fb + (shiftBy m (e - (l - f.fb)) - 2 ^ f.fb)

/-- An A40 cell's value. -/
def a40 (c : Cell40) : Num := fmtA40.decode c.toNat

/-- A value as an A40 cell. -/
def toA40 (x : Num) : Cell40 := BitVec.ofNat 40 (fmtA40.encode x)

-- Comparison (R166) -------------------------------------------------------------------------------------------------

/-- The value as an integer multiple of `2^q`, for `q` no greater than its exponent. -/
def signedAt (neg : Bool) (m : Nat) (e q : Int) : Int :=
  let v : Int := (m <<< (e - q).toNat : Nat)
  if neg then -v else v

/-- Numerically less; false with a NaN. -/
def Num.lt : Num → Num → Bool
  | .nan, _ => false
  | _, .nan => false
  | .inf s, .inf t => s && !t
  | .inf s, .fin .. => s
  | .fin .., .inf t => !t
  | .fin s m e, .fin t n f =>
    let q := min e f
    decide (signedAt s m e q < signedAt t n f q)

/-- Numerically equal; false with a NaN. -/
def Num.eqv : Num → Num → Bool
  | .nan, _ => false
  | _, .nan => false
  | a, b => !a.lt b && !b.lt a

/-- The negative of a value. -/
def Num.neg : Num → Num
  | .nan => .nan
  | .inf s => .inf !s
  | .fin s m e => .fin (!s) m e

def Num.isNan : Num → Bool | .nan => true | _ => false
def Num.isInf : Num → Bool | .inf _ => true | _ => false
def Num.isZero : Num → Bool | .fin _ m _ => m == 0 | _ => false
def Num.sign : Num → Bool | .nan => false | .inf s => s | .fin s _ _ => s
def Num.zero (neg : Bool) : Num := .fin neg 0 0

-- Rounding to odd (R161) ------------------------------------------------------------------------------------------------

/-- rto of `±m × 2^e`, `m ≠ 0`, with sticky bit: the value, and whether it reached the overflow limit. -/
def FloatFmt.rto (f : FloatFmt) (neg : Bool) (m : Nat) (e : Int) (sticky : Bool) : Num × Bool :=
  let l := leadExp m e
  if f.limit ≤ l then (f.maxFin neg, true)
  else
    let q := max (l - f.fb) f.qmin
    let t := shiftBy m (e - q)
    let inexact := !shiftExact m (e - q) || sticky
    (.fin neg (if inexact && t % 2 == 0 then t + 1 else t) q, false)

/-- rto of an exact signed sum `v × 2^q`. -/
def FloatFmt.rtoInt (f : FloatFmt) (v : Int) (q : Int) (sticky : Bool) : Num × Bool :=
  f.rto (decide (v < 0)) v.natAbs q sticky

-- Sums and products (R159, R163, R165) ------------------------------------------------------------------------------------

/-- The exact product. -/
def Num.mulExact : Num → Num → Num
  | .nan, _ => .nan
  | _, .nan => .nan
  | .inf s, .inf t => .inf (s != t)
  | .inf s, .fin t n _ => if n = 0 then .nan else .inf (s != t)
  | .fin s m _, .inf t => if m = 0 then .nan else .inf (s != t)
  | .fin s m e, .fin t n f => .fin (s != t) (m * n) (e + f)

/-- add(c, G) of R163 at a width: the value and whether it saturated. -/
def FloatFmt.add (w : FloatFmt) (c g : Num) : Num × Bool :=
  match c, g with
  | .nan, _ => (.nan, false)
  | _, .nan => (.nan, false)
  | .inf s, .inf t => (if s = t then .inf s else .nan, false)
  | .inf s, _ => (.inf s, false)
  | _, .inf t => (.inf t, false)
  | .fin s m e, .fin t n f =>
    let q := min e f
    let v := signedAt s m e q + signedAt t n f q
    if v = 0 then (Num.zero (s && t && m == 0 && n == 0), false) else w.rtoInt v q false

/-- A product rounded at a width (R165). -/
def FloatFmt.mul (w : FloatFmt) (a b : Num) : Num × Bool :=
  match a.mulExact b with
  | .fin s m e => if m = 0 then (Num.zero s, false) else w.rto s m e false
  | x => (x, false)

-- Groups of eight (R160, R162) ------------------------------------------------------------------------------------------

/-- The greatest leading exponent among non-zero finite products. -/
def topExp (ps : List Num) : Int :=
  (ps.filterMap fun p => match p with
    | .fin _ m e => if m = 0 then none else some (leadExp m e)
    | _ => none).foldl max (-100000)

/-- One product's part of the 48-bit window whose lowest bit weighs `2^u`: the signed part and what was discarded. -/
def windowPart (u : Int) : Num → Int × Bool
  | .fin s m e =>
    let v : Int := (shiftBy m (e - u) : Nat)
    (if s then -v else v, !shiftExact m (e - u))
  | _ => (0, false)

/-- The group result G at a width and whether it saturated (R162). -/
def groupResult (w : FloatFmt) (ps : List Num) : Num × Bool :=
  let pos := ps.contains (.inf false)
  let neg := ps.contains (.inf true)
  if ps.any Num.isNan || (pos && neg) then (.nan, false)
  else if pos || neg then (.inf neg, false)
  else if ps.all Num.isZero then (Num.zero (ps.all Num.sign), false)
  else
    let u := topExp ps - 47
    let parts := ps.map (windowPart u)
    let sum := parts.foldl (fun a p => a + p.1) 0
    if sum = 0 then (Num.zero false, false) else w.rtoInt sum u (parts.any (·.2))

/-- The list in groups of eight. -/
def groupsOf8 {α : Type} : Nat → List α → List (List α)
  | 0, _ => []
  | n + 1, l => l.take 8 :: groupsOf8 n (l.drop 8)

/-- dot(c, a, b) of R139 and R163, with `groups` groups: the cell and whether it saturated. -/
def dotCell (w : FloatFmt) (groups : Nat) (c : Num) (a b : List Num) : Num × Bool :=
  (groupsOf8 groups (List.zipWith Num.mulExact a b)).foldl (fun r ps =>
    let g := groupResult w ps
    let x := w.add r.1 g.1
    (x.1, r.2 || g.2 || x.2)) (c, false)

/-- The width conversion of R164: the value at the new width and whether it saturated. -/
def FloatFmt.narrow (w : FloatFmt) (x : Num) : Num × Bool :=
  match x with
  | .fin s m e => if m = 0 then (Num.zero s, false) else w.rto s m e false
  | x => (x, false)

-- Code tables and input elements (R133, R154, R155, R158) -----------------------------------------------------------------

/-- Whether a code-table slot holds a table. -/
def codePresent (slot : Blob) : Bool := slot.field 0 0 1 == 1
/-- ORDER of a slot. -/
def codeOrder (slot : Blob) : Bool := slot.field 0 1 1 == 1
/-- ENTRY [c] of a slot. -/
def codeEntry (slot : Blob) (c : Nat) : Num := fmtBF16.decode (slot.field (64 + 2 * c) 0 16)
/-- The EVEN flag of a code. -/
def codeEven (slot : Blob) (c : Nat) : Bool := slot.field (32 + c / 8) (c % 8) 1 == 1

/-- The order list of a slot (R155). -/
def orderList (slot : Blob) : List Nat :=
  if codeOrder slot then (List.range 128).map (· + 128) ++ List.range 128
  else (List.range 128).map (255 - ·) ++ List.range 128

/-- Whether an fmt value of Table 3 of "Tile unit" is one byte wide. -/
def fmtIsCode (fmt : Nat) : Bool := 4 ≤ fmt

/-- The slot that an fmt value names. -/
def fmtSlot (fmt : Nat) (codes : List Blob) : Blob := (codes[fmt - 4]?).getD Blob.empty

/-- Replace a value below the flush limit by a zero of its sign, if flushing is on: the value and whether it flushed. -/
def flushBelow (on : Bool) (limit : Num) (v : Num) : Num × Bool :=
  match v with
  | .fin s m e => if on && m != 0 && (Num.fin false m e).lt limit then (Num.zero s, true) else (v, false)
  | _ => (v, false)

/-- 2^e. -/
def powNum (e : Int) : Num := .fin false 1 e

/-- Element `k` of a row in a format, with FZIN (R133, R158). -/
def decodeElement (fmt : Nat) (codes : List Blob) (fzin : Bool) (row : Nat) (k : Nat) : Num × Bool :=
  if fmt = 1 then flushBelow fzin (powNum (-14)) (fmtB16.decode (row / 2 ^ (16 * k) % 65536))
  else if fmtIsCode fmt then flushBelow fzin (powNum (-126)) (codeEntry (fmtSlot fmt codes) (row / 2 ^ (8 * k) % 256))
  else flushBelow fzin (powNum (-126)) (fmtBF16.decode (row / 2 ^ (16 * k) % 65536))

/-- The `n` elements of a row from element `first`. -/
def decodeRow (fmt : Nat) (codes : List Blob) (fzin : Bool) (row : Line) (first n : Nat) : List (Num × Bool) :=
  (List.range n).map fun k => decodeElement fmt codes fzin row.toNat (first + k)

-- The exponential (R167) ------------------------------------------------------------------------------------------------------

/-- t[i] of R167 as a multiple of 2^-29: the greatest `T` with `(2T - 1)^256 ≤ 2^(7680 + i)`, bit by bit. -/
def expTable (i : Nat) : Nat :=
  (List.range 31).foldl (fun t k =>
    let u := t + 2 ^ (30 - k)
    if (2 * u - 1) ^ 256 ≤ 2 ^ (7680 + i) then u else t) 0

/-- l2e. -/
def log2e : Num := a40 0x3FEE2A8ECA

/-- exp_a(x) of R167 and whether one of its operations overflowed (R165): its product, also where that reaches -2^512, or its
result. -/
def expA (x : Num) : Num × Bool :=
  match x with
  | .nan => (.nan, false)
  | .inf neg => (if neg then Num.zero false else .inf false, false)
  | x =>
    let p := fmtA40.mul x log2e
    match p.1 with
    | .fin s m e =>
      let y := Num.fin s m e
      if !y.lt (powNum 9) then (fmtA40.maxFin false, true)
      else if y.lt (.fin true 539 0) then (Num.zero false, p.2)
      else
        let q : Int := min e 0
        let v := signedAt s m e q
        let d : Int := (2 ^ (-q).toNat : Nat)
        let n := v / d
        let f := (v - n * d).toNat * 256
        let i := f / d.toNat
        let r := f % d.toNat
        let t0 := expTable i
        let t1 := expTable (i + 1)
        fmtA40.rto false (t0 * d.toNat + (t1 - t0) * r) (n - 29 + q) false
    | y => (y, false)

-- Output conversion (R168-R173) ------------------------------------------------------------------------------------------------

/-- An output format: binary, or a code-table slot. -/
inductive OutFmt where
  | bin (f : FloatFmt)
  | code (slot : Blob)
deriving DecidableEq, Repr

/-- An output format by the OUT_FMT of an epilogue descriptor. -/
def outFmtOf (n : Nat) (codes : List Blob) : OutFmt :=
  if n = 0 then .bin fmtBF16 else if n = 1 then .bin fmtB16 else if n = 2 then .bin fmtB32
  else .code ((codes[n - 4]?).getD Blob.empty)

/-- The finite entries of a slot in the order list. -/
def codeFinite (slot : Blob) : List (Nat × Num) :=
  ((orderList slot).map fun c => (c, codeEntry slot c)).filter fun p => !p.2.isNan && !p.2.isInf

/-- The lowest-numbered code whose entry is NaN. -/
def codeNan (slot : Blob) : Option Nat := (List.range 256).find? fun c => (codeEntry slot c).isNan

/-- The code whose entry is the infinity of a sign. -/
def codeInf (slot : Blob) (neg : Bool) : Option Nat := (List.range 256).find? fun c => codeEntry slot c == .inf neg

/-- The code for a value that a finite entry holds: a zero takes the sign asked for where the slot has both. -/
def codeOf (l : List (Nat × Num)) (x : Num) (neg : Bool) : Option (Nat × Num) :=
  match l.find? fun p => p.2.eqv x && p.2.sign == neg with
  | some p => if p.2.isZero then some p else l.find? fun q => q.2.eqv x
  | none => l.find? fun q => q.2.eqv x

/-- The exact sum `i·a + j·b` of two finite values, for the midpoint tests. -/
def linComb (i j : Int) : Num → Num → Num
  | .fin s m e, .fin t n f =>
    let q := min e f
    let v := i * signedAt s m e q + j * signedAt t n f q
    .fin (decide (v < 0)) v.natAbs q
  | _, _ => .nan

/-- Twice a finite value. -/
def twice : Num → Num
  | .fin s m e => .fin s m (e + 1)
  | x => x

/-- The overflow code of a sign in a slot (R170). -/
def codeOverflow (slot : Blob) (neg : Bool) : Nat :=
  match codeInf slot neg, codeNan slot with
  | some c, _ => c
  | none, some c => c
  | none, none =>
    let l := codeFinite slot
    match (if neg then l.head? else l.getLast?) with
    | some p => p.1
    | none => 0

/-- The largest finite code of a sign, P or N; the overflow code where the slot has no finite entry. -/
def codeLargest (slot : Blob) (neg : Bool) : Nat :=
  let l := codeFinite slot
  match (if neg then l.head? else l.getLast?) with
  | some p => p.1
  | none => codeOverflow slot neg

/-- The canonical NaN of a slot (Table 9). DESIGN CHOICE (log entry 96): where no entry is NaN and the greatest entries are a pair
of -0 and +0, it is the code of +0, the later in the order list. -/
def codeCanonNan (slot : Blob) : Nat :=
  match codeNan slot with
  | some c => c
  | none =>
    match ((orderList slot).filter fun c => !(codeEntry slot c).isNan).getLast? with
    | some c => c
    | none => 0

/-- Round a finite value into a slot (R169, R170): the code, or none for a finite overflow. DESIGN CHOICE (log entry 9): a slot whose
finite entries are all zeros, which has no P', has no finite overflow, and takes the zero with the sign of `v` where it has both. -/
def roundCode (slot : Blob) (v : Num) : Option Nat :=
  let l := codeFinite slot
  match codeOf l v v.sign with
  | some p => some p.1
  | none =>
    let below := (l.filter fun p => p.2.lt v).getLast?
    let above := l.find? fun p => v.lt p.2
    match below, above with
    | some a, some b =>
      let a := (codeOf l a.2 v.sign).getD a
      let b := (codeOf l b.2 v.sign).getD b
      let mid := linComb 1 1 a.2 b.2
      if (twice v).lt mid then some a.1
      else if mid.lt (twice v) then some b.1
      else if codeEven slot a.1 != codeEven slot b.1 then some (if codeEven slot a.1 then a.1 else b.1)
      else
        let ma := if a.2.sign then a.2.neg else a.2
        let mb := if b.2.sign then b.2.neg else b.2
        if ma.lt mb then some a.1 else if mb.lt ma then some b.1
        else some (if v.sign then a.1 else b.1)
    | some p, none =>
      match (l.filter fun q => q.2.lt p.2).getLast? with
      | some p' => if (twice v).lt (linComb 3 (-1) p.2 p'.2) then some p.1 else none
      | none => (codeOf l p.2 v.sign).map (·.1)
    | none, some n =>
      match l.find? fun q => n.2.lt q.2 with
      | some n' => if (linComb 3 (-1) n.2 n'.2).lt (twice v) then some n.1 else none
      | none => (codeOf l n.2 v.sign).map (·.1)
    | none, none => none

/-- Round a finite value to nearest even in a binary format: the pattern, or none for a finite overflow. -/
def FloatFmt.round (f : FloatFmt) (neg : Bool) (m : Nat) (e : Int) : Option Nat :=
  if m = 0 then some (f.signBit neg)
  else
    let l := leadExp m e
    let q := max (l - f.fb) f.qmin
    let k := (q - e).toNat
    let t := shiftBy m (e - q)
    let rest := if q ≤ e then 0 else m % 2 ^ k
    let half := if q ≤ e then 1 else 2 ^ k / 2
    let up := decide (half < rest) || (rest == half && t % 2 == 1)
    let t := if up then t + 1 else t
    if t ≠ 0 && f.limit ≤ leadExp t q then none else some (f.encode (.fin neg t q))

/-- The flush threshold of FZOUT (R172); none flushes nothing. -/
def OutFmt.flushLimit : OutFmt → Option Num
  | .bin f => some (if f = fmtB16 then powNum (-14) else powNum (-126))
  | .code slot =>
    match fmtBF16.decode (slot.field 4 0 16) with
    | .nan => none
    | x => some (if x.sign then x.neg else x)

/-- Round a finite value, none for a finite overflow. -/
def OutFmt.round (o : OutFmt) (v : Num) : Option Nat :=
  match o, v with
  | .bin f, .fin s m e => f.round s m e
  | .code slot, v => roundCode slot v
  | _, _ => none

/-- The overflow code of a sign. -/
def OutFmt.overflow : OutFmt → Bool → Nat
  | .bin f, neg => f.encode (.inf neg)
  | .code slot, neg => codeOverflow slot neg

/-- The largest finite of a sign. -/
def OutFmt.largest : OutFmt → Bool → Nat
  | .bin f, neg => f.encode (f.maxFin neg)
  | .code slot, neg => codeLargest slot neg

/-- The canonical NaN. -/
def OutFmt.canonNan : OutFmt → Nat
  | .bin f => f.canonNan
  | .code slot => codeCanonNan slot

/-- Conversion of an A40 value (R168) under FZOUT and OSAT: the code or pattern, and whether it flushed. -/
def convertOut (o : OutFmt) (fzout : Bool) (osat : Nat) (v : Num) : Nat × Bool :=
  match v with
  | .nan => (o.canonNan, false)
  | .inf neg => (if osat = 2 then o.largest neg else o.overflow neg, false)
  | v =>
    let (x, fl) := match o.flushLimit with
      | some lim => flushBelow fzout lim v
      | none => (v, false)
    match o.round x with
    | some c => (c, fl)
    | none => (if osat = 0 then o.overflow x.sign else o.largest x.sign, fl)

end Sys2Proof.Machine
end

