-- ==== Sys2Proof/Machine/Ops.lean ====
section
/-! DEFINITION. The operations that core steps share: which berth runs, registers, the trace buffer, the store buffer,
loads, late bus errors, and taking an exception (R122, R123) with the return from one (R124). -/

namespace Sys2Proof.Machine

-- Time and life ---------------------------------------------------------------------------------------------------

/-- Whether the root-derived domains run (R16, R306, R318). -/
def State.live (s : State) : Bool := !s.porst && !s.supHold && s.rootLocked && !s.ck.stopped

/-- Whether the FABRIC, QUAY, DOCK and LINK domains run: their gates are open (R305, R315). -/
def State.meshRuns (s : State) : Bool := s.live && bitAt s.ck.gates 16
def State.quayRuns (s : State) : Bool := s.live && bitAt s.ck.gates 17
def State.dockRuns (s : State) : Bool := s.live && bitAt s.ck.gates 18
def State.linkClock (s : State) : Bool := s.live && bitAt s.ck.gates 19

/-- Whether a core and its tile unit are clocked and enabled (R305). -/
def State.tileRuns (s : State) (c : CoreId) : Bool := s.meshRuns && s.enabled (.core c) && bitAt s.ck.gates c.val

/-- Whether the units may start new work (R321: not after an F-class fault). -/
def State.starts (s : State) : Bool := s.live && !s.bw.fStop

/-- Whether notice has ended and the block is not open again (R348). -/
def State.pastStop (s : State) : Bool :=
  match s.si.harbour with
  | .open | .notice => false
  | _ => true

-- Registers -------------------------------------------------------------------------------------------------------

/-- A general register; g0 reads as zero (R71). -/
def Berth.reg (x : Berth) (r : Reg) : Word := if r = 0 then 0 else x.g[r]

/-- Write a general register; a write to g0 is discarded (R71). -/
def Berth.setReg (x : Berth) (r : Reg) (v : Word) : Berth := if r = 0 then x else { x with g := x.g.set r v }

/-- A predicate; p0 reads as 1 (R71). -/
def Berth.pred (x : Berth) (n : PReg) : Bool := n == 0 || bitAt x.p n.val

/-- Write a predicate other than p0. -/
def Berth.setPred (x : Berth) (n : PReg) (v : Bool) : Berth := if n = 0 then x else { x with p := setBit x.p n.val v }

/-- Move to the next instruction word. -/
def Berth.next (x : Berth) : Berth := { x with pc := x.pc + 4 }

/-- Start a MODE shadow (R82): the value takes effect at the fourth instruction after the write. -/
def Berth.writeMode (x : Berth) (v : BitVec 5) : Berth := { x with modeLast := v, modePend := x.modePend ++ [(v, 3)] }

/-- Count one instruction against every MODE shadow; an instruction that starts leaves none in progress. -/
def Berth.countMode (x : Berth) : Berth :=
  let due := x.modePend.filter (·.2 == 0)
  { x with
    midway := false
    mode := match due.getLast? with | some (v, _) => v | none => x.mode
    modePend := (x.modePend.filter (·.2 != 0)).map fun q => (q.1, q.2 - 1) }

/-- Complete every pending MODE write (R82). -/
def Berth.completeModes (x : Berth) : Berth := { x with mode := x.modeLast, modePend := [] }

/-- PSTAT of a berth (Table 8 of "Gregon instruction set"). -/
def Berth.pstat (x : Berth) (c : CoreId) (b : BerthId) : Word :=
  BitVec.ofNat 64 (x.priv.toNat + 4 * b2n x.ie + 8 * b2n x.compat + 16 * b.val + 256 * c.val)

/-- TOWN of a berth (Table 5 of "Berths, the pilot and exceptions"). -/
def Berth.town (x : Berth) : Word := BitVec.ofNat 64 (b2n x.townEn + 2 * b2n x.townSaved + 4 * b2n x.townHeld)

/-- Update the running berth or any other one. -/
def State.mapBerth (s : State) (c : CoreId) (b : BerthId) (f : Berth → Berth) : State := s.setBerth c b (f (s.berth c b))

-- Which berth executes ------------------------------------------------------------------------------------------------

/-- Whether a core's domain runs and the core may execute: enabled, its gates open, not stopped by a fault, the
notice limit or a debugger. -/
def State.coreRuns (s : State) (c : CoreId) : Bool :=
  let k := s.core c
  s.tileRuns c && !s.bw.fStop && !k.halted && !k.stuck

/-- Whether a late bus error of a berth is pending. -/
def Berth.lbePending (y : Berth) : Bool := match y.lbe with | some l => !l.taken | none => false

/-- The berth of a core that can execute an instruction now: RUNNING, not halted under R123, not still to take the event
that ends its WAIT, no customer request of its own in flight, and no late bus error, pocket fault or epilogue exception
to take first. -/
def State.runner (s : State) (c : CoreId) : Option BerthId :=
  if s.coreRuns c then
    match (s.core c).running with
    | some b =>
      let x := s.berth c b
      if x.halted || x.waiting || x.customer.isSome || x.lbePending || x.pocketFault.isSome || !x.epiFaults.isEmpty then none
      else some b
    | none => none
  else none

-- The reorder buffer (R92, R95) -------------------------------------------------------------------------------------------

/-- Whether an instruction of a core must wait for an older one (R95): one that waits itself, or a customer instruction whose
response has not come. -/
def State.mustWait (s : State) (c : CoreId) : Bool :=
  s.coreRuns c &&
    match (s.core c).running with
    | some b => (s.core c).stalled.isSome || (s.berth c b).customer.isSome
    | none => false

/-- An instruction waits in the reorder buffer, behind those that wait already; with all 448 entries in use decode stops (R95). -/
def Core.stall (k : Core) (i : Instr) : Core :=
  if k.stalled.isNone then { k with stalled := some i }
  else if k.rob.length < 447 then { k with rob := k.rob ++ [i] }
  else k

/-- Hold an instruction of a core. -/
def State.stall (s : State) (c : CoreId) (i : Instr) : State := s.setCore c ((s.core c).stall i)

/-- Every unretired instruction is abandoned (R104, R109). -/
def Core.flush (k : Core) : Core := { k with stalled := none, rob := [] }

/-- The unretired instructions of a berth that runs are abandoned, or killed by a taken branch (R93). -/
def State.abandon (s : State) (c : CoreId) (b : BerthId) : State :=
  let k := s.core c
  if k.running = some b ∧ (k.stalled.isSome || !k.rob.isEmpty) then s.setCore c k.flush else s

/-- Once the oldest instruction has retired, the next one takes its place. -/
def Core.promote (k : Core) : Core :=
  match k.stalled, k.rob with
  | none, i :: rest => { k with stalled := some i, rob := rest }
  | _, _ => k

/-- The oldest instruction of the reorder buffer tries again: it retires, or waits on. -/
def State.attempt (s : State) (c : CoreId) (run : Instr → State → State) : State :=
  match (s.core c).stalled with
  | some i =>
    let t := run i (s.setCore c { s.core c with stalled := none })
    t.setCore c (t.core c).promote
  | none => s

-- The trace buffer (R20, R48) --------------------------------------------------------------------------------------------

/-- The word of a trace record (Table 21 of "Block boundary and ports"). -/
def traceWord (kind core berth data : Nat) : Word :=
  BitVec.ofNat 64 (kind * 2 ^ 60 + core * 2 ^ 56 + berth * 2 ^ 53 + data % 2 ^ 48)

/-- Put a record into the trace buffer, after the overflow marker and the timestamp that are due; a record that finds
no room is counted as lost. -/
def State.tracePut (s : State) (w : Word) : State :=
  let d := s.dbg
  let marker := if d.lost = 0 then [] else [traceWord 0xF 0 0 d.lost.toNat]
  let due := 4096 ≤ s.time.toNat - d.lastStamp.toNat
  let stamp := if due then [traceWord 0x5 0 0 s.time.toNat] else []
  let all := marker ++ stamp ++ [w]
  if d.trace.length + all.length ≤ 256 then
    { s with dbg := { d with trace := d.trace ++ all, lost := 0, lastStamp := if due then s.time else d.lastStamp } }
  else { s with dbg := { d with lost := satInc d.lost } }

/-- Write a trace record of a core that has TRACE_EN set. -/
def State.traceCore (s : State) (c : CoreId) (kind berth data : Nat) : State :=
  if (s.core c).traceEn then s.tracePut (traceWord kind c.val berth data) else s

-- Late bus errors (R126) --------------------------------------------------------------------------------------------------

/-- Count one more failing store into MORE; once the entry has been taken and ESTAT still holds it, MORE of ESTAT rises
too (log entry 13). -/
def Berth.moreErrors (x : Berth) (l : Lbe) : Berth :=
  let m := satInc l.more
  let here := l.taken && x.estat.toNat % 512 == 5 && l.depth == 0
  { x with
    lbe := some { l with more := m }
    estat := if here then (x.estat &&& ~~~0x70000#64) ||| (m.setWidth 64 <<< 16) else x.estat }

/-- An access of a berth failed: the late bus error becomes pending, or the access counts into MORE of the one that is
pending or handled and is recorded as source 0x12, a write with ACCESS 2 or a tile read with ACCESS 1 (R126, R148). -/
def State.lateBusError (s : State) (c : CoreId) (b : BerthId) (a : BitVec 48) (access : BitVec 4) : State :=
  let x := s.berth c b
  match x.lbe with
  | none => s.setBerth c b { x with lbe := some { addr := a, more := 0, taken := false, depth := 0 } }
  | some l =>
    (s.setBerth c b (x.moreErrors l)).detect
      { plainFault 0x12 c.val with access := access, master := coreMaster c b, addr := a }

-- The store buffer (R95, R202) ----------------------------------------------------------------------------------------------

/-- The byte that the youngest buffered store of the core gives an address, if any. -/
def sbByte (l : List StoreEntry) (a : Nat) : Option Byte :=
  l.foldl (fun r e =>
    if e.addr.toNat ≤ a ∧ a < e.addr.toNat + sizeBytes e.size then
      some (BitVec.ofNat 8 (e.data.toNat >>> (8 * (a - e.addr.toNat))))
    else r) none

/-- One store reaches the L2, a window or a refusal (R202, R204, R255, R49). The core's own L1D copy is updated. -/
def State.performStore (s : State) (c : CoreId) (e : StoreEntry) : State × SentStore :=
  let a := e.addr.toNat
  let done (err port : Bool) : SentStore := { kind := .core, berth := e.berth, addr := e.addr, err := err, port := port }
  if s.inWindow a then
    if e.size = .b8 then
      match s.windowStore a e.data (coreMaster c e.berth) with
      | some s' => (s', done false false)
      | none => (s, done true false)
    else (s, done true false)
  else if s.mapped a then
    let line := a / 64
    let mask : BitVec 64 := BitVec.ofNat 64 ((2 ^ sizeBytes e.size - 1) <<< (a % 64))
    let data : Line := BitVec.ofNat 512 (e.data.toNat <<< (8 * (a % 64)))
    let port := s.ck.supEpisode && !s.scratchLine line
    let s := s.sliceWrite line data mask (some c)
    let k := s.core c
    let s := if bitAt s.l2.den c.val then s.setCore c { k with l1d := k.l1d.update line data mask } else s
    (s, done false port)
  else (s, done true false)

/-- Whether a slice holds the line of a store in the store buffer (R208): what needs the buffer empty then waits. -/
def State.sbHeld (s : State) (c : CoreId) : Bool := (s.core c).sb.any fun e => s.lineHeld (e.addr.toNat / 64)

/-- The oldest store leaves the store buffer, unless its slice holds its line (R208). -/
def State.drainOne (s : State) (c : CoreId) : State :=
  match (s.core c).sb with
  | [] => s
  | e :: rest =>
    if s.lineHeld (e.addr.toNat / 64) then s
    else
      let s := s.setCore c { s.core c with sb := rest }
      let (s, d) := s.performStore c e
      s.setCore c { s.core c with sent := (s.core c).sent ++ [d] }

/-- Every buffered store of the core leaves, in order. -/
def State.drainAll (s : State) (c : CoreId) : State := (List.range (s.core c).sb.length).foldl (fun s _ => s.drainOne c) s

/-- A save of a berth's pocket has a line acknowledged: a failed one leaves SAVED clear and is recorded as source 0x10, once for
a save, and in a closing as POCKET_ERR (R350); the last one ends the save (R119, R121). -/
def State.ackPocket (s : State) (c : CoreId) (d : SentStore) (bad : Bool) : State :=
  let lost := (s.berth c d.berth).pocketLost
  let more := (s.core c).sent.any fun q => q.kind == .pocket && q.berth == d.berth
  let t := s.mapBerth c d.berth fun y =>
    { y with pocketLost := lost || bad, townSaved := if more then y.townSaved else !(lost || bad) }
  let t := if bad && t.si.harbour == .swept then { t with si := { t.si with incomplete := setBit t.si.incomplete 6 true } } else t
  if bad && !lost then t.detect { plainFault 0x10 c.val with access := 2, master := coreMaster c d.berth, addr := d.addr } else t

/-- A write outside the store buffer is acknowledged; `err` is the memory port's error. -/
def State.ackEntry (s : State) (c : CoreId) (d : SentStore) (err : Bool) : State :=
  let bad := d.err || (d.port && err)
  match d.kind with
  | .pocket => s.ackPocket c d bad
  | _ => if bad then s.lateBusError c d.berth d.addr 2 else s

/-- The oldest write outside the buffer is acknowledged. -/
def State.ackOne (s : State) (c : CoreId) (err : Bool) : State :=
  match (s.core c).sent with
  | [] => s
  | d :: rest => (s.setCore c { s.core c with sent := rest }).ackEntry c d err

/-- Every write outside the buffer that waits for no memory port is acknowledged. -/
def State.ackAll (s : State) (c : CoreId) : State :=
  let sent := (s.core c).sent
  (sent.filter fun d => !d.port).foldl (fun s d => s.ackEntry c d false)
    (s.setCore c { s.core c with sent := sent.filter (·.port) })

/-- Every earlier store of the core completes (R78). -/
def State.completeStores (s : State) (c : CoreId) : State := (s.drainAll c).ackAll c

/-- A stream moves with the lines that the core touches (R221). -/
def touchStreams (l : List PfStream) (line : Nat) : List PfStream :=
  l.map fun x => if x.high ≤ line ∧ line ≤ x.next + 8 then { x with high := Nat.max x.high line } else x

/-- A store enters the store buffer, and the streams of the core move with its line (R221); with the buffer full the oldest
leaves first (R95). -/
def State.coreStore (s : State) (c : CoreId) (b : BerthId) (a : Nat) (v : Word) (size : Size) : State :=
  let s := if 16 ≤ (s.core c).sb.length then s.drainOne c else s
  let e : StoreEntry := { berth := b, addr := BitVec.ofNat 48 a, data := v, size := size }
  let k := s.core c
  s.setCore c { k with sb := k.sb ++ [e], streams := touchStreams k.streams (a / 64) }

/-- Whether a store waits at issue: the store buffer is full and its oldest store is held (R95, R208). -/
def State.storeWaits (s : State) (c : CoreId) : Bool :=
  16 ≤ (s.core c).sb.length && (match (s.core c).sb with | e :: _ => s.lineHeld (e.addr.toNat / 64) | [] => false)

-- Loads --------------------------------------------------------------------------------------------------------------------

/-- What a load or fetch returns. -/
inductive Loaded where
  | ok (v : Word)
  | busError
  | poisoned
deriving DecidableEq, Repr

/-- The line that a load of a core meets: its L1D copy, or the slice's line after a miss, which starts the fill
(R202, R205, R214). -/
def State.loadLine (s : State) (c : CoreId) (line : Nat) : State × Line × BitVec 8 :=
  let k := s.core c
  let den := bitAt s.l2.den c.val
  let s := s.setCore c { k with streams := touchStreams k.streams line }
  match (if den then k.l1d.find line else none) with
  | some l => (s, l.data, 0)
  | none =>
    let s := if s.scratchLine line then s else s.l2Fill line
    let k := s.core c
    let s := if den && !k.fills.contains line then s.setCore c { k with fills := k.fills ++ [line] } else s
    let (d, p) := s.sliceRead line
    (s, d, p)

/-- An aligned load of `size` at an address below 2^48. The core's buffered stores are seen; a window access takes them
first. -/
def State.coreLoad (s : State) (c : CoreId) (a : Nat) (size : Size) : State × Loaded :=
  if s.inWindow a then
    let s := s.drainAll c
    if size = .b8 then
      match s.windowLoad a with
      | some v => (s, .ok v)
      | none => (s, .busError)
    else (s, .busError)
  else if s.mapped a then
    let (s, d, p) := s.loadLine c (a / 64)
    let sb := (s.core c).sb
    let n := sizeBytes size
    let bytes := (List.range n).map fun i => sbByte sb (a + i)
    let own := bytes.all (·.isSome)
    if !own && bitAt p (a / 8 % 8) then (s, .poisoned)
    else
      let v := bytes.zipIdx.foldl (fun acc q =>
        let m := BitVec.ofNat 8 (d.toNat >>> (8 * (a % 64 + q.2)))
        acc + ((q.1.getD m).toNat <<< (8 * q.2))) 0
      (s, .ok (BitVec.ofNat 64 v))
  else (s, .busError)

/-- Load `n` consecutive 8-byte words; none where one fails, or lies in a window (R123, R127, R179). -/
def State.loadWords (s : State) (c : CoreId) (a : Nat) : Nat → State × Option (List Word)
  | 0 => (s, some [])
  | n + 1 =>
    if s.inWindow a then (s, none)
    else match s.coreLoad c a .b8 with
      | (s, .ok v) =>
        match s.loadWords c (a + 8) n with
        | (s, some l) => (s, some (v :: l))
        | (s, none) => (s, none)
      | (s, _) => (s, none)

-- Taking an exception (R122, R123) and returning (R124) ------------------------------------------------------------------------

/-- A gangway descriptor's fields (Table 10 of "Berths, the pilot and exceptions"). -/
structure Gangway where
  handler : Word
  priv    : BitVec 2
  keepIe  : Bool
  trapMin : BitVec 2
deriving DecidableEq, Repr

/-- Decode a descriptor: none where VALID is 0, an encoding is reserved or a reserved field is not zero (R123). -/
def decodeGangway (v : Nat) (w : List Word) : Option Gangway :=
  match w with
  | [w0, w1, w2, w3] =>
    let b8 := w1.toNat % 256
    let b9 := w1.toNat / 256 % 256
    let priv : BitVec 2 := BitVec.ofNat 2 (b8 / 2)
    let tmin : BitVec 2 := BitVec.ofNat 2 b9
    if w0.toNat % 4 = 0 ∧ w0.toNat < 2 ^ 48 ∧ b8 % 2 = 1 ∧ priv ≠ 2 ∧ b8 / 16 = 0 ∧ b9 / 4 = 0 ∧
        (if 256 ≤ v then tmin ≠ 2 else tmin = 0) ∧ w1.toNat / 65536 = 0 ∧ w2 = 0 ∧ w3 = 0 then
      some { handler := w0, priv := priv, keepIe := b8 / 8 % 2 == 1, trapMin := tmin }
    else none
  | _ => none

/-- Read descriptor `v` of a berth's gangway table. -/
def State.readGangway (s : State) (c : CoreId) (b : BerthId) (v : Nat) : State × Option Gangway :=
  let a := (s.berth c b).gtb.toNat + 32 * v
  if a + 32 ≤ 2 ^ 48 then
    match s.loadWords c a 4 with
    | (s, some w) => (s, decodeGangway v w)
    | (s, none) => (s, none)
  else (s, none)

/-- Steps 2 to 7 of R122 through a good descriptor: ERA, ESTAT, PRIV, IE, for an event the run priority, and the
handler's address. Every pending MODE write completes (R82), and a berth that was WAITING runs the handler. -/
def Berth.enter (x : Berth) (v : Nat) (d : Gangway) (era : Word) (info : Nat) (prio : Option (BitVec 4)) : Berth :=
  let x := x.completeModes
  { x with
    waiting := false
    midway := false
    era := era.setWidth 48
    estat := BitVec.ofNat 64 (v + 512 * b2n x.ie + 1024 * x.priv.toNat + 4096 * x.prio.toNat + 65536 * (info % 2 ^ 48))
    priv := if x.priv.toNat < d.priv.toNat then d.priv else x.priv
    ie := if d.keepIe then x.ie else false
    prio := prio.getD x.prio
    pc := d.handler
    lbe := x.lbe.map fun l => if l.taken then { l with depth := l.depth + 1 } else l }

/-- The gangway fault (R123): entry through descriptor 9 with the failed index, or the berth halts and source 0x11 is
recorded. -/
def State.gangwayFault (s : State) (c : CoreId) (b : BerthId) (failed : Nat) (era : Word) : State :=
  match s.readGangway c b 9 with
  | (s, some d) => (s.mapBerth c b fun x => x.enter 9 d era failed none).traceCore c 0x2 b.val 9
  | (s, none) =>
    let s := s.mapBerth c b fun x => { x with halted := true }
    let k := s.core c
    let s := s.setCore c { k with running := if k.running = some b then none else k.running }
    s.detect { plainFault 0x11 c.val with access := 1, master := coreMaster c b,
                                          addr := BitVec.ofNat 48 ((s.berth c b).gtb.toNat + 288) }

/-- Take gangway entry `v` in a berth (R122): an exception, or an event when `prio` is given. -/
def State.enterGangway (s : State) (c : CoreId) (b : BerthId) (v : Nat) (era : Word) (info : Nat)
    (prio : Option (BitVec 4)) : State :=
  match (s.abandon c b).readGangway c b v with
  | (s, some d) => (s.mapBerth c b fun x => x.enter v d era info prio).traceCore c 0x2 b.val v
  | (s, none) => s.gangwayFault c b v era

/-- Raise a precise exception at the current instruction (Table 11 of "Berths, the pilot and exceptions"). -/
def State.raise (s : State) (c : CoreId) (b : BerthId) (v info : Nat) : State :=
  s.enterGangway c b v (s.berth c b).pc info none

/-- ERET in a berth that may use it (R124). -/
def Berth.eret (x : Berth) : Berth :=
  { x with
    pc := x.era.setWidth 64
    priv := BitVec.ofNat 2 (x.estat.toNat / 1024)
    ie := bitAt x.estat 9
    prio := BitVec.ofNat 4 (x.estat.toNat / 4096)
    lbe := match x.lbe with
      | some l => if l.taken then (if l.depth = 0 then none else some { l with depth := l.depth - 1 }) else some l
      | none => none }

/-- Take the pending late bus error of a berth (R126): vector 5, INFO with the address and MORE. -/
def State.takeLateBusError (s : State) (c : CoreId) (b : BerthId) : State :=
  let x := s.berth c b
  match x.lbe with
  | some l =>
    if l.taken then s
    else
      let info := l.more.toNat + (l.addr.toNat / 8) * 8
      let s := s.enterGangway c b 5 x.pc info none
      s.mapBerth c b fun x => { x with lbe := some { l with taken := true } }
  | none => s

/-- Take a pocket fault or an epilogue exception that waits for the berth (R121, R180). -/
def State.takeImprecise (s : State) (c : CoreId) (b : BerthId) : State :=
  let x := s.berth c b
  match x.pocketFault with
  | some a => (s.setBerth c b { x with pocketFault := none }).enterGangway c b 12 x.pc a.toNat none
  | none =>
    match x.epiFaults with
    | code :: rest => (s.setBerth c b { x with epiFaults := rest, ereason := code }).enterGangway c b 10 x.pc 0 none
    | [] => s

/-- The RUNNING berth takes a pocket fault or an epilogue exception that waits for it, after a late bus error (R125). -/
def State.settle (s : State) (c : CoreId) : State :=
  match (s.core c).running with
  | some b =>
    let x := s.berth c b
    if s.coreRuns c && !x.halted && x.customer.isNone && !x.lbePending then s.takeImprecise c b else s
  | none => s

-- One instruction ------------------------------------------------------------------------------------------------------------

/-- The frame of every instruction (R69, R70, R72, R80, R82, R95): behind an instruction that waits it waits too; the berth that
runs executes it; it counts against the MODE shadow by `count`; an illegal form raises vector 1 whatever the predicate;
predicated off it only moves on; without the privilege it needs it raises vector 2; otherwise `body` gives its effect, or nothing
where the instruction must wait, and then it stays in the reorder buffer and `asks` gives what it requests. -/
def State.instructionBy (s : State) (i : Instr) (x : Issue) (legal : Bool) (least : Nat) (count : Berth → Berth)
    (asks : State → CoreId → BerthId → State) (body : State → CoreId → BerthId → Option State) : State :=
  if s.mustWait x.core then s.stall x.core i
  else match s.runner x.core with
    | none => s
    | some b =>
      let t := s.mapBerth x.core b count
      let y := t.berth x.core b
      if !legal || (x.sense && x.pred == 0) then t.raise x.core b 1 0
      else if y.pred x.pred == x.sense then t.mapBerth x.core b Berth.next
      else if y.priv.toNat < least then t.raise x.core b 2 0
      else match body t x.core b with
        | some u => u
        | none => (asks s x.core b).stall x.core i

/-- The frame of an instruction that counts as one and requests nothing while it waits. -/
def State.instruction (s : State) (i : Instr) (x : Issue) (legal : Bool) (least : Nat)
    (body : State → CoreId → BerthId → Option State) : State :=
  s.instructionBy i x legal least Berth.countMode (fun s _ _ => s) body

/-- An instruction that only changes registers of its berth and moves on. -/
def State.regInstruction (s : State) (i : Instr) (x : Issue) (legal : Bool) (f : Berth → Berth) : State :=
  s.instruction i x legal 0 fun s c b => some (s.mapBerth c b fun y => (f y).next)

end Sys2Proof.Machine
end

