-- ==== Sys2Proof/Machine/Quay.lean ====
section
/-! DEFINITION. The quay engines (R223-R249): exact accumulation, rings, quay programs and scrub. -/

namespace Sys2Proof.Machine

-- Regions ------------------------------------------------------------------------------------------------------------------

/-- QY_XFLAG of a region at an engine. -/
def State.xflag (s : State) (engine region : Nat) : BitVec 3 := (aget (4096 * engine + region) s.qy.flags).getD 0

/-- Set flags of a region at an engine. -/
def State.raiseXflag (s : State) (engine region : Nat) (f : BitVec 3) : State :=
  if f = 0 then s
  else { s with qy := { s.qy with flags := aput (4096 * engine + region) (s.xflag engine region ||| f) s.qy.flags } }

-- Exact accumulation (R226-R230) -----------------------------------------------------------------------------------------------

/-- The bounds of an accumulator. -/
def accMax : Int := 2 ^ 63 - 1
def accMin : Int := -(2 ^ 63)

/-- Clamp to an accumulator, and whether that changed the value. -/
def clampAcc (v : Int) : Int × Bool :=
  if accMax < v then (accMax, true) else if v < accMin then (accMin, true) else (v, false)

/-- Whether `m × 2^e` is so large that no accumulator holds it, whatever its rounding. -/
def hugeInt (m : Nat) (e : Int) : Bool := m != 0 && 64 < leadExp m e

/-- Round `±m × 2^e` to an integer, to nearest, ties to even (R227). -/
def rneInt (neg : Bool) (m : Nat) (e : Int) : Int :=
  let t := shiftBy m e
  let k := e.natAbs
  let rest := if 0 ≤ e then 0 else m % 2 ^ k
  let half := if 0 ≤ e then 1 else 2 ^ k / 2
  let t := if half < rest ∨ (rest = half ∧ t % 2 = 1) then t + 1 else t
  if neg then -(t : Int) else t

/-- An update of nothing. -/
def Pend64.none_ : Pend64 := { bound := none, sum := 0 }

/-- One element for an accumulator (R227): what is added, and the INV and SAT it sets. -/
def elementOf (xfmt : Nat) (xscale : Int) (raw : Nat) : Pend64 × Bool × Bool :=
  if xfmt = 4 then ({ bound := none, sum := (BitVec.ofNat 64 raw).toInt }, false, false)
  else
    let f := if xfmt = 0 then fmtBF16 else if xfmt = 1 then fmtB16 else if xfmt = 2 then fmtB32 else fmtA40
    match f.decode raw with
    | .nan => (Pend64.none_, true, false)
    | .inf neg => ({ bound := some (if neg then accMin else accMax), sum := 0 }, false, true)
    | .fin s m e =>
      let k := clampAcc (if hugeInt m (e + xscale) then (if s then accMin - 1 else accMax + 1) else rneInt s m (e + xscale))
      ({ bound := none, sum := k.1 }, false, k.2)

/-- Add an update after those pending: a bound discards what came before it. -/
def Pend64.then_ (a b : Pend64) : Pend64 :=
  match b.bound with
  | some _ => b
  | none => { a with sum := a.sum + b.sum }

/-- Apply pending updates to an accumulator, and whether the sum was clamped. -/
def Pend64.apply (a : Pend64) (old : Int) : Int × Bool := clampAcc (a.bound.getD old + a.sum)

/-- The 8 accumulators of a line. -/
def accsOf (l : Line) : List Int := (List.range 8).map fun i => (BitVec.ofNat 64 (l.toNat >>> (64 * i))).toInt

/-- A line of 8 accumulators. -/
def accLine (l : List Int) : Line :=
  BitVec.ofNat 512 (l.foldr (fun v acc => (BitVec.ofInt 64 v).toNat + acc * 2 ^ 64) 0)

/-- The updates of a write of `data` at `a` into an EXACT_ACC region, one for each accumulator line (R226). -/
def lineUpdates (region op xfmt : Nat) (xscale : Int) (a : Nat) (data : Blob) : List LineUpdate :=
  let z := xfmtSize xfmt
  let n := data.len / z
  let first := a / 64
  let lines := if n = 0 then 0 else (a % 64 + 8 * n + 63) / 64
  (List.range lines).map fun j =>
    let lanes := (List.range 8).map fun i =>
      let pos := 64 * (first + j) + 8 * i
      if a ≤ pos ∧ pos < a + 8 * n then elementOf xfmt xscale (data.field (z * ((pos - a) / 8)) 0 (8 * z))
      else (Pend64.none_, false, false)
    { line := first + j, region := region, op := op, elems := lanes.map (·.1), inv := lanes.any (·.2.1),
      sat := lanes.any (·.2.2) }

/-- The flag bits: SAT, INV, LOST of a region word. -/
def flagBits (sat inv lost : Bool) : BitVec 3 := BitVec.ofNat 3 (b2n sat + 2 * b2n inv + 4 * b2n lost)

/-- The oldest update that waits at an engine is in a merge entry now: its flags are set, and its write carries them. -/
def State.updateTaken (s : State) (n : SliceId) (u : LineUpdate) (rest : List LineUpdate) (merge : List MergeEntry) : State :=
  let fl := flagBits u.sat u.inv false
  let s := s.setEngine n { s.engine n with updates := rest, merge := merge }
  (s.raiseXflag n.val u.region fl).serve u.op fun x => { x with flags := x.flags ||| fl }

/-- ACCUMULATOR_UPDATE (R228): the oldest update waiting at the engine joins the merge entry of its line or opens one; with
all 64 in use it waits, as it does during the engine's known-answer test (R247). -/
def execAccumulatorUpdate (engine : SliceId) (s : State) : Host.Outcome State Fault Refusal :=
  let e := s.engine engine
  match e.updates with
  | u :: rest =>
    if !s.quayRuns || e.test then .next s
    else
      match e.merge.findIdx? (·.line == u.line) with
      | some i =>
        match e.merge[i]? with
        | some m =>
          let m := { m with ops := m.ops ++ [u.op], sums := List.zipWith Pend64.then_ m.sums u.elems }
          .next (s.updateTaken engine u rest (setAt e.merge i m))
        | none => .next s
      | none =>
        if 64 ≤ e.merge.length then .next s
        else
          let m : MergeEntry := { line := u.line, region := u.region, ops := [u.op], sums := u.elems, out := false, sent := [] }
          .next (s.updateTaken engine u rest (e.merge ++ [m]))
  | [] => .next s

/-- No pending sums. -/
def noSums : List Pend64 := List.replicate 8 Pend64.none_

/-- MERGE_WRITE (R228): a merge entry without a write outstanding reads its line and writes the clamped sums; its writes carry SAT
where a sum was clamped. The entry closes when the write is acknowledged and nothing has come since, a line of scratch at once.
A poisoned line is not written, and the writes end with CAUSE 0x0A (log entry 44). -/
def execMergeWrite (engine : SliceId) (index : Fin 64) (s : State) : Host.Outcome State Fault Refusal :=
  let e := s.engine engine
  match e.merge[index.val]? with
  | some m =>
    if !s.quayRuns || e.test || m.out || s.lineHeld m.line then .next s
    else
      let (d, p) := s.engineRead m.line
      let drop := s.setEngine engine { e with merge := dropAt e.merge index.val }
      if p ≠ 0 then .next (m.ops.foldl (fun s o => s.serve o fun x => x.applied 0 0x0A) drop)
      else
        let out := List.zipWith Pend64.apply m.sums (accsOf d)
        let fl := flagBits (out.any (·.2)) false false
        let put (s : State) : State :=
          (s.engineWrite m.line (accLine (out.map (·.1))) (BitVec.allOnes 64)).raiseXflag engine.val m.region fl
        if s.scratchLine m.line then .next (m.ops.foldl (fun s o => s.serve o fun x => x.applied fl 0) (put drop))
        else
          let m' := { m with ops := [], sums := noSums, out := true, sent := m.ops }
          let s := put (s.setEngine engine { e with merge := setAt e.merge index.val m' })
          let s := m.ops.foldl (fun s o => s.serve o fun x => { x with flags := x.flags ||| fl }) s
          .next (s.awaitAcks .merge [m.line])
  | none => .next s

/-- The acknowledgement of a merge entry's write (R228): the writes that it carried have one line fewer to wait for, and the entry
closes unless updates have come since. -/
def State.mergeAcked (s : State) (line cause : Nat) : State :=
  let n : SliceId := Fin.ofNat 16 (sliceOf line)
  let e := s.engine n
  match e.merge.findIdx? fun m => m.line == line && m.out with
  | some i =>
    match e.merge[i]? with
    | some m =>
      let left := if m.ops.isEmpty then dropAt e.merge i else setAt e.merge i { m with out := false, sent := [] }
      m.sent.foldl (fun s o => s.serve o fun x => x.applied 0 cause) (s.setEngine n { e with merge := left })
    | none => s
  | none => s

-- Rings (R231-R233) ------------------------------------------------------------------------------------------------------------------

/-- A region entry as bytes. -/
def RingOwner.ent (o : RingOwner) : Blob := { len := 32, bits := o.entry.toNat }

/-- The slots of a RING region, with the control slot. -/
def ringN (e : Blob) : Nat := regLen e 0 / 2 ^ regSlotLog2 e 0

/-- The owner's view of a ring: on the first append after its entry became active, the control slot's. -/
def State.ringOwner (s : State) (key : Nat) (op : ArrivingOp) : RingOwner :=
  match aget key s.qy.rings with
  | some o => o
  | none =>
    let base := regBase op.ent 0
    let w (i : Nat) : Word := BitVec.ofNat 64 ((s.engineWord (base + 8 * i)).getD 0)
    { region := op.region, entry := op.entry, open_ := [], v := w 0, take := w 1, full := w 2, put := w 0, overrun := false }

/-- Replace the owner's view. -/
def State.setRing (s : State) (r : Nat) (o : RingOwner) : State := { s with qy := { s.qy with rings := aput r o s.qy.rings } }

/-- Whether a ring with `n` slots has room at a TAKE. -/
def RingOwner.room (o : RingOwner) (n : Nat) (take : Word) : Bool :=
  1 < n && (o.v - take).toNat ≤ n - 1 && (o.v + 1 - take).toNat ≤ n - 1

/-- The owner's view with which an append is tested: TAKE is read once more where the held one leaves no room (R231). -/
def State.ringView (s : State) (key : Nat) (op : ArrivingOp) : RingOwner :=
  let o := s.ringOwner key op
  if o.room (ringN o.ent) o.take then o
  else { o with take := BitVec.ofNat 64 ((s.engineWord (regBase o.ent 0 + 8)).getD o.take.toNat) }

/-- The address of the slot that an owner reserves next. -/
def RingOwner.slotAddr (o : RingOwner) : Nat :=
  regBase o.ent 0 + (1 + o.v.toNat % (ringN o.ent - 1)) * 2 ^ regSlotLog2 o.ent 0

/-- An append of an operation at the owner of its ring (R231, R232): a slot is reserved and written, and the operation waits for its
lines; or ring full is answered, where an over-committed ring records source 0x27 once (R233). -/
def State.ringAppend (s : State) (key id : Nat) (op : ArrivingOp) : State :=
  let o := s.ringView key op
  let n := ringN o.ent
  let base := regBase o.ent 0
  if o.room n o.take then
    let s := s.setRing key { o with v := o.v + 1, open_ := o.open_ ++ [(o.v, id)] }
    let s := if op.data.len = 0 then s else s.engineStore o.slotAddr op.data
    let lines := s.ackLines o.slotAddr op.data.len
    if lines.isEmpty then s.serve id fun x => x.applied 0 0
    else (s.awaitAcks (.served id) lines).serve id fun x => { x with left := lines.length }
  else
    let over_ := n - 1 < (o.v - o.take).toNat
    let s := s.setRing key { o with full := o.full + 1, overrun := o.overrun || over_ }
    let s := if over_ && !o.overrun then
        s.detect { plainFault 0x27 (sliceOf (base / 64)) with access := 2, master := quayMaster (sliceOf (base / 64)),
                                                              addr := BitVec.ofNat 48 base }
      else s
    s.serve id fun x => x.applied 0 9

/-- RING_APPEND (R231): the oldest append that waits at its owner, but for the owner's known-answer test (R247) and a held line
(R208). -/
def execRingAppend (s : State) : Host.Outcome State Fault Refusal :=
  match s.dk.appends with
  | (id, key) :: rest =>
    match s.servedOp id with
    | some x =>
      let o := s.ringOwner key x.op
      if !s.quayRuns || (s.engine (Fin.ofNat 16 (sliceOf (regBase o.ent 0 / 64)))).test ||
          s.rangeHeld o.slotAddr x.op.data.len then .next s
      else .next (State.ringAppend { s with dk := { s.dk with appends := rest } } key id x.op)
    | none => .next { s with dk := { s.dk with appends := rest } }
  | [] => .next s

/-- The reservations of a ring whose append is not acknowledged yet. -/
def State.openAppends (s : State) (o : RingOwner) : List (Word × Nat) := o.open_.filter fun a => (s.servedOp a.2).isSome

/-- The owner writes PUT over the leading appends that have all been acknowledged, with FULL_COUNT and the reserved bytes
(R232). A ring whose region entry was replaced is forgotten once nothing of it is open (R62). -/
def State.publishRing (s : State) (key : Nat) : State :=
  match aget key s.qy.rings with
  | some o =>
    let live := s.openAppends o
    let put := match live with | a :: _ => a.1 | [] => o.v
    let d : Line := BitVec.ofNat 512 (put.toNat + o.full.toNat * 2 ^ 128)
    let s := s.engineWrite (regBase o.ent 0 / 64) d 0xFFFFFFFFFFFF00FF
    if 4096 ≤ key ∧ live.isEmpty ∧ !s.dk.appends.any (·.2 == key) then { s with qy := { s.qy with rings := adel key s.qy.rings } }
    else s.setRing key { o with put := put, open_ := live }
  | none => s

/-- RING_PUT_PUBLISH (R232): the rings of a region, those whose entry has been replaced among them. -/
def execRingPutPublish (region : Fin 4096) (s : State) : Host.Outcome State Fault Refusal :=
  let due := s.qy.rings.filter fun r => r.2.region == region.val && !s.lineHeld (regBase r.2.ent 0 / 64)
  .next (if s.quayRuns then (due.map (·.1)).foldl State.publishRing s else s)

-- Launch records (R239, R240, Table 8) --------------------------------------------------------------------------------------------------

/-- Fields of a launch record. -/
def lrVl (r : Blob) : Nat := r.field 0 0 32
def lrFlags (r : Blob) : Nat := r.field 4 0 4
def lrOsat (r : Blob) : Nat := r.field 4 4 2
def lrFzout (r : Blob) : Bool := r.field 4 6 1 == 1
def lrBase (r : Blob) (k : Nat) : Nat := r.field (16 + 8 * k) 0 48
def lrFmt (r : Blob) (k : Nat) : Nat := r.field (16 + 8 * k) 48 4
def lrScale (r : Blob) (k : Nat) : Int := (BitVec.ofNat 9 (r.field (16 + 8 * k) 52 9)).toInt
def lrConst (r : Blob) (c : Nat) : Num := fmtB32.decode (r.field (80 + 4 * c) 0 32)

/-- The element size of an operand format of a launch record. -/
def lrSize (fmt : Nat) : Nat := if fmt ≤ 2 then 2 else if fmt = 3 then 4 else 8

/-- Whether a record has a reserved field or value (cause 0x1). -/
def lrReserved (r : Blob) : Bool :=
  lrOsat r == 3 || r.field 4 7 1 != 0 || r.field 5 0 88 != 0 || r.field 112 0 128 != 0 ||
    (List.range 8).any fun k =>
      r.field (16 + 8 * k) 0 6 != 0 || r.field (16 + 8 * k) 61 3 != 0 || 5 ≤ lrFmt r k ||
        (if lrFmt r k = 4 then lrScale r k == -256 else lrScale r k != 0)

/-- Micro-op fields (Table 6). -/
def moOp (w : BitVec 64) : Nat := bitsNat w 63 58
def moD (w : BitVec 64) : Nat := bitsNat w 57 54
def moA (w : BitVec 64) : Nat := bitsNat w 53 50
def moB (w : BitVec 64) : Nat := bitsNat w 49 46
def moC (w : BitVec 64) : Nat := bitsNat w 45 42
def moK (w : BitVec 64) : Nat := bitsNat w 41 39
def moImm (w : BitVec 64) : Nat := bitsNat w 15 0

/-- The micro-ops of a program entry. -/
def programOf (p : Blob) (d : Nat) : List (BitVec 64) := (List.range (prLen p d)).map fun i => prWord p (prStart p d + i)

/-- The operands that a program names, with operand 0, which fixes its lanes (R241). -/
def operandsOf (prog : List (BitVec 64)) : List Nat :=
  0 :: (prog.filter fun w => moOp w == 1 || moOp w == 2).map moK

/-- The bytes of an operand. -/
def operandLen (r : Blob) (k : Nat) : Nat := lrVl r * lrSize (lrFmt r k)

/-- Whether an operand's range lies below 2^48 in MEMORY_MAP, scratch or the dock window (R250); the table-port window is outside
(R49). -/
def State.operandFits (s : State) (r : Blob) (k : Nat) : Bool :=
  let a := lrBase r k
  let n := operandLen r k
  let p := s.sect secMap
  let windows := if s.hasSect secMap then [(dockWin p, 0xA0000)] else []
  a + n ≤ 2 ^ 48 && (n == 0 || coveredFrom (s.mappedIvs ++ windows) 68 a n)

/-- The cause for which the sequencer refuses a record, 0 for none (R240, Table 15): 0x3 for any operand that has a format. -/
def State.recordCause (s : State) (r : Blob) (prog : List (BitVec 64)) : Nat :=
  if lrReserved r then 1
  else if (operandsOf prog).any fun k => lrFmt r k == 0 then 2
  else if (List.range 8).any fun k => lrFmt r k != 0 && !s.operandFits r k then 3
  else 0

/-- Record the first error of an engine in QY_LERR. -/
def State.launchError (s : State) (n : SliceId) (cause addr : Nat) : State :=
  let e := s.engine n
  if e.lerrV then s
  else s.setEngine n { e with lerrV := true, lerrC := BitVec.ofNat 4 cause, lerrA := BitVec.ofNat 48 (addr / 128 * 128) }

/-- The launches of a write that have not completed. -/
def State.openLaunches (s : State) (op : Nat) : Nat := (s.qy.launches.filter (·.op == op)).length

/-- LAUNCH_RECORD (R239, R240): the next record of the oldest launch write enters the queue of 64, or fails with a cause in
QY_LERR of engine 0, after which no later record of its write runs. -/
def execLaunchRecord (s : State) : Host.Outcome State Fault Refusal :=
  match s.qy.waiting with
  | w :: rest =>
    if !s.quayRuns || 64 ≤ s.qy.launches.length then .next s
    else
      let r := w.data.slice (128 * w.next) 128
      let prog := programOf s.programs w.entry
      let cause := s.recordCause r prog
      let more := 128 * (w.next + 1) < w.data.len
      if cause = 0 then
        let l : Launch := { id := s.qy.nextId, op := w.op, entry := w.entry, record := BitVec.ofNat 1024 r.bits,
                            prog := prog, started := 0, done := 0 }
        let waiting := if more then { w with next := w.next + 1 } :: rest else rest
        .next { s with qy := { s.qy with waiting := waiting, launches := s.qy.launches ++ [l], nextId := s.qy.nextId + 1 } }
      else
        let s := s.launchError 0 cause (w.addr.toNat + 128 * w.next)
        let s := { s with qy := { s.qy with waiting := rest } }
        let pending_ := s.openLaunches w.op
        .next (s.serve w.op fun x => { x with left := pending_, cause := 0x0D })
  | [] => .next s

-- Programs (R235-R242) ------------------------------------------------------------------------------------------------------------------

/-- Lanes of a chunk: 64 bytes of operand 0. -/
def lanesOf (r : Blob) : Nat := 64 / lrSize (lrFmt r 0)

/-- Chunks of a launch. -/
def chunksOf (r : Blob) : Nat := (lrVl r + lanesOf r - 1) / lanesOf r

/-- The engine that runs a chunk (R241). -/
def chunkEngine (r : Blob) (c : Nat) : Nat := sliceOf (lrBase r 0 / 64 + c)

/-- The first chunk from `c` on that engine `n` runs; each aligned group of 16 lines has one for every engine. -/
def nextChunk (r : Blob) (n c : Nat) : Option Nat :=
  ((List.range 32).map (c + ·)).find? fun i => i < chunksOf r && chunkEngine r i == n

/-- Bring chunks in until the engine holds 64 or its part of the launch is at its end. -/
def fillChunks (r : Blob) (launch n : Nat) : Nat → Engine → Engine
  | 0, e => e
  | k + 1, e =>
    match e.cursor with
    | some (l, c) =>
      if l ≠ launch ∨ 64 ≤ e.chunks.length then e
      else match nextChunk r n c with
        | some i =>
          let ch : Chunk := { launch := launch, index := i, pc := 0, loop := none, v := List.replicate 8 (List.replicate 32 0) }
          fillChunks r launch n k { e with chunks := e.chunks ++ [ch], cursor := some (launch, i + 1) }
        | none => { e with cursor := none }
    | none => e

/-- A launch's record as bytes. -/
def Launch.bytes (l : Launch) : Blob := { len := 128, bits := l.record.toNat }

/-- The launch of a number. -/
def State.launch (s : State) (id : Nat) : Option Launch := s.qy.launches.find? (·.id == id)

/-- Replace a launch. -/
def State.setLaunch (s : State) (l : Launch) : State :=
  { s with qy := { s.qy with launches := s.qy.launches.map fun x => if x.id == l.id then l else x } }

/-- Refill an engine, and mark the launch done at it when nothing of it is left. -/
def State.refill (s : State) (n : SliceId) (l : Launch) : State :=
  let e := fillChunks l.bytes l.id n.val 65 (s.engine n)
  let over_ := e.cursor.isNone && !e.chunks.any (·.launch == l.id)
  let s := s.setEngine n e
  if over_ then s.setLaunch { l with done := setBit l.done n.val true } else s

/-- LAUNCH_START (R241): the engine starts its chunks of the oldest launch that it has not completed; the first engine to
start a launch fixes the program it runs (Table 12). -/
def execLaunchStart (engine : SliceId) (s : State) : Host.Outcome State Fault Refusal :=
  match s.qy.launches.find? fun l => !bitAt l.done engine.val with
  | some l =>
    if !s.quayRuns || (s.engine engine).test || bitAt l.started engine.val then .next s
    else
      let prog := if l.started = 0 then programOf s.programs l.entry else l.prog
      let l := { l with started := setBit l.started engine.val true, prog := prog }
      let s := s.setLaunch l
      let s := s.setEngine engine { s.engine engine with cursor := some (l.id, 0) }
      .next (s.refill engine l)
  | none => .next s

/-- The integer square root of a number of at most `2n` bits. -/
def isqrt (v : Nat) : Nat → Nat → Nat
  | 0, r => r
  | n + 1, r => isqrt v n (if (r + 2 ^ n) * (r + 2 ^ n) ≤ v then r + 2 ^ n else r)

/-- A / B, rounded to odd (R237). -/
def divA40 (a b : Num) : Num × Bool :=
  match a, b with
  | .nan, _ => (.nan, false)
  | _, .nan => (.nan, false)
  | .inf _, .inf _ => (.nan, false)
  | .inf s, .fin t _ _ => (.inf (s != t), false)
  | .fin s _ _, .inf t => (Num.zero (s != t), false)
  | .fin s m e, .fin t n f =>
    if n = 0 then (if m = 0 then .nan else .inf (s != t), false)
    else if m = 0 then (Num.zero (s != t), false)
    else
      let k := 80 + n.log2
      fmtA40.rto (s != t) ((m <<< k) / n) (e - f - k) ((m <<< k) % n != 0)

/-- √A, rounded to odd. -/
def sqrtA40 (a : Num) : Num × Bool :=
  match a with
  | .nan => (.nan, false)
  | .inf s => (if s then .nan else .inf false, false)
  | .fin s m e =>
    if m = 0 then (a, false)
    else if s then (.nan, false)
    else
      let m := if e % 2 = 0 then m else 2 * m
      let e := if e % 2 = 0 then e else e - 1
      let v := m <<< 160
      let t := isqrt v 110 0
      fmtA40.rto false t (e / 2 - 80) (t * t != v)

/-- 1/√A, rounded to odd. -/
def rsqA40 (a : Num) : Num × Bool :=
  match a with
  | .nan => (.nan, false)
  | .inf s => (if s then .nan else Num.zero false, false)
  | .fin s m e =>
    if m = 0 then (.inf false, false)
    else if s then (.nan, false)
    else
      let m := if e % 2 = 0 then m else 2 * m
      let e := if e % 2 = 0 then e else e - 1
      let v := 2 ^ 240 / m
      let t := isqrt v 125 0
      fmtA40.rto false t (-(e / 2) - 120) (t * t * m != 2 ^ 240)

/-- The larger or smaller value; NaN if either is NaN. Which of two zeros of opposite sign it is, is free (log entry 40). -/
def pickA40 (larger : Bool) (a b : Num) : Num :=
  if a.isNan || b.isNan then .nan
  else if a.lt b then (if larger then b else a)
  else if b.lt a then (if larger then a else b)
  else if a.sign == b.sign || Config.picksFirst larger a.sign then a else b

/-- One lane of a micro-op on A, B, C and the old vD; saturation sets PSAT. -/
def laneOp (op : Nat) (imm : Nat) (a b c d : Num) : Num × Bool :=
  if op = 3 then fmtA40.add a b
  else if op = 4 then fmtA40.add a b.neg
  else if op = 5 then fmtA40.mul a b
  else if op = 6 then fmtA40.add (a.mulExact b) c
  else if op = 7 then (pickA40 true a b, false)
  else if op = 8 then (pickA40 false a b, false)
  else if op = 9 then (if a.sign then a.neg else a, false)
  else if op = 0x0A then (a.neg, false)
  else if op = 0x0B then divA40 a b
  else if op = 0x0C then sqrtA40 a
  else if op = 0x0D then rsqA40 a
  else if op = 0x0E then expA a
  else if op = 0x0F then
    match a with
    | .fin s m e => fmtA40.narrow (.fin s m (e + (BitVec.ofNat 16 imm).toInt))
    | x => (x, false)
  else if op = 0x10 then (if a.lt b then c else d, false)
  else (a, false)

/-- The lanes of a source field: v0 to v7, or a launch constant. -/
def Chunk.source (ch : Chunk) (r : Blob) (n : Nat) : List Num :=
  if n < 8 then (ch.v.getD n []).map a40 else List.replicate 32 (lrConst r (n - 8))

/-- An operand's element decoded to A40 (R238). -/
def loadLane (fmt : Nat) (scale : Int) (raw : Nat) : Num × Bool :=
  if fmt = 4 then
    let v := (BitVec.ofNat 64 raw).toInt
    fmtA40.narrow (.fin (decide (v < 0)) v.natAbs (-scale))
  else ((if fmt = 1 then fmtBF16 else if fmt = 2 then fmtB16 else fmtB32).decode raw, false)

/-- The bytes of a lane: from memory, or a word of the dock window; the flag says that they are poisoned, or that the access is one that
the window does not take (R255, log entry 42). -/
def State.laneBytes (s : State) (a z : Nat) : Nat × Bool :=
  if s.inDockWin a then
    match (if z = 8 then s.windowLoad a else none) with
    | some v => (v.toNat, false)
    | none => (0, true)
  else match s.engineBytes a z with
    | some (b, p) => (b.bits, p)
    | none => (0, false)

/-- LD of a chunk: the lanes of operand K, +0 at or past VL; a poisoned lane is a free value (log entry 41). -/
def State.loadLanes (s : State) (r : Blob) (index k : Nat) : List Cell40 × Bool :=
  let z := lrSize (lrFmt r k)
  let lanes := (List.range 32).map fun i =>
    let el := index * lanesOf r + i
    if i < lanesOf r ∧ el < lrVl r then
      let a := lrBase r k + z * el
      let (raw, p) := s.laneBytes a z
      if p then (Config.poisonedLane (BitVec.ofNat 48 a), false)
      else
        let x := loadLane (lrFmt r k) (lrScale r k) raw
        (toA40 x.1, x.2)
    else (0, false)
  (lanes.map (·.1), lanes.any (·.2))

/-- Whether a conversion under OSAT saturates (Table 8 of "Tile numerics and formats"): a finite overflow, or under SATALL an
infinity, becomes the largest finite value. -/
def storeSat (o : OutFmt) (fzout : Bool) (osat : Nat) (v : Num) : Bool :=
  match v with
  | .nan => false
  | .inf _ => osat == 2
  | v => osat != 0 && (o.round (match o.flushLimit with | some lim => (flushBelow fzout lim v).1 | none => v)).isNone

/-- ST of a lane: the stored number, and the PSAT and PINV it sets (R238). -/
def storeLane (r : Blob) (k : Nat) (v : Num) : Nat × Bool × Bool :=
  let fmt := lrFmt r k
  if fmt = 4 then
    match v with
    | .nan => (0, false, true)
    | .inf neg => ((BitVec.ofInt 64 (if neg then accMin else accMax)).toNat, true, false)
    | .fin s m e =>
      let x := clampAcc (if hugeInt m (e + lrScale r k) then (if s then accMin - 1 else accMax + 1) else rneInt s m (e + lrScale r k))
      ((BitVec.ofInt 64 x.1).toNat, x.2, false)
  else
    let o := OutFmt.bin (if fmt = 1 then fmtBF16 else if fmt = 2 then fmtB16 else fmtB32)
    ((convertOut o (lrFzout r) (lrOsat r) v).1, storeSat o (lrFzout r) (lrOsat r) v, false)

/-- ST of a chunk: only lanes below VL are written. -/
def State.storeLanes (s : State) (m : BitVec 16) (r : Blob) (index k : Nat) (vals : List Num) : State × Bool × Bool :=
  let z := lrSize (lrFmt r k)
  ((List.range (lanesOf r)).foldl (fun acc i =>
    let (s, sat, inv) := acc
    let el := index * lanesOf r + i
    if el < lrVl r then
      let a := lrBase r k + z * el
      let (w, st, nv) := storeLane r k (vals.getD i (Num.zero false))
      let s := if s.inDockWin a then (if z = 8 then (s.windowStore a (BitVec.ofNat 64 w) m).getD s else s) else
        s.engineStore a { len := z, bits := w }
      (s, sat || st, inv || nv)
    else (s, sat, inv)) (s, false, false))

/-- Move a chunk past the micro-op at `pc`: the loop in progress takes another pass or ends. -/
def Chunk.advance (ch : Chunk) (next : Nat) : Chunk :=
  match ch.loop with
  | some (first, last, passes) =>
    if ch.pc = last then
      if 1 < passes then { ch with pc := first, loop := some (first, last, passes - 1) } else { ch with pc := next, loop := none }
    else { ch with pc := next }
  | none => { ch with pc := next }

-- The hold of a line from a program's read to its write (R208) ------------------------------------------------------------

/-- The lines outside the dock window that a chunk's elements of an operand touch. -/
def State.chunkLines (s : State) (r : Blob) (index k : Nat) : List Nat :=
  let z := lrSize (lrFmt r k)
  let first := index * lanesOf r
  let n := Nat.min (lanesOf r) (lrVl r - first)
  let a := lrBase r k + z * first
  if n = 0 ∨ s.inDockWin a then [] else (List.range ((a % 64 + z * n + 63) / 64)).map (a / 64 + ·)

/-- The lines that a chunk may still write from a micro-op on, from the start of the loop that it is in. -/
def State.writtenLater (s : State) (l : Launch) (ch : Chunk) : List Nat :=
  let from_ := match ch.loop with | some (first, _, _) => Nat.min first ch.pc | none => ch.pc
  ((l.prog.drop from_).filter fun w => moOp w == 2).flatMap fun w => s.chunkLines l.bytes ch.index (moK w)

/-- Whether another chunk holds one of some lines. -/
def State.heldByOther (s : State) (ch : Chunk) (lines : List Nat) : Bool :=
  s.l2.holds.any fun h => lines.contains h.line && !(h.launch == ch.launch && h.chunk == ch.index)

/-- A chunk holds lines that it has read and will write. -/
def State.hold (s : State) (ch : Chunk) (lines : List Nat) : State :=
  let mine := lines.map fun l => ({ line := l, launch := ch.launch, chunk := ch.index } : LineHold)
  { s with l2 := { s.l2 with holds := s.l2.holds ++ mine.filter fun h => !s.l2.holds.contains h } }

/-- A chunk gives up its holds of lines; of all lines at its end. -/
def State.unhold (s : State) (ch : Chunk) (lines : Option (List Nat)) : State :=
  let gone (h : LineHold) : Bool :=
    h.launch == ch.launch && h.chunk == ch.index && (match lines with | some l => l.contains h.line | none => true)
  { s with l2 := { s.l2 with holds := s.l2.holds.filter fun h => !gone h } }

/-- One micro-op of a chunk: the chunk after it, or none at END. An LD or ST of a line that another chunk holds waits; an LD takes
the hold of the lines that the chunk will write, and the ST gives it up (R208). -/
def State.microOp (s : State) (n : SliceId) (l : Launch) (ch : Chunk) : State × Option Chunk :=
  let r := l.bytes
  let w := l.prog.getD ch.pc 0
  let op := moOp w
  if op = 0 then (s.unhold ch none, none)
  else if (op = 1 ∨ op = 2) ∧ s.heldByOther ch (s.chunkLines r ch.index (moK w)) then (s, some ch)
  else if op = 1 then
    let later := s.writtenLater l ch
    let s := s.hold ch ((s.chunkLines r ch.index (moK w)).filter later.contains)
    let (v, sat) := s.loadLanes r ch.index (moK w)
    let e := s.engine n
    (s.setEngine n { e with psat := e.psat || sat }, some ({ ch with v := setAt ch.v (moD w) v }.advance (ch.pc + 1)))
  else if op = 2 then
    let (s, sat, inv) := s.storeLanes (quayMaster n.val) r ch.index (moK w) (ch.source r (moA w))
    let s := s.unhold ch (some (s.chunkLines r ch.index (moK w)))
    let e := s.engine n
    (s.setEngine n { e with psat := e.psat || sat, pinv := e.pinv || inv }, some (ch.advance (ch.pc + 1)))
  else if op = 0x20 then
    (s, some { ch with pc := ch.pc + 1, loop := some (ch.pc + 1, ch.pc + 1 + moA w, moImm w) })
  else if op = 0x21 then
    (s, some (ch.advance (ch.pc + 1 + (if (lrFlags r) / 2 ^ (moA w % 4) % 2 = 1 then moImm w else 0))))
  else
    let lanes := (List.range 32).map fun i =>
      let get (m : Nat) : Num := (ch.source r m).getD i (Num.zero false)
      laneOp op (moImm w) (get (moA w)) (get (moB w)) (get (moC w)) (get (moD w % 8))
    let used := lanes.take (lanesOf r)
    let e := s.engine n
    (s.setEngine n { e with psat := e.psat || used.any (·.2) },
      some ({ ch with v := setAt ch.v (moD w) (lanes.map fun (x : Num × Bool) => toA40 x.1) }.advance (ch.pc + 1)))

/-- MICRO_OP_ISSUE (R242): one micro-op from each of the oldest chunks, at most 4; a chunk that ends makes room. -/
def execMicroOpIssue (engine : SliceId) (s : State) : Host.Outcome State Fault Refusal :=
  if !s.quayRuns || (s.engine engine).test then .next s
  else
    let todo := (s.engine engine).chunks.take 4
    .next (todo.foldl (fun s ch =>
      match s.launch ch.launch with
      | none => s
      | some l =>
        let (s, out) := s.microOp engine l ch
        let e := s.engine engine
        match out with
        | some ch' =>
          s.setEngine engine { e with chunks := e.chunks.map fun x => if x.launch == ch.launch && x.index == ch.index then ch' else x }
        | none =>
          let s := s.setEngine engine { e with chunks := e.chunks.filter fun x => !(x.launch == ch.launch && x.index == ch.index) }
          match s.launch ch.launch with
          | some l => s.refill engine l
          | none => s) s)

/-- LAUNCH_COMPLETE (R240): the oldest launch that every engine has completed leaves the queue, and its write has one launch
fewer to wait for. -/
def execLaunchComplete (s : State) : Host.Outcome State Fault Refusal :=
  match s.qy.launches.find? fun l => l.done == 0xFFFF with
  | some l =>
    if !s.quayRuns then .next s
    else
      let s := { s with qy := { s.qy with launches := s.qy.launches.filter (·.id != l.id) } }
      .next (s.serve l.op fun x => x.applied 0 0)
  | none => .next s

-- Scrub and self-test (R245-R248) ----------------------------------------------------------------------------------------------------------

/-- The first line from `from_` on that a port serves in a range. -/
def lineInRange (n from_ base len : Nat) : Option Nat :=
  let lo := Nat.max from_ (base / 64)
  ((List.range 32).map (lo + ·)).find? fun l => sliceOf l == n && l < (base + len) / 64

/-- The next line that scrub reads on a port, in ascending order, wrapping at the end. -/
def State.scrubLine (s : State) (n from_ : Nat) : Option Nat :=
  let p := s.sect secMap
  let next (from_ : Nat) : Option Nat :=
    (List.range (nRange p)).foldl (fun r i =>
      match r, lineInRange n from_ (rangeBase p i) (rangeLen p i) with
      | none, x => x
      | some a, some b => some (Nat.min a b)
      | some a, none => some a) none
  match next from_ with
  | some l => some l
  | none => next 0

/-- SCRUB_READ (R245): one line is read, while MEMORY is enabled and EN is set, and neither from the stop edge on (R348), nor in a
supply episode (R316), nor during the engine's known-answer test (R247). -/
def execScrubRead (engine : SliceId) (s : State) : Host.Outcome State Fault Refusal :=
  let e := s.engine engine
  if !s.quayRuns || !s.enabled .memory || e.test || !e.scrubEn || e.scrubOut.isSome || s.pastStop || s.ck.supEpisode then .next s
  else match s.scrubLine engine.val e.scrubPos with
    | some l => .next (s.setEngine engine { e with scrubOut := some l })
    | none => .next s

/-- SCRUB_RESPONSE (R245, Table 13): a corrected line is written back unless the L2 holds it dirty, which leaves its bytes as
they are and, as an engine write, no cached copy (R208); the outcome is recorded. -/
def execScrubResponse (engine : SliceId) (err : BitVec 2) (s : State) : Host.Outcome State Fault Refusal :=
  let e := s.engine engine
  match e.scrubOut with
  | some l =>
    if !s.quayRuns then .next s
    else
      let s := s.setEngine engine { e with scrubOut := none, scrubPos := l + 1 }
      let ev (src : Nat) : FaultEvent :=
        { plainFault src engine.val with access := 1, master := quayMaster engine.val, addr := BitVec.ofNat 48 (64 * l) }
      .next (if err = 0 then s
        else if err = 1 then
          let s := if (match s.l2.find l with | some x => x.dirty | none => false) then s
            else s.engineWrite l (cellsLine s.mem l) (BitVec.allOnes 64)
          s.detect (ev 0x1B)
        else
          let s := s.detect (ev 0x1C)
          if err = 3 then s.detect { ev 0x1A with covered := true } else s)
  | none => .next s

/-- QUAY_KNOWN_ANSWER_TEST (R247, R334): the test that the self-test period began ends, and the engine's work goes on; a failure is
the F-class source 0x1E. -/
def execQuayKnownAnswerTest (engine : SliceId) (pass : Bool) (s : State) : Host.Outcome State Fault Refusal :=
  let e := s.engine engine
  if !s.quayRuns || !e.test then .next s
  else
    let s := s.setEngine engine { e with test := false }
    .next (if pass then s else s.detect (plainFault 0x1E engine.val))

/-- The outcome of a quay parity error (R248), by the access that found it: 0x3 a pending sum at an address, 0x2 a queued
record at an address (the oldest that no engine has started), otherwise a micro-op at issue. -/
def State.quayParity (s : State) (n : SliceId) (access : Nat) (addr : Nat) : State :=
  let e := s.engine n
  if access = 3 then
    match e.merge.findIdx? (·.line == addr / 64) with
    | some i =>
      match e.merge[i]? with
      | some m =>
        let m' := { m with sums := setAt m.sums (addr / 8 % 8) Pend64.none_ }
        let s := s.setEngine n { e with merge := setAt e.merge i m' }
        let lost := flagBits false false true
        let s := s.raiseXflag n.val m.region lost
        m.ops.foldl (fun s o => s.serve o fun x => { x with flags := x.flags ||| lost }) s
      | none => s
    | none => s
  else if access = 2 then
    let s := s.launchError n 4 addr
    match s.qy.launches.find? (·.started == 0) with
    | some l =>
      let s := { s with qy := { s.qy with launches := s.qy.launches.filter (·.id != l.id) } }
      s.serve l.op fun x => x.applied 0 0x0D
    | none => s
  else
    match e.chunks with
    | ch :: _ =>
      let s := s.launchError n 4 addr
      let e := s.engine n
      let ended := e.chunks.filter (·.launch == ch.launch)
      let s := ended.foldl (fun s c => s.unhold c none) s
      let s := s.setEngine n { e with chunks := e.chunks.filter (·.launch != ch.launch), cursor := none }
      match s.launch ch.launch with
      | some l =>
        let s := s.setLaunch { l with done := setBit l.done n.val true }
        s.serve l.op fun x => { x with cause := 0x0D }
      | none => s
    | [] => s

end Sys2Proof.Machine
end

