-- ==== Sys2Proof/Machine/Dock.lean ====
section
/-! DEFINITION. The dock (R251-R271): watches, descriptors, remote operations at their source and at their target, and
completion. -/

namespace Sys2Proof.Machine

-- Watches and window stores (R254-R256, R262, R263) --------------------------------------------------------------------

/-- WATCH_FIRE (R254): an armed valid watch whose counter has reached its target offers dock event 0x100 + w. -/
def execWatchFire (watch : WatchId) (s : State) : Host.Outcome State Fault Refusal :=
  if s.dockRuns && s.enabled .dock && s.watchReady watch.val then .next (s.offerEvent (0x100 + watch.val) (.dock watch))
  else .next s

/-- A store of a core to the dock window reaches it (R255): a refused one is the late bus error of the RUNNING berth. -/
def State.coreDockStore (s : State) (c : CoreId) (off : Nat) (v : Word) : State :=
  match (s.core c).running with
  | some b =>
    if s.coreRuns c && s.hasSect secMap then
      match s.dockStore off v (coreMaster c b) with
      | some t => t
      | none => s.lateBusError c b (BitVec.ofNat 48 (dockWin (s.sect secMap) + off)) 2
    else s
  | none => s

/-- PUT_STORE (R256): a core's store of word 0 of a queue. -/
def execPutStore (core : CoreId) (queue : QueueId) (value : Word) (s : State) : Host.Outcome State Fault Refusal :=
  .next (s.coreDockStore core (16 * queue.val) value)

/-- QUEUE_RESUME (R262): a core's store of word 0 with RESUME set. -/
def execQueueResume (core : CoreId) (queue : QueueId) (put : BitVec 32) (s : State) : Host.Outcome State Fault Refusal :=
  .next (s.coreDockStore core (16 * queue.val) (put.setWidth 64 ||| 0x100000000))

/-- WATCH_STORE (R254): a core's store of a watch word. -/
def execWatchStore (core : CoreId) (watch : WatchId) (value : Word) (s : State) : Host.Outcome State Fault Refusal :=
  .next (s.coreDockStore core (0x10000 + 8 * watch.val) value)

/-- COUNTER_STORE (R263): a core's store of a counter. -/
def execCounterStore (core : CoreId) (ctr : Ctr) (value : Word) (s : State) : Host.Outcome State Fault Refusal :=
  .next (s.coreDockStore core (0x20000 + 8 * ctr.toNat) value)

-- Descriptors (R256-R259, Table 9) ------------------------------------------------------------------------------------------

/-- A descriptor as bytes. -/
def descBytes (l : Line) : Blob := { len := 64, bits := l.toNat }

/-- Fields of a descriptor. -/
def dsOp (d : Blob) : Nat := d.field 0 0 4
def dsFence (d : Blob) : Bool := d.field 1 0 1 == 1
def dsDoneEn (d : Blob) : Bool := d.field 1 1 1 == 1
def dsNotify (d : Blob) : Bool := d.field 1 2 1 == 1
def dsRecord (d : Blob) : Bool := d.field 1 3 1 == 1
def dsWaitKind (d : Blob) : Nat := d.field 1 4 2
def dsWaitIdx (d : Blob) : Nat := d.field 2 0 3
def dsLen (d : Blob) : Nat := d.field 4 0 24
def dsLocal (d : Blob) : Nat := d.field 8 0 48
def dsRemote (d : Blob) : Nat := d.field 16 0 48
def dsNode (d : Blob) : BitVec 15 := BitVec.ofNat 15 (d.field 16 48 15)
def dsWaitVal (d : Blob) : BitVec 32 := BitVec.ofNat 32 (d.field 24 0 32)
def dsWaitCtr (d : Blob) : Nat := d.field 28 0 16
def dsDoneCtr (d : Blob) : Ctr := BitVec.ofNat 16 (d.field 30 0 16)
def dsNoteCtr (d : Blob) : Ctr := BitVec.ofNat 16 (d.field 32 0 16)

/-- A reserved field or value, or a broken rule of R257 (CAUSE 0x01). -/
def dsReserved (bound : Bool) (d : Blob) : Bool :=
  3 ≤ dsOp d || d.field 0 4 4 != 0 || dsWaitKind d == 3 || d.field 1 6 2 != 0 || d.field 2 3 5 != 0 || d.byte 3 != 0 ||
    d.byte 7 != 0 || d.field 14 0 16 != 0 || d.field 23 7 1 != 0 || d.field 34 0 48 != 0 ||
    (dsOp d == 0 && (dsLen d != 0 || dsLocal d != 0 || dsRemote d != 0 || dsNotify d || dsNoteCtr d != 0)) ||
    (bound && dsNode d != 0)

/-- The CAUSE for which a descriptor is refused at fetch, 0 for none (R258). -/
def dsRefused (bound : Bool) (waitN : Nat) (d : Blob) : Nat :=
  if dsReserved bound d then 1 else if dsWaitKind d = 1 ∧ waitN ≤ dsWaitIdx d then 2 else 0

/-- Whether the dock fetches and starts descriptors: enabled, with new work allowed, and not from the stop edge (R348). -/
def State.dockStarts (s : State) : Bool := s.dockRuns && !s.bw.fStop && s.enabled .dock && !s.pastStop

/-- DESCRIPTOR_FETCH (R256, R258): the next descriptor of a running queue, once PUT has passed it and the one before has
started. One refused at fetch, or poisoned, has its outcome at once. A queue whose entry was replaced fetches once its
descriptors in progress have completed (Table 9 of "Structure image, enabling and host replies"). -/
def execDescriptorFetch (queue : QueueId) (s : State) : Host.Outcome State Fault Refusal :=
  let q := queue.val
  let p := s.queueEntry q
  let x := s.dq q
  let ahead := (x.put - x.next).toNat
  if s.dockStarts && quValid p 0 && x.state == 0 && x.fetched.isNone && x.old.isNone && 0 < ahead && ahead ≤ ringSlots p 0 &&
      !s.lineHeld (quRingBase p 0 / 64 + x.next.toNat % ringSlots p 0) then
    let a := quRingBase p 0 + 64 * (x.next.toNat % ringSlots p 0)
    let (bits, bad) := match s.engineBytes a 64 with
      | some (b, p) => (b.bits, p)
      | none => (0, true)
    let l : Line := BitVec.ofNat 512 bits
    let cause := if bad then 0x0A else dsRefused (quBound p 0) (quWaitN p 0) (descBytes l)
    if cause = 0 then .next (s.setDq q { x with fetched := some (x.next, l) })
    else
      let d : Started := { n := x.next, desc := l, outcome := some (BitVec.ofNat 8 cause, 0) }
      .next (s.setDq q { x with next := x.next + 1, started := x.started ++ [d] })
  else .next s

/-- Whether the wait of a descriptor has been reached (R264). -/
def State.waitReached (s : State) (q : Nat) (d : Blob) : Bool :=
  if dsWaitKind d = 1 then ctrReached (s.dq (quWaitFirst (s.queueEntry q) 0 + dsWaitIdx d)).qcount (dsWaitVal d)
  else if dsWaitKind d = 2 then ctrReached (s.ctr (dsWaitCtr d)) (dsWaitVal d)
  else true

/-- The fetched descriptor of a queue whose wait and FENCE are satisfied (R258). -/
def State.waitedDescriptor (s : State) (q : Nat) : Option (BitVec 32 × Line) :=
  let x := s.dq q
  match x.fetched with
  | some (n, l) =>
    let d := descBytes l
    if s.dockStarts && x.state == 0 && s.waitReached q d && (!dsFence d || x.started.isEmpty) then some (n, l) else none
  | none => none

/-- A descriptor starts; `outcome` when it finishes without an operation. -/
def State.startDescriptor (s : State) (q : Nat) (n : BitVec 32) (l : Line) (outcome : Option Nat) : State :=
  let x := s.dq q
  let d : Started := { n := n, desc := l, outcome := outcome.map fun c => (BitVec.ofNat 8 c, 0) }
  let s := s.setDq q { x with fetched := none, next := n + 1, started := x.started ++ [d] }
  { s with dk := { s.dk with lastQ := q } }

-- Operations at their source (R259, R265, R285, R293) ------------------------------------------------------------------------

/-- The first of `k` tags from `t` that a test accepts. -/
def firstTag {α : Type} (f : Nat → Option α) : Nat → Nat → Option (Nat × α)
  | 0, _ => none
  | k + 1, t =>
    match f t with
    | some a => some (t, a)
    | none => firstTag f k (t + 1)

/-- Whether a tag is free: of a link or the loop for WRITE and APPEND, of the block for READ (R285). A tag whose operation ended
without an answer is not (log entry 97). -/
def State.tagFree (s : State) (read : Bool) (r : Route) (t : Nat) : Bool :=
  !((s.dk.ops.filter (·.answer.isNone)) ++ s.dk.late).any fun o =>
    (o.kind == .read) == read && (read || o.route == r) && o.tag.toNat == t

/-- Where an operation with a tag leaves, and its rank: the link of a BOUND queue, the local loop, or the route table. -/
def State.leaves (s : State) (bound : Option LinkId) (node : BitVec 15) (tag : Nat) : Option (Route × Nat) :=
  match bound with
  | some l => some (.link l, 0)
  | none =>
    if node = s.si.nodeId then some (.loop, 0)
    else (s.routeTo node s.si.nodeId (BitVec.ofNat 16 tag) 0).map fun r => (Route.link r.1, r.2)

/-- The tag and route of a new operation: the lowest tag that is free on the route it selects; none while the limit of
R265 is full (log entry 45). -/
def State.pickTag (s : State) (bound : Option LinkId) (node : BitVec 15) (read : Bool) : Option (Nat × Route × Nat) :=
  firstTag (fun t =>
    match s.leaves bound node t with
    | some (r, k) => if s.tagFree read r t then some (r, k) else none
    | none => none) (if read then 65536 else 1024) 0

/-- Send an operation: on the local loop it arrives at this block's own target side, which checks it (R252, R259). -/
def State.sendOp (s : State) (op : RemoteOp) (rank : Nat) (addr : Nat) (notify : Bool) (note : Ctr)
    (data : Blob) : State :=
  let s := { s with dk := { s.dk with ops := s.dk.ops ++ [op], nextId := s.dk.nextId + 1 } }
  match op.route with
  | .loop =>
    let a : ArrivingOp :=
      { region := 0, entry := 0, cause := 0, kind := op.kind, via := .loop, src := s.si.nodeId, tag := op.tag, notify := notify,
        note := note, len := op.len, addr := BitVec.ofNat 48 addr, data := data }
    { s with dk := { s.dk with arriving := s.dk.arriving ++ [s.checked a false] } }
  | .link l =>
    let opk := match op.kind with | .write => 1 | .read => 2 | .append => 3
    s.queueFlits l (opFlits 0 rank op.dest s.si.nodeId op.tag (opHeader opk notify note op.len addr 0 0 0) data)

/-- The CAUSE with which a WRITE or READ ends without an operation, 0 for none (R259, R266). -/
def State.startCause (s : State) (q : Nat) (d : Blob) : Nat :=
  let p := s.queueEntry q
  if !s.rangeCovers (dsLocal d) (dsLen d) then 3
  else if quBound p 0 then (if (s.link (Fin.ofNat 48 (quLink p 0))).state == .retired then 0x0B else 0)
  else if (s.leaves none (dsNode d) 0).isNone then 4
  else 0

/-- Start a WRITE or READ: none while its limit is full. Poisoned source data sends nothing. -/
def State.startOp (s : State) (q : Nat) (n : BitVec 32) (l : Line) (kind : OpKind) : Option State :=
  let d := descBytes l
  let p := s.queueEntry q
  let cause := s.startCause q d
  let bound := if quBound p 0 then some (Fin.ofNat 48 (quLink p 0)) else none
  let dest := if quBound p 0 then BitVec.ofNat 15 (linkPeer s.linkPlan (quLink p 0)) else dsNode d
  if cause = 0x0B then
    some ((s.startDescriptor q n l (some cause)).detect { plainFault 0x22 (quLink p 0) with covered := true })
  else if cause ≠ 0 then some (s.startDescriptor q n l (some cause))
  else
    match s.pickTag bound (dsNode d) (kind == .read) with
    | none => none
    | some (tag, route, rank) =>
      let got := if kind = .read ∨ dsLen d = 0 then some (Blob.empty, false) else s.engineBytes (dsLocal d) (dsLen d)
      match got with
      | some (data, false) =>
        let op : RemoteOp :=
          { id := s.dk.nextId, kind := kind, route := route, tag := BitVec.ofNat 16 tag, owner := .queue q n, dest := dest,
            local_ := BitVec.ofNat 48 (dsLocal d), len := dsLen d, answer := none, stored := none }
        some ((s.startDescriptor q n l none).sendOp op rank (dsRemote d) (dsNotify d) (dsNoteCtr d) data)
      | _ => some (s.startDescriptor q n l (some 0x0A))

/-- Whether a queue is ready: its descriptor starts if the dock selects it, since its limit has room (R258, R265), and no slice
holds a line of a WRITE's source (R208). -/
def State.queueReady (s : State) (q : Nat) : Bool :=
  match s.waitedDescriptor q with
  | some (_, l) =>
    let d := descBytes l
    let p := s.queueEntry q
    let bound := if quBound p 0 then some (Fin.ofNat 48 (quLink p 0)) else none
    dsOp d == 0 || s.startCause q d != 0 ||
      ((s.pickTag bound (dsNode d) (dsOp d == 2)).isSome && !(dsOp d == 1 && s.rangeHeld (dsLocal d) (dsLen d)))
  | none => false

/-- How far a queue stands behind the one that started last in the rotation of R258. -/
def State.queueTurn (s : State) (q : Nat) : Nat := (q + 4096 - 1 - s.dk.lastQ % 4096) % 4096

/-- The descriptor that the dock starts from a queue: one with an OP, ready, with no ready queue before it in the rotation. -/
def State.readyDescriptor (s : State) (q op : Nat) : Option (BitVec 32 × Line) :=
  match s.waitedDescriptor q with
  | some (n, l) =>
    let before (x : Nat × DQueue) : Bool := s.queueTurn x.1 < s.queueTurn q && s.queueReady x.1
    if dsOp (descBytes l) == op && s.queueReady q && !s.dk.queues.any before then some (n, l) else none
  | none => none

/-- NOP_DESCRIPTOR (R257): a NOP moves nothing and its outcome is known as it starts. -/
def execNopDescriptor (queue : QueueId) (s : State) : Host.Outcome State Fault Refusal :=
  match s.readyDescriptor queue.val 0 with
  | some (n, l) => .next (s.startDescriptor queue.val n l (some 0))
  | none => .next s

/-- WRITE_DESCRIPTOR (R260): a ready WRITE starts and its data leaves. -/
def execWriteDescriptor (queue : QueueId) (s : State) : Host.Outcome State Fault Refusal :=
  match s.readyDescriptor queue.val 1 with
  | some (n, l) => .next ((s.startOp queue.val n l .write).getD s)
  | none => .next s

/-- READ_DESCRIPTOR (R260): a ready READ starts and its request leaves. -/
def execReadDescriptor (queue : QueueId) (s : State) : Host.Outcome State Fault Refusal :=
  match s.readyDescriptor queue.val 2 with
  | some (n, l) => .next ((s.startOp queue.val n l .read).getD s)
  | none => .next s

-- Completion (R260-R262, R266) -------------------------------------------------------------------------------------------------

/-- The CAUSE and flags of an operation are known: a queue's descriptor has its outcome, a dispatch write waits for
DISPATCH_OUTCOME. -/
def State.opEnds (s : State) (op : RemoteOp) (cause : BitVec 8) (flags : BitVec 3) : State :=
  match op.owner with
  | .queue q n =>
    let s := { s with dk := { s.dk with ops := s.dk.ops.filter (·.id != op.id), acks := s.dk.acks.filter (·.owner != AckOwner.remote op.id) } }
    let x := s.dq q
    s.setDq q { x with started := x.started.map fun d =>
      if d.n == n && d.outcome.isNone then { d with outcome := some (cause, flags) } else d }
  | .dispatch .. =>
    { s with dk := { s.dk with ops := s.dk.ops.map fun o =>
      if o.id == op.id then { o with answer := some (cause, flags) } else o } }

/-- The outstanding operation that an answer is for, by its kind and tag: of the same route and target, else of the same
target, else of the same route (log entry 45). -/
def State.answered (s : State) (a : Answer) : Option RemoteOp :=
  let l := s.dk.ops.filter fun o =>
    o.answer.isNone && o.tag == a.tag && (o.kind == .read) == a.isRead && (o.route == .loop) == (a.route == .loop)
  match l.find? fun o => o.route == a.route && o.dest == a.src with
  | some o => some o
  | none =>
    match l.find? (·.dest == a.src) with
    | some o => some o
    | none => l.find? (·.route == a.route)

/-- An operation ends without an answer (R266): one that comes later is discarded, and its tag stays in use until then. -/
def State.opLost (s : State) (op : RemoteOp) (cause : BitVec 8) : State :=
  let s := s.opEnds op cause 0
  { s with dk := { s.dk with late := s.dk.late ++ [op] } }

/-- An answer for no outstanding operation is discarded (R266): it frees the tag of one that had ended without it. -/
def State.lateAnswer (s : State) (a : Answer) : State :=
  let mine (o : RemoteOp) : Bool :=
    o.tag == a.tag && (o.kind == .read) == a.isRead && (o.route == a.route || (o.dest == a.src && o.route != .loop && a.route != .loop))
  match s.dk.late.findIdx? mine with
  | some i => { s with dk := { s.dk with late := dropAt s.dk.late i } }
  | none => s

/-- Take the first answer of a kind from the block's answers. -/
def takeAnswer (read : Bool) : List Answer → Option (Answer × List Answer)
  | [] => none
  | a :: t => if a.isRead = read then some (a, t) else (takeAnswer read t).map fun r => (r.1, a :: r.2)

/-- The link against which an operation's fault is recorded; a loop operation's is the block's (log entry 6). -/
def Route.inst : Route → Nat
  | .link l => l.val
  | .loop => 48

/-- An answer that says that a transit block lost the route records a U-class fault against the link (R266, R294). -/
def State.routeLost (s : State) (op : RemoteOp) (cause : BitVec 8) : State :=
  if cause = 0x0B then s.detect (plainFault 0x22 op.route.inst) else s

/-- ACK (R260): the oldest acknowledgement ends its operation; one for no outstanding operation is discarded (R266). -/
def execAck (s : State) : Host.Outcome State Fault Refusal :=
  match takeAnswer false s.dk.answers with
  | some (a, rest) =>
    if !s.dockRuns then .next s
    else
      let s := { s with dk := { s.dk with answers := rest } }
      match s.answered a with
      | some op => .next ((s.opEnds op a.cause a.flags).routeLost op a.cause)
      | none => .next (s.lateAnswer a)
  | none => .next s

/-- The outcome of a read waits for the acknowledgements of its lines. -/
def State.readStored (s : State) (op : RemoteOp) (cause : BitVec 8) (flags : BitVec 3) : State :=
  { s with dk := { s.dk with ops := s.dk.ops.map fun o => if o.id == op.id then { o with stored := some (cause, flags) } else o } }

/-- READ_DATA (R260): the oldest read answer is written to local memory, and ends its operation once memory has acknowledged
every line. -/
def execReadData (s : State) : Host.Outcome State Fault Refusal :=
  match takeAnswer true s.dk.answers with
  | some (a, rest) =>
    match s.answered a with
    | some op =>
      let data := a.data.slice 0 (Nat.min a.data.len op.len)
      let at_ := op.local_.toNat
      if !s.dockRuns || (a.cause == 0 && s.rangeHeld at_ data.len) then .next s
      else
        let s := { s with dk := { s.dk with answers := rest } }
        let lines := if a.cause = 0 then s.ackLines at_ data.len else []
        let s := if a.cause = 0 ∧ data.len ≠ 0 then s.engineStore at_ data else s
        if lines.isEmpty then .next ((s.opEnds op a.cause a.flags).routeLost op a.cause)
        else .next ((s.readStored op a.cause a.flags).awaitAcks (.remote op.id) lines)
    | none => .next (if s.dockRuns then State.lateAnswer { s with dk := { s.dk with answers := rest } } a else s)
  | none => .next s

/-- A line that a read wrote is acknowledged (R260): with the last one the operation ends, with CAUSE 0x0A where memory failed. -/
def State.remoteAcked (s : State) (id : Nat) (bad : Bool) : State :=
  match s.dk.ops.find? (·.id == id) with
  | some op =>
    match op.stored with
    | some (cause, flags) =>
      let cause : BitVec 8 := if bad then 0x0A else cause
      if s.dk.acks.any (·.owner == AckOwner.remote id) then s.readStored op cause flags else s.opEnds op cause flags
    | none => s
  | none => s

/-- A write of the dock or of a merge entry is acknowledged by memory (R228, R232, R260). -/
def State.dockAcked (s : State) (line : Nat) (bad : Bool) : State :=
  match s.dk.acks.findIdx? (·.line == line) with
  | some i =>
    match s.dk.acks[i]? with
    | some a =>
      let s := { s with dk := { s.dk with acks := dropAt s.dk.acks i } }
      let cause := if bad then 0x0A else 0
      match a.owner with
      | .served id => s.serve id fun x => x.applied 0 cause
      | .remote id => s.remoteAcked id bad
      | .merge => s.mergeAcked line cause
    | none => s
  | none => s

/-- An operation finished with CAUSE 0x0B or 0x0C between GO and closed sets LOST_OP (Table 7 of "Operating at scale"). -/
def State.noteLost (s : State) (cause : Nat) : State :=
  match s.si.harbour with
  | .open | .closed => s
  | _ =>
    if cause = 0x0B ∨ cause = 0x0C then { s with si := { s.si with incomplete := setBit s.si.incomplete 4 true } } else s

/-- A ring-full outcome raises attention cause 0x3 and pilot event 0x004 (R197, R261). -/
def State.noteRingFull (s : State) (cause : Nat) : State :=
  if cause = 9 then (s.raiseCause 0x3).offerEvent 0x004 .latch else s

/-- The completion record (Table 11). -/
def State.completionRecord (s : State) (d : Blob) (cause : Nat) (flags : BitVec 3) : Blob :=
  let bytes := if cause = 0 then dsLen d else 0
  { len := 16,
    bits := s.statusByte (outcomeOf cause) + cause * 2 ^ 8 + flags.toNat * 2 ^ 16 + bytes * 2 ^ 32 + s.time.toNat * 2 ^ 64 }

/-- DESCRIPTOR_FINISH (R260-R262): the oldest started descriptor of the queue, once its outcome is known: the record, the
counters, TAKE, and STOPPED for a queue with STOP set that failed. -/
def execDescriptorFinish (queue : QueueId) (s : State) : Host.Outcome State Fault Refusal :=
  let q := queue.val
  let p := s.queueEntry q
  match (s.dq q).started with
  | { n, desc, outcome := some (cause, flags) } :: rest =>
    if !s.dockRuns || (dsRecord (descBytes desc) && s.lineHeld (quRingBase p 0 / 64 + n.toNat % ringSlots p 0)) then .next s
    else
      let d := descBytes desc
      let s := (s.noteRingFull cause.toNat).noteLost cause.toNat
      let a := quRingBase p 0 + 64 * (n.toNat % ringSlots p 0) + 48
      let s := if dsRecord d then s.engineStore a (s.completionRecord d cause.toNat flags) else s
      let good := cause == 0
      let s := if good then (if dsDoneEn d then s.raiseCtr (dsDoneCtr d) else s) else s.queueError q
      let x := s.dq q
      .next (s.setDq q (DQueue.idleEntry { x with
        qcount := if good then x.qcount + 1 else x.qcount
        take := x.take + 1
        started := rest
        state := if !good && quStop p 0 && x.state == 0 then 1 else x.state }))
  | _ => .next s

/-- OPERATION_TIMEOUT (R266, R267): an operation without an answer ends with CAUSE 0x0C and a U-class fault. On a NODE link
its time does not advance while LINK_TX_HOLD is asserted. -/
def execOperationTimeout (index : Nat) (s : State) : Host.Outcome State Fault Refusal :=
  match s.dk.ops[index]? with
  | some op =>
    let held := match op.route with | .link l => s.role l == 0 && s.txHold | .loop => false
    if !s.dockRuns || op.answer.isSome || held then .next s
    else .next ((s.opLost op 0x0C).detect (plainFault 0x22 op.route.inst))
  | none => .next s

-- Operations at their target (R252, R268) ------------------------------------------------------------------------------------------

/-- The position of the first arriving operation of a kind that no earlier operation of its link precedes (R268). -/
def firstArriving (kind : OpKind) : List ArrivingOp → List Route → Nat → Option Nat
  | [], _, _ => none
  | o :: t, seen, i =>
    if o.kind = kind ∧ ¬ seen.contains o.via then some i else firstArriving kind t (o.via :: seen) (i + 1)

/-- Take an arriving operation of a kind: the state without it, and the operation. One that passed its check waits while a slice
holds a line that it reads or stores for a quay program (R208). -/
def State.takeArriving (s : State) (kind : OpKind) : Option (State × ArrivingOp) :=
  if s.dockRuns && s.enabled .dock then
    match firstArriving kind s.dk.arriving [] 0 with
    | some i =>
      match s.dk.arriving[i]? with
      | some o =>
        let plain := kind == .read || (kind == .write && regAttr o.ent 0 == 0 && !regEntryEn o.ent 0)
        if o.cause == 0 && plain && s.rangeHeld o.addr.toNat o.len then none
        else some ({ s with dk := { s.dk with arriving := dropAt s.dk.arriving i } }, o)
      | none => none
    | none => none
  else none

/-- Updates go to the engines that own their lines. -/
def State.queueUpdates (s : State) (l : List LineUpdate) : State :=
  l.foldl (fun s u =>
    let n : SliceId := Fin.ofNat 16 (sliceOf u.line)
    let e := s.engine n
    s.setEngine n { e with updates := e.updates ++ [u] }) s

/-- An operation whose every part is applied at once ends. -/
def State.endsNow (s : State) (op : ArrivingOp) (fin : ServedEnd) : State :=
  s.servedEnds { id := 0, op := op, left := 0, flags := 0, cause := 0, fin := fin }

/-- An append or a write to a RING region waits at its owner (R231). -/
def State.queueAppend (s : State) (op : ArrivingOp) (fin : ServedEnd) : State :=
  let (s, id) := s.beginServing op 1 fin
  { s with dk := { s.dk with appends := s.dk.appends ++ [(id, op.region)] } }

/-- The element format of the updates of a write: A40 for a hawser result, else that of the region's profile (R226, R278). -/
def State.updateFmt (s : State) (op : ArrivingOp) (fin : ServedEnd) : Nat :=
  match fin with
  | .answer => prXfmt s.programs (regEntry op.ent 0)
  | .chain .. => 3

/-- A write that has passed its check acts under Table 1 of "Quay engines", by the region entry of its check: appended, added,
taken as launch records, or stored, and then it waits for the memory's acknowledgements (R260). -/
def State.applyWrite (s : State) (op : ArrivingOp) (fin : ServedEnd) : State :=
  let p := op.ent
  let a := op.addr.toNat
  if regAttr p 0 = 2 then s.queueAppend op fin
  else if regAttr p 0 = 1 then
    let l := lineUpdates op.region s.dk.nextId (s.updateFmt op fin) (prXscale s.programs (regEntry p 0)) a op.data
    if l.isEmpty then s.endsNow op fin else (s.beginServing op l.length fin).1.queueUpdates l
  else if regEntryEn p 0 then
    if op.data.len = 0 then s.endsNow op fin
    else
      let (s, id) := s.beginServing op (op.data.len / 128) fin
      let w : LaunchWrite := { op := id, entry := regEntry p 0, next := 0, addr := op.addr, data := op.data }
      { s with qy := { s.qy with waiting := s.qy.waiting ++ [w] } }
  else
    let s := if op.data.len = 0 then s else s.engineStore a op.data
    let lines := s.ackLines a op.data.len
    if lines.isEmpty then s.endsNow op fin
    else
      let (s, id) := s.beginServing op lines.length fin
      s.awaitAcks (.served id) lines

/-- ARRIVING_WRITE (R252, R260): the oldest arriving WRITE is refused, by what its check found, or applied. -/
def execArrivingWrite (s : State) : Host.Outcome State Fault Refusal :=
  match s.takeArriving .write with
  | some (s, op) => .next (if op.cause = 0 then s.applyWrite op .answer else s.finishOp op op.cause.toNat 0 Blob.empty)
  | none => .next s

/-- ARRIVING_READ (R252, R268): the oldest arriving READ is refused, or answered with its data. -/
def execArrivingRead (s : State) : Host.Outcome State Fault Refusal :=
  match s.takeArriving .read with
  | some (s, op) =>
    if op.cause ≠ 0 then .next (s.finishOp op op.cause.toNat 0 Blob.empty)
    else if op.len = 0 then .next (s.finishOp op 0 0 Blob.empty)
    else
      match s.engineBytes op.addr.toNat op.len with
      | some (b, false) => .next (s.finishOp op 0 0 b)
      | _ => .next (s.finishOp op 0x0A 0 Blob.empty)
  | none => .next s

/-- ARRIVING_APPEND (R252): the oldest arriving dispatch append is refused, or handed to its ring's owner. -/
def execArrivingAppend (s : State) : Host.Outcome State Fault Refusal :=
  match s.takeArriving .append with
  | some (s, op) => .next (if op.cause = 0 then s.queueAppend op .answer else s.finishOp op op.cause.toNat 0 Blob.empty)
  | none => .next s

end Sys2Proof.Machine
end

