-- ==== Sys2Proof/Machine/Links.lean ====
section
/-! DEFINITION. The link layer (R283-R303): bring-up, slots, credits and retry, reception, routing in transit, calibration
and the sleep machine. -/

namespace Sys2Proof.Machine

-- Flits as they leave and arrive (R283) ------------------------------------------------------------------------------------

/-- The 256 bytes of a flit: header, payload, CRC-32C, SEQ and ACK. -/
def encodeFlit (f : TxFlit) (seq ack : BitVec 16) : BitVec 2048 :=
  let front := f.head.toNat + f.payload.toNat * 2 ^ 64
  let word := seq.toNat + ack.toNat * 2 ^ 16
  let crc := ({ len := 252, bits := front + word * 2 ^ 1984 } : Blob).crc32c
  BitVec.ofNat 2048 (front + crc * 2 ^ 1984 + word * 2 ^ 2016)

/-- The header of a received flit. -/
def rxHead (f : BitVec 2048) : Word := BitVec.ofNat 64 f.toNat
/-- The payload of a received flit. -/
def rxPayload (f : BitVec 2048) : BitVec 1920 := BitVec.ofNat 1920 (f.toNat >>> 64)
/-- SEQ of a received flit. -/
def rxSeqOf (f : BitVec 2048) : BitVec 16 := BitVec.ofNat 16 (f.toNat >>> 2016)
/-- ACK of a received flit. -/
def rxAckOf (f : BitVec 2048) : BitVec 16 := BitVec.ofNat 16 (f.toNat >>> 2032)

/-- Whether a received flit's CRC is correct and its TYPE is not reserved (R284, R288). -/
def rxGood (f : BitVec 2048) : Bool :=
  let front := f.toNat % 2 ^ 1984
  let crc := (f.toNat >>> 1984) % 2 ^ 32
  let word := f.toNat >>> 2016
  ({ len := 252, bits := front + word * 2 ^ 1984 } : Blob).crc32c == crc && flType (rxHead f) < 10

/-- Whether a TYPE is sequenced (Table 6). -/
def sequenced (ty : Nat) : Bool := ty != tyIdle && ty != tyNak

-- Bring-up and retirement (R28, R289, R291) ----------------------------------------------------------------------------------

/-- Whether the link layer of a port runs. -/
def State.linkRuns (s : State) (n : LinkId) : Bool :=
  let k := s.link n
  s.linkClock && s.enabled .link && k.lpUp && (k.state == .bringUp || k.state == .up)

/-- The sleep machine of the active section, or the default one. -/
def State.sleepBody (s : State) : Blob := if s.hasSect secSleep then s.sect secSleep else defaultMachine

def smEnable (m : Blob) : Bool := m.field 0 0 1 == 1
def smAwake (m : Blob) : BitVec 4 := BitVec.ofNat 4 (m.field 2 0 4)
def smSlack (m : Blob) : BitVec 4 := BitVec.ofNat 4 (m.field 3 0 4)
def smEntry (m : Blob) (st : BitVec 4) (ev : Nat) : Nat := m.field (32 + 2 * (16 * st.toNat + ev)) 0 16

/-- A link that starts bring-up: nothing sent or received, every credit held, the machine in AWAKE_STATE. What waits to be sent on
it waits on (R267). -/
def State.startBringUp (s : State) (n : LinkId) : State :=
  let k := s.link n
  let m := s.sleepBody
  s.setLink n { Link.reset with
    lpUp := k.lpUp, state := .bringUp, tlink := k.tlink, rtt := k.rtt, replays := k.replays, crcFail := k.crcFail,
    machine := m, slState := smAwake m, out := k.out, txq := k.txq }

/-- A retired or fallen link forgets what it was sending and receiving; a link that is down only keeps what has not left yet. -/
def Link.silence (k : Link) (st : LinkState) : Link :=
  { k with
    state := st, txq := if st = .down then k.txq else [], ctlq := [], retry := [], replay := [], asm := [], rx := [], hold := false,
    nakDue := false, nakOpen := false }

/-- The kind of an OPK of VC0. -/
def opkKind (opk : Nat) : Option OpKind :=
  if opk = 1 then some .write else if opk = 2 then some .read else if opk = 3 then some .append else none

/-- An operation known by its header, for its check or an answer. -/
def headerOp (via : Route) (src : BitVec 15) (tag : BitVec 16) (h : Blob) (data : Blob) : ArrivingOp :=
  { region := 0, entry := 0, cause := 0, kind := (opkKind (h.byte 0)).getD .write, via := via, src := src, tag := tag,
    notify := h.field 1 0 1 == 1, note := BitVec.ofNat 16 (h.field 2 0 16), len := h.field 4 0 24,
    addr := BitVec.ofNat 48 (h.field 8 0 48), data := data }

/-- A receive buffer is freed: its credit is owed. -/
def State.oweCredit (s : State) (n : LinkId) (ix : Nat) : State :=
  let k := s.link n
  s.setLink n { k with owed := bumpAt k.owed ix 1 }

/-- The receive buffer that a flit held is freed. -/
def State.freeBuffer (s : State) (f : TxFlit) : State :=
  match f.from_ with
  | some (m, ix) => s.oweCredit m ix
  | none => s

/-- The transit operation of a flit that waits on a link: by its header where it is the first flit, else a write or an append, which
alone have further flits. -/
def TxFlit.transitOp (f : TxFlit) (m : LinkId) : ArrivingOp :=
  let h : Blob := if flFirst f.head then { len := 32, bits := f.payload.toNat % 2 ^ 256 } else Blob.empty
  headerOp (.link m) (flSrc f.head) (flTag f.head) h Blob.empty

/-- Whether two operations are the same one: their source and tag. -/
def ArrivingOp.same (a b : ArrivingOp) : Bool := a.src == b.src && a.tag == b.tag

/-- Keep the first of each operation. -/
def firstOfEach : List ArrivingOp → List ArrivingOp
  | [] => []
  | a :: t => a :: (firstOfEach t).filter fun b => !a.same b

/-- Answer the transit operations whose chosen link is retired (R294): those with a flit that still waits on it, and those that are
still arriving for it, whose further flits are dropped. The buffers of the flits that wait are freed. -/
def State.answerTransit (s : State) (n : LinkId) : State :=
  let flits := (s.link n).txq
  let waiting := flits.filterMap fun f =>
    match f.from_ with
    | some (m, _) => if flVc f.head = 0 then some (f.transitOp m) else none
    | none => none
  let coming := allLinks.flatMap fun m => ((s.link m).asm.filter fun r => r.dest == some n && !r.answer && !r.drop).map
    fun r => headerOp (.link m) r.src r.tag { len := 32, bits := r.head.toNat } Blob.empty
  let s := s.mapLinks fun _ k => { k with asm := k.asm.map fun r => if r.dest = some n then { r with drop := true } else r }
  let s := flits.foldl State.freeBuffer s
  (firstOfEach (waiting ++ coming)).foldl (fun s o => s.answerOp o 0x0B 0 Blob.empty) s

/-- What the retirement of a link does beside its fault (R289): STATE, cause 0x5, and the operations on it are lost (R266). -/
def State.dropLink (s : State) (n : LinkId) : State :=
  if (s.link n).state = .retired then s
  else
    let s := (s.setLink n { s.link n with state := .retired }).answerTransit n
    let s := (s.setLink n ((s.link n).silence .retired)).raiseCause 0x5
    (s.dk.ops.filter fun o => o.answer.isNone && o.route == .link n).foldl (fun s o =>
      (s.opLost o 0x0B).detect { plainFault 0x22 n.val with covered := true }) s

/-- Retire a link (R289), with its fault 0x20. -/
def State.retireLink (s : State) (n : LinkId) : State :=
  if (s.link n).state = .retired then s else (s.detect (plainFault 0x20 n.val)).dropLink n

/-- LPN_UP_RISE (R291): the pin rises; a link that is down starts bring-up while LINK is enabled. A retired link stays so. -/
def execLpnUpRise (link : LinkId) (s : State) : Host.Outcome State Fault Refusal :=
  let k := s.link link
  let s := s.setLink link { k with lpUp := true }
  .next (if !k.lpUp && s.linkClock && s.enabled .link && k.state == .down then s.startBringUp link else s)

/-- LPN_UP_FALL (R28, R289): the pin falls; a link that was up is retired, one in bring-up is down again. -/
def execLpnUpFall (link : LinkId) (s : State) : Host.Outcome State Fault Refusal :=
  let k := s.link link
  let s := s.setLink link { k with lpUp := false }
  .next (if k.state = .up then s.retireLink link
    else if k.state = .bringUp then s.setLink link ((s.link link).silence .down)
    else s)

/-- A link in bring-up is up once INIT and one calibration round trip have completed (R291). -/
def State.linkUpCheck (s : State) (n : LinkId) : State :=
  let k := s.link n
  if k.state == .bringUp && k.initRx && !k.lastT.isEmpty then s.setLink n { k with state := .up } else s

-- Sleep machine (R300-R303) --------------------------------------------------------------------------------------------------

/-- Whether an armed run uses a link: it leaves an own position on it. -/
def State.runUsesLink (s : State) (n : LinkId) : Bool :=
  let p := s.sect secHawser
  s.hw.chains.any fun c => c.2.armed && (match s.ownPos c.1 with
    | some i => i + 1 < chNpos p c.1 && elLink p (chFirst p c.1 + i) == n.val
    | none => false)

/-- The idle conditions other than the time (Table 12). -/
def State.linkIdle (s : State) (n : LinkId) : Bool :=
  let k := s.link n
  k.txq.isEmpty && k.retry.isEmpty && k.owed.all (· == 0) && k.asm.isEmpty && !s.runUsesLink n

/-- The TYPE that an action sends (Table 13). -/
def actionFlit (a : Nat) : Option (BitVec 4) :=
  if a = 1 then some 5 else if a = 2 then some 6 else if a = 3 then some 7 else if a = 4 then some 8
  else if a = 5 then some 9 else none

/-- The machine takes an event (R301, R302): a pair at 0x0000 does nothing; a stay that sends 16 WAKE retires the link. The
active machine takes over at an entry to AWAKE_STATE. -/
def State.sleepEvent (s : State) (n : LinkId) (ev : Nat) : State :=
  let k := s.link n
  let e := smEntry k.machine k.slState ev
  if !s.linkRuns n || e = 0 then s
  else
    let next : BitVec 4 := BitVec.ofNat 4 e
    let action := e / 16 % 16
    let moved := next != k.slState
    let wakes := (if moved then 0 else k.wakes) + (if action = 4 then 1 else 0)
    let awake := moved && next == smAwake k.machine
    let m := if awake then s.sleepBody else k.machine
    let k' : Link := { k with
      slState := if awake then smAwake m else next
      slTimer := BitVec.ofNat 2 (e / 256)
      machine := m
      wakes := wakes
      slStop := if action = 2 ∨ action = 6 then true else if action = 5 ∨ action = 7 then false else k.slStop
      ctlq := match actionFlit action with | some t => k.ctlq ++ [t] | none => k.ctlq }
    let s := s.setLink n k'
    if 16 ≤ wakes then s.retireLink n else s

/-- IDLE (R301): event 0x0, while the machine enables it and the idle conditions hold. -/
def execIdle (link : LinkId) (s : State) : Host.Outcome State Fault Refusal :=
  .next (if smEnable (s.link link).machine && s.linkIdle link then s.sleepEvent link 0 else s)

/-- SLEEP (R301): the SLEEP flit is event 0x2 while the idle conditions hold, else 0x1. -/
def execSleep (link : LinkId) (s : State) : Host.Outcome State Fault Refusal :=
  .next (s.sleepEvent link (if s.linkIdle link then 2 else 1))

/-- AGREE (R301): event 0x3. -/
def execAgree (link : LinkId) (s : State) : Host.Outcome State Fault Refusal := .next (s.sleepEvent link 3)

/-- DENY (R301): event 0x4. -/
def execDeny (link : LinkId) (s : State) : Host.Outcome State Fault Refusal := .next (s.sleepEvent link 4)

/-- TX_PEND (R301): event 0x5, while a VC0-VC2 flit waits or a harbour closing is in its drain. -/
def execTxPend (link : LinkId) (s : State) : Host.Outcome State Fault Refusal :=
  .next (if !(s.link link).txq.isEmpty || s.si.harbour == .drain then s.sleepEvent link 5 else s)

/-- WAKE (R301): event 0x6. -/
def execWake (link : LinkId) (s : State) : Host.Outcome State Fault Refusal := .next (s.sleepEvent link 6)

/-- WAKEACK (R301): event 0x7. -/
def execWakeack (link : LinkId) (s : State) : Host.Outcome State Fault Refusal := .next (s.sleepEvent link 7)

/-- SLEEP_TIMER (R301): the running timer expires, event 0x8. -/
def execSleepTimer (link : LinkId) (s : State) : Host.Outcome State Fault Refusal :=
  let k := s.link link
  .next (if k.slTimer = 0 then s else (s.setLink link { k with slTimer := 0 }).sleepEvent link 8)

/-- CAL_DUE (R301): event 0x9, in SLACK_STATE. -/
def execCalDue (link : LinkId) (s : State) : Host.Outcome State Fault Refusal :=
  let k := s.link link
  .next (if k.slState = smSlack k.machine then s.sleepEvent link 9 else s)

-- Transmission (R286-R288) ---------------------------------------------------------------------------------------------------

/-- The position and the flit of the first flit that waits on a virtual channel and rank. -/
def firstOn (vc rank : Nat) : List TxFlit → Nat → Option (Nat × TxFlit)
  | [], _ => none
  | f :: t, i => if flVc f.head = vc ∧ (2 ≤ vc ∨ flRank f.head = rank) then some (i, f) else firstOn vc rank t (i + 1)

/-- Whether a flit waits on a virtual channel and rank with a credit. -/
def Link.canSend (k : Link) (vc rank : Nat) : Bool :=
  0 < k.credit.getD (creditIx vc rank) 0 && (firstOn vc rank k.txq 0).isSome

/-- The rank that VC0 or VC1 sends next: one that 15 flits of higher ranks have passed, else the highest. -/
def Link.pickRank (k : Link) (vc : Nat) : Option Nat :=
  let ready := [3, 2, 1, 0].filter (k.canSend vc)
  match ready.reverse.find? fun r => 15 ≤ (aget (creditIx vc r) k.lowRun).getD 0 with
  | some r => some r
  | none => ready.head?

/-- The virtual channel and rank of the next data flit (R287). -/
def Link.pickData (k : Link) : Option (Nat × Nat) :=
  let v0 := (k.pickRank 0).map fun r => (0, r)
  let v1 := (k.pickRank 1).map fun r => (1, r)
  let v2 := if k.canSend 2 0 then some (2, 0) else none
  if 15 ≤ k.vc1Run && v0.isSome then v0
  else if 15 ≤ k.vc2Run && (v1.isSome || v0.isSome) then (if v1.isSome then v1 else v0)
  else if v2.isSome then v2
  else if v1.isSome then v1
  else v0

/-- The counts of R287 after a data flit leaves. -/
def Link.afterData (k : Link) (vc rank : Nat) : Link :=
  let v0Waits := (k.pickRank 0).isSome
  let lower := [0, 1, 2, 3].filter fun r => r < rank && (firstOn vc r k.txq 0).isSome
  let runs := if vc = 2 then k.lowRun
    else lower.foldl (fun l r => aput (creditIx vc r) ((aget (creditIx vc r) l).getD 0 + 1) l)
      (adel (creditIx vc rank) k.lowRun)
  { k with
    lowRun := runs
    vc2Run := if vc = 2 then k.vc2Run + 1 else 0
    vc1Run := if vc = 0 then 0 else if vc = 1 then (if v0Waits then k.vc1Run + 1 else 0) else k.vc1Run }

/-- A header with the credits that are due: those of the first channel and rank that has any, at most 31. -/
def Link.withCredits (k : Link) (h : Word) : Word × Link :=
  match (List.range 10).find? fun i => 0 < k.owed.getD i 0 with
  | some i =>
    let n := Nat.min 31 (k.owed.getD i 0)
    let cvc := if i < 4 then 0 else if i < 8 then 1 else i - 6
    let crank := if i < 8 then i % 4 else 0
    (h ||| BitVec.ofNat 64 (n * 2 ^ 51 + cvc * 2 ^ 56 + crank * 2 ^ 58),
      { k with owed := setAt k.owed i (k.owed.getD i 0 - n) })
  | none => (h, k)

/-- ACK of the next flit: the last sequence received. -/
def Link.ackField (k : Link) : BitVec 16 := k.rxSeq - 1

/-- Send an unsequenced flit. -/
def Link.sendPlain (k : Link) (f : TxFlit) (seq : BitVec 16) : Link :=
  let (h, k) := k.withCredits f.head
  { k with out := encodeFlit { f with head := h } seq k.ackField }

/-- Send a sequenced flit: it takes a credit and a place in the retry buffer. -/
def Link.sendSeq (k : Link) (f : TxFlit) (ix : Nat) : Link :=
  let (h, k) := k.withCredits f.head
  let f : TxFlit := { f with head := h }
  { k with
    out := encodeFlit f k.txSeq k.ackField
    retry := k.retry ++ [(k.txSeq, f)]
    txSeq := k.txSeq + 1
    credit := setAt k.credit ix (k.credit.getD ix 0 - 1) }

/-- The flit that a link sends in a slot in which nothing else has priority over it. -/
inductive Due where
  | marker | nak | replay | control (ty : BitVec 4) | data (vc rank : Nat) | idle | silent
deriving DecidableEq, Repr

/-- What the slot goes to (R287, R288, R300): replayed flits go before new sequenced ones; a full retry buffer leaves only
unsequenced flits; a stopped link sends only NAK, replays and VC3 control. -/
def State.slotDue (s : State) (n : LinkId) : Due :=
  let k := s.link n
  let room := k.retry.length < 64 && k.replay.isEmpty
  let vc3 := room && 0 < k.credit.getD 9 0
  let role := s.role n
  let data := room && k.state == .up && role != 2 && k.slState == smAwake k.machine && !(role == 0 && s.txHold)
  if !k.slStop && k.slot == 0 && vc3 then .marker
  else if k.nakDue then .nak
  else if !k.replay.isEmpty then .replay
  else if vc3 && !k.ctlq.isEmpty then .control (k.ctlq.headD 0)
  else if k.slStop then .silent
  else if vc3 && k.state == .bringUp then .control 4
  else if data then (match k.pickData with | some (vc, r) => .data vc r | none => .idle)
  else .idle

/-- The payload of a control flit: an INIT carries the node id and the role (log entry 48). -/
def State.controlPayload (s : State) (n : LinkId) (ty : Nat) : BitVec 1920 :=
  if ty = tyInit then BitVec.ofNat 1920 (s.si.nodeId.toNat + s.role n * 2 ^ 16) else 0

/-- A data flit has left: the counter that it raises (R260), and the receive buffer that it held. -/
def State.flitLeft (s : State) (f : TxFlit) : State :=
  let s := match f.note with
    | some c => s.raiseCtr c
    | none => s
  s.freeBuffer f

/-- The flit of a slot is put on the LPn_TX signals (R287): beat 0 waits there while READY is low. Every slot counts (R297). -/
def State.sendSlot (s : State) (n : LinkId) (now : Word) (ready : Bool) : State :=
  let k := s.link n
  let k1 : Link := { k with slot := k.slot + 1, hold := !ready }
  let quiet := s
  let s := { s with pins := { s.pins with lpTx := setBit s.pins.lpTx n.val true } }
  match quiet.slotDue n with
  | .silent => quiet.setLink n { k with slot := k.slot + 1 }
  | .marker =>
    let payload : BitVec 1920 := BitVec.ofNat 1920 (now.toNat + k.lastTx.toNat * 2 ^ 64 + k.lastRx.toNat * 2 ^ 128)
    s.setLink n (k1.sendSeq { head := ctlHead tyMarker, payload := payload } 9)
  | .nak => s.setLink n ({ k1 with nakDue := false }.sendPlain { head := ctlHead tyNak, payload := 0 } k.rxSeq)
  | .replay =>
    match k.replay with
    | (q, f) :: rest => s.setLink n { k1 with replay := rest, out := encodeFlit f q k.ackField }
    | [] => s
  | .control ty =>
    let k2 : Link := { k1 with ctlq := k.ctlq.drop 1 }
    let f : TxFlit := { head := ctlHead ty.toNat, payload := s.controlPayload n ty.toNat }
    s.setLink n (k2.sendSeq f 9)
  | .data vc rank =>
    match firstOn vc rank k.txq 0 with
    | some (i, f) =>
      let k2 := { k1 with txq := dropAt k.txq i }.afterData vc rank
      (s.setLink n (k2.sendSeq f (creditIx vc rank))).flitLeft f
    | none => s
  | .idle => s.setLink n (k1.sendPlain { head := ctlHead tyIdle, payload := 0 } (Config.idleSeq k.txSeq))

-- Acknowledgement and replay (R288, R289) ------------------------------------------------------------------------------------

/-- A cumulative ACK frees the retry buffer up to a sequence number. -/
def Link.acked (k : Link) (ack : BitVec 16) : Link :=
  let keep (q : BitVec 16) : Bool := 2 ^ 15 ≤ (ack - q).toNat
  { k with retry := k.retry.filter fun e => keep e.1, replay := k.replay.filter fun e => keep e.1 }

/-- A NAK (R288, R289): everything from the SEQ it names is replayed; 16 replays of one SEQ in a row retire the link. -/
def State.takeNak (s : State) (n : LinkId) (seq : BitVec 16) : State :=
  let k := (s.link n).acked (seq - 1)
  let runs := if k.replaySq = seq then k.replayN + 1 else 1
  let s := s.setLink n { k with replay := k.retry, replaySq := seq, replayN := runs, replays := satInc k.replays }
  if 16 ≤ runs then s.retireLink n else s

/-- NAK_RECEIVE (R288): the reception of a NAK that names a SEQ. -/
def execNakReceive (link : LinkId) (seq : BitVec 16) (s : State) : Host.Outcome State Fault Refusal :=
  if s.linkRuns link then .next (s.takeNak link seq) else .next s

-- INIT and calibration (R291, R297-R299) ---------------------------------------------------------------------------------------

/-- An INIT: the wrong identity is fault 0x21 and holds the link in bring-up. -/
def State.takeInit (s : State) (n : LinkId) (node : BitVec 15) : State :=
  let k := s.link n
  if s.role n = 1 ∧ linkPeer s.linkPlan n.val ≠ node.toNat then
    s.detect { plainFault 0x21 n.val with covered := true }
  else (s.setLink n { k with initRx := true }).linkUpCheck n

/-- INIT_RECEIVE (R291): the reception of an INIT. The identity is the node id; the role that it carries decides nothing. -/
def execInitReceive (link : LinkId) (node : BitVec 15) (_role : BitVec 2) (s : State) : Host.Outcome State Fault Refusal :=
  if s.linkRuns link then .next (s.takeInit link node) else .next s

/-- The hop count out of this block for a round trip: the lower node id's direction takes the larger half, and so does the
block's on a link without a FABRIC far end (R298). -/
def State.hopOut (s : State) (n : LinkId) (r : Nat) : BitVec 16 :=
  let low := s.role n != 1 || s.si.nodeId.toNat < linkPeer s.linkPlan n.val
  BitVec.ofNat 16 (if low then (r + 1) / 2 else r / 2)

/-- A marker (R297-R299): from one that names an earlier marker of this block, the round trip and the hop count. -/
def State.takeMarker (s : State) (n : LinkId) (tTx pTx pRx now : Word) : State :=
  let k := { s.link n with lastTx := tTx, lastRx := now }
  if pTx = 0 ∧ pRx = 0 then s.setLink n k
  else
    let r := ((now - pTx) - (tTx - pRx)).toNat
    let t := s.hopOut n r
    let lasts := (t :: k.lastT).take 4
    let use := if s.ck.source = .refLocal then lasts.foldl (fun a b => if a.toNat < b.toNat then b else a) 0
      else if k.lastT.head? = some t then t else k.tlink
    let changed := use != k.tlink
    let s := (s.setLink n { k with rtt := BitVec.ofNat 16 r, lastT := lasts, tlink := use }).linkUpCheck n
    if changed then s.raiseCause 0x2 else s

/-- MARKER_RECEIVE (R298): the reception of a calibration marker. -/
def execMarkerReceive (link : LinkId) (tTx pTx pRx now : Word) (s : State) : Host.Outcome State Fault Refusal :=
  if s.linkRuns link then .next (s.takeMarker link tTx pTx pRx now) else .next s

-- Reception of operations and answers (R285, R293, R294) ------------------------------------------------------------------------

/-- The data bytes that follow an operation header. -/
def headerData (h : Blob) : Nat := if h.byte 0 = 2 ∨ h.byte 0 = 4 ∨ h.byte 0 = 0 ∨ 6 ≤ h.byte 0 then 0 else h.field 4 0 24

/-- The bytes of a reassembly's header. -/
def Reassembly.hdr (r : Reassembly) : Blob := { len := 32, bits := r.head.toNat }

/-- The operation of a reassembly with what its check found. -/
def Reassembly.op (r : Reassembly) (n : LinkId) : ArrivingOp :=
  { headerOp (.link n) r.src r.tag r.hdr r.data with region := r.region, entry := r.entry, cause := r.cause }

/-- Deliver a whole operation or answer to this block. -/
def State.deliver (s : State) (n : LinkId) (r : Reassembly) : State :=
  if r.answer then
    if r.hdr.byte 0 = 4 ∨ r.hdr.byte 0 = 5 then
      let a : Answer := { route := .link n, src := r.src, tag := r.tag, isRead := r.hdr.byte 0 == 5,
                          cause := BitVec.ofNat 8 (r.hdr.byte 17), flags := BitVec.ofNat 3 (r.hdr.field 18 0 3), data := r.data }
      { s with dk := { s.dk with answers := s.dk.answers ++ [a] } }
    else s
  else { s with dk := { s.dk with arriving := s.dk.arriving ++ [r.op n] } }

/-- Keep or replace a reassembly; a whole one is delivered, unless it was forwarded or dropped. -/
def State.assemble (s : State) (n : LinkId) (rest : List Reassembly) (r : Reassembly) : State :=
  let k := s.link n
  if headerData r.hdr ≤ r.data.len then
    let s := s.setLink n { k with asm := rest }
    if r.dest.isSome || r.drop then s else s.deliver n r
  else s.setLink n { k with asm := rest ++ [r] }

/-- A received flit as it is forwarded with a rank: it holds its receive buffer until it leaves (R286). -/
def transitFlit (n : LinkId) (h : Word) (payload : BitVec 1920) (out : Nat) : TxFlit :=
  { head := withRank (h &&& 0xF007FFFFFFFFFFFF) out, payload := payload, from_ := some (n, creditIx (flVc h) (flRank h)) }

/-- The first flit of an operation for this block is checked (R252); an OPK that is reserved has CAUSE 0x08 (Table 7). An operation
that fails is to be answered at once, and its further flits are discarded. -/
def State.takeOwn (s : State) (n : LinkId) (r : Reassembly) : State :=
  let asm := (s.link n).asm
  if r.answer then s.assemble n asm r
  else
    let op := s.checked (headerOp (.link n) r.src r.tag r.hdr r.data) false
    let op := if (opkKind (r.hdr.byte 0)).isSome then op else { op with cause := 8 }
    let r := { r with region := op.region, entry := op.entry, cause := op.cause }
    if op.cause = 0 then s.assemble n asm r else (s.deliver n { r with data := Blob.empty }).assemble n asm { r with drop := true }

/-- The first flit of an operation or answer: for this block, or routed on (R293, R294). -/
def State.takeFirst (s : State) (n : LinkId) (h : Word) (payload : BitVec 1920) : State :=
  let head : Blob := { len := 32, bits := payload.toNat % 2 ^ 256 }
  let len := Nat.min 208 (headerData head)
  let data : Blob := { len := len, bits := (payload.toNat >>> 256) % 2 ^ (8 * len) }
  let answer := flVc h == 1
  let r : Reassembly := { out := 0, region := 0, entry := 0, cause := 0, src := flSrc h, tag := flTag h, answer := answer,
                          head := BitVec.ofNat 256 head.bits, data := data, dest := none, drop := false }
  let ix := creditIx (flVc h) (flRank h)
  if flDest h = s.si.nodeId then (s.takeOwn n r).oweCredit n ix
  else
    let rank := if s.role n = 0 then 0 else flRank h
    match s.routeTo (flDest h) (flSrc h) (flTag h) rank with
    | some (m, out) =>
      let s := s.queueFlits m [transitFlit n h payload out]
      s.assemble n (s.link n).asm { r with dest := some m, out := out }
    | none =>
      let s := (s.assemble n (s.link n).asm { r with drop := true }).oweCredit n ix
      if answer then s else s.answerOp (headerOp (.link n) (flSrc h) (flTag h) head Blob.empty) 4 0 Blob.empty

/-- A further flit of an operation or answer: it follows the first, on the link and with the rank that the first took (R293). -/
def State.takeMore (s : State) (n : LinkId) (h : Word) (payload : BitVec 1920) : State :=
  let asm := (s.link n).asm
  let mine (r : Reassembly) : Bool := r.src == flSrc h && r.tag == flTag h && r.answer == (flVc h == 1)
  let ix := creditIx (flVc h) (flRank h)
  match asm.find? mine with
  | some r =>
    let rest := asm.filter fun x => !mine x
    let want := headerData r.hdr - r.data.len
    let len := Nat.min 240 want
    let data := r.data.append { len := len, bits := payload.toNat % 2 ^ (8 * len) }
    match r.dest with
    | some m =>
      let s := if r.drop then s.oweCredit n ix else s.queueFlits m [transitFlit n h payload r.out]
      s.assemble n rest { r with data := data }
    | none => (s.assemble n rest { r with data := data }).oweCredit n ix
  | none => s.oweCredit n ix

/-- A VC0 or VC1 flit leaves its receive buffer: consumed or forwarded. -/
def State.takeData (s : State) (n : LinkId) (f : BitVec 2048) : State :=
  if flFirst (rxHead f) then s.takeFirst n (rxHead f) (rxPayload f) else s.takeMore n (rxHead f) (rxPayload f)

/-- Whether an engine cannot take the data of an operation being served: its merge entries, its request entries or the launch queue
are full (R268). -/
def State.engineFull (s : State) (id : Nat) : Bool :=
  (64 ≤ s.qy.launches.length && s.qy.waiting.any (·.op == id)) ||
    (List.range 16).any fun i =>
      let n : SliceId := Fin.ofNat 16 i
      (s.engine n).updates.any (·.op == id) && (64 ≤ (s.engine n).merge.length || 512 ≤ s.ports[n].length)

/-- Whether the dock has stopped taking VC0 flits of a link (R268): an operation of it waits to be applied, or is held up by an
engine. -/
def State.dockFull (s : State) (n : LinkId) : Bool :=
  s.dk.arriving.any (fun o => o.via == .link n && o.cause == 0) ||
    s.dk.serving.any fun x => x.op.via == .link n && s.engineFull x.id

/-- The dock takes the flits that stayed in a link's receive buffers, until it must stop again. -/
def State.drainRx (s : State) (n : LinkId) : Nat → State
  | 0 => s
  | k + 1 =>
    match (s.link n).rx with
    | f :: rest => if s.dockFull n then s else ((s.setLink n { s.link n with rx := rest }).takeData n f).drainRx n k
    | [] => s

/-- The hawser frame of a VC2 flit (Table 3). -/
def frameOf (n : LinkId) (h : Word) (payload : BitVec 1920) : HwFrame :=
  { chain := bitsNat h 13 4, frame := bitsNat h 40 14, pos := bitsNat h 49 41, poison := bitAt h 50, via := some n,
    cells := (List.range 48).map fun c => BitVec.ofNat 40 (payload.toNat >>> (40 * c)) }

/-- FLIT_SLOT (R26, R287): one slot. With READY low the flit's beat 0 is held unchanged, and the slot ends when READY is high. The
dock takes the flits of the link that it can take again first (R268). -/
def execFlitSlot (link : LinkId) (ready : Bool) (now : Word) (s : State) : Host.Outcome State Fault Refusal :=
  if !s.linkRuns link then .next s
  else
    let s := s.drainRx link 128
    let k := s.link link
    if k.hold then .next (if ready then s.setLink link { k with hold := false } else s)
    else .next (s.sendSlot link now ready)

/-- An accepted flit takes its effect: data is consumed or forwarded, or stays in its receive buffer while the dock takes none
(R268); control flits act, and the machine takes RX_OTHER for a sequenced flit that has no event of its own. -/
def State.takeFlit (s : State) (n : LinkId) (f : BitVec 2048) (now : Word) : State :=
  let h := rxHead f
  let payload := rxPayload f
  let ty := flType h
  let vc := flVc h
  if ty = tyData then
    let s := s.sleepEvent n 10
    if vc = 2 then { s with hw := { s.hw with frames := s.hw.frames ++ [frameOf n h payload] } }
    else if vc = 3 then s
    else
      let s := s.drainRx n 128
      if vc = 0 && flDest h == s.si.nodeId && (s.dockFull n || !(s.link n).rx.isEmpty) then
        s.setLink n { s.link n with rx := (s.link n).rx ++ [f] }
      else s.takeData n f
  else
    let word (i : Nat) : Word := BitVec.ofNat 64 (payload.toNat >>> (64 * i))
    let t :=
      if ty = tyMarker then (s.sleepEvent n 10).takeMarker n (word 0) (word 1) (word 2) now
      else if ty = tyInit then (s.sleepEvent n 10).takeInit n (BitVec.ofNat 15 payload.toNat)
      else if ty = tySleep then s.sleepEvent n (if s.linkIdle n then 2 else 1)
      else s.sleepEvent n (if ty < tyWake then ty - 3 else ty - 2)
    t.oweCredit n 9

/-- Credits and ACK of a flit whose CRC is correct. -/
def Link.takeCredits (k : Link) (h : Word) (ack : BitVec 16) : Link :=
  let k := k.acked ack
  { k with credit := bumpAt k.credit (creditIx (flCvc h) (flCrank h)) (flCredits h) }

/-- A discarded flit: CRC_FAIL, a C-class fault, and one NAK for the episode (R288). -/
def State.discardFlit (s : State) (n : LinkId) : State :=
  let k := s.link n
  let s := s.setLink n { k with crcFail := satInc k.crcFail, nakDue := k.nakDue || !k.nakOpen, nakOpen := true }
  s.detect { plainFault 0x1F n.val with covered := k.nakOpen }

/-- FLIT_RECEIVE (R27, R28, R288): the flit is accepted, or discarded for its CRC, its TYPE or its SEQ. A partial flit, ended by
a misplaced FIRST, counts as a CRC failure. -/
def execFlitReceive (link : LinkId) (framed : Bool) (flit : BitVec 2048) (now : Word) (s : State) :
    Host.Outcome State Fault Refusal :=
  if !s.linkRuns link then .next s
  else
    let k := s.link link
    let h := rxHead flit
    let ty := flType h
    if !framed || !rxGood flit then .next (s.discardFlit link)
    else if sequenced ty then
      if rxSeqOf flit = k.rxSeq then
        let k := (k.takeCredits h (rxAckOf flit))
        let s := s.setLink link { k with rxSeq := k.rxSeq + 1, nakOpen := false, nakDue := false }
        .next (s.takeFlit link flit now)
      else .next (s.discardFlit link)
    else
      let s := s.setLink link (k.takeCredits h (rxAckOf flit))
      .next (if ty = tyNak then s.takeNak link (rxSeqOf flit) else s)

end Sys2Proof.Machine
end

