-- ==== Sys2Proof/Machine/Hawser.lean ====
section
/-! DEFINITION. Hawser chains (R272-R282): arming, operands, frames and results. -/

namespace Sys2Proof.Machine

/-- Whether a position is armed (R275): it has entered the run, DOCK is enabled, and its START_CTR still stands where it arms. -/
def State.isArmed (s : State) (i : Nat) : Bool :=
  let x := s.chain i
  x.armed && s.enabled .dock && ctrReached (s.ctr (chStartCtr s.hawserPlan i)) (x.runs + 1)

/-- Whether the hawser unit works: its domains run and it is enabled. -/
def State.hawserRuns (s : State) : Bool := s.dockRuns && s.quayRuns && s.enabled .hawser

/-- RUN_ARM (R275): the own position is armed once START_CTR has reached RUNS + 1. A run without cells is complete. -/
def execRunArm (chain : ChainId) (s : State) : Host.Outcome State Fault Refusal :=
  let p := s.hawserPlan
  let i := chain.val
  let x := s.chain i
  if s.hawserRuns && !s.bw.fStop && s.enabled .dock && chValid p i && !x.armed &&
      ctrReached (s.ctr (chStartCtr p i)) (x.runs + 1) then
    match s.ownPos i with
    | some pos =>
      if chNcells p i = 0 then
        if pos = 0 ∧ s.pastStop = true then .next s
        else .next ((s.setChain i { x with runs := x.runs + 1 }).raiseCtr (chDoneCtr p i))
      else .next (s.setChain i { x with armed := true, frame := 0, operands := [], writes := [] })
    | none => .next s
  else .next s

/-- The element size and decoder of IN_FMT (R276). -/
def inSize (fmt : Nat) : Nat := if fmt ≤ 1 then 2 else if fmt = 2 then 4 else 5

/-- One operand element as A40, decoded exactly. -/
def inDecode (fmt raw : Nat) : Cell40 :=
  if fmt = 3 then BitVec.ofNat 40 raw
  else toA40 ((if fmt = 0 then fmtBF16 else if fmt = 1 then fmtB16 else fmtB32).decode raw)

/-- Whether the strand of a braid position has written a frame of the run that the braid is in, acknowledged (R276, R278). -/
def State.strandWrote (s : State) (braid : HwChain) (strand f : Nat) : Bool :=
  let y := s.chain strand
  ctrReached y.runs (braid.runs + 1) || (y.runs == braid.runs && y.armed && f < y.frame && !y.writes.contains f)

/-- OPERAND_READ (R282): the next frame of operands of an armed position, while fewer than 16 are buffered. -/
def execOperandRead (chain : ChainId) (s : State) : Host.Outcome State Fault Refusal :=
  let p := s.hawserPlan
  let i := chain.val
  let x := s.chain i
  match s.ownPos i with
  | some pos =>
    let f := x.frame + x.operands.length
    let e := chElem p i pos
    let braid := chBraid p i
    let fmt := if braid then 3 else chInFmt p i
    let base := if braid then chResult p (elStrand p e) else elOperand p e
    let n := chCells p i f
    let a := base + inSize fmt * 48 * f
    if !s.hawserRuns || !s.isArmed i || 16 ≤ x.operands.length || chFrames p i ≤ f || s.rangeHeld a (inSize fmt * n) ||
        (s.bw.fStop && x.frame == 0 && pos == 0) || (braid && !s.strandWrote x (elStrand p e) f) then .next s
    else
      match s.engineBytes a (inSize fmt * n) with
      | some (b, false) =>
        let cells := (List.range 48).map fun c =>
          if c < n then inDecode fmt (b.field (inSize fmt * c) 0 (8 * inSize fmt)) else 0
        .next (s.setChain i { x with operands := x.operands ++ [(f, false, cells)] })
      | _ =>
        let s := s.setChain i { x with operands := x.operands ++ [(f, true, List.replicate 48 0)] }
        .next (s.chainError i pos a 1)
  | none => .next s

/-- Send a frame to the next position (R280, Table 3). -/
def State.sendFrame (s : State) (i pos f : Nat) (poison : Bool) (cells : List Cell40) : State :=
  let p := s.hawserPlan
  let head : Word := BitVec.ofNat 64 (2 + 4 * b2n (f == 0) + 8 * b2n (f + 1 == chFrames p i) + i * 2 ^ 4 + f * 2 ^ 14 +
    pos * 2 ^ 41 + b2n poison * 2 ^ 50 + tyData * 2 ^ 60)
  let payload := cells.foldr (fun c acc => c.toNat + acc * 2 ^ 40) 0
  s.queueFlits (Fin.ofNat 48 (elLink p (chElem p i pos))) [{ head := head, payload := BitVec.ofNat 1920 payload }]

/-- FRAME_LAUNCH (R275): position 0 sends the next frame of an armed run. A run that has not begun at the stop edge does not
begin (R348), nor one that an F-class fault finds so (R321). -/
def execFrameLaunch (chain : ChainId) (s : State) : Host.Outcome State Fault Refusal :=
  let i := chain.val
  let x := s.chain i
  match s.ownPos i, aget x.frame x.operands with
  | some 0, some (bad, cells) =>
    if !s.hawserRuns || !s.isArmed i || (x.frame == 0 && (s.pastStop || s.bw.fStop)) then .next s
    else .next ((s.sendFrame i 0 x.frame bad cells).frameDone i)
  | _, _ => .next s

/-- The bytes of a frame's cells in RES_FMT, OSAT IEEE and FZOUT 0 (R278); a strand's are A40. -/
def resultBytes (fmt : Nat) (cells : List Cell40) : Blob :=
  let z := if fmt = 0 then 5 else if fmt = 1 then 4 else 2
  let one (c : Cell40) : Nat :=
    if fmt = 0 then c.toNat else (convertOut (OutFmt.bin (if fmt = 1 then fmtB32 else fmtBF16)) false 0 (a40 c)).1
  { len := z * cells.length, bits := cells.foldr (fun c acc => one c + acc * 2 ^ (8 * z)) 0 }

/-- The arriving hawser result write of a frame at the last position (R278): A40 cells into an EXACT_ACC region, 8 bytes of region
for each; else RES_FMT. -/
def State.resultOp (s : State) (i f : Nat) (cells : List Cell40) : ArrivingOp :=
  let p := s.hawserPlan
  let rp := s.regions
  let cells := cells.take (chCells p i f)
  let exact := match findRegion rp (chResult p i) with | some r => regAttr rp r == 1 | none => false
  let data := resultBytes (if exact then 0 else chResFmt p i) cells
  let z := if exact then 8 else data.len / Nat.max 1 cells.length
  { region := 0, entry := 0, cause := 0, kind := .write, via := .loop, src := s.si.nodeId, tag := 0, notify := false, note := 0,
    len := data.len, addr := BitVec.ofNat 48 (chResult p i + z * 48 * f), data := data }

/-- Write a frame's result (R278, R279): it passes the check of R252 and is then applied as an arriving write; the frame is written
once every line is acknowledged. -/
def State.writeResult (s : State) (i f : Nat) (cells : List Cell40) : State :=
  let op := s.checked (s.resultOp i f cells) true
  let x := s.chain i
  let s := s.setChain i { x with writes := x.writes ++ [f] }
  if op.cause = 0 then s.applyWrite op (.chain i f) else s.chainWritten i f op.cause.toNat

/-- Whether a slice holds a line that the result of a frame is stored to (R208). -/
def State.resultHeld (s : State) (i f : Nat) : Bool :=
  let op := s.resultOp i f (List.replicate 48 0)
  s.rangeHeld op.addr.toNat op.len

/-- The frame at a position among those waiting, when no earlier one of its chain waits before it. -/
def State.waitingFrame (s : State) (index : Nat) : Option HwFrame :=
  match s.hw.frames[index]? with
  | some f => if (s.hw.frames.take index).any (·.chain == f.chain) then none else some f
  | none => none

/-- HAWSER_FRAME (R276, R278, R279): an armed position takes its next frame, adds its operands unless the frame is poisoned,
and forwards it or, at the last position, writes it. The receive buffer of the frame is freed. -/
def execHawserFrame (index : Nat) (s : State) : Host.Outcome State Fault Refusal :=
  let p := s.hawserPlan
  match s.waitingFrame index with
  | some fr =>
    let i := fr.chain
    let x := s.chain i
    match s.ownPos i, aget x.frame x.operands with
    | some (pos + 1), some (bad, own) =>
      if !s.hawserRuns || !s.isArmed i || fr.frame != x.frame || (pos + 2 == chNpos p i && s.resultHeld i x.frame) then .next s
      else
        let s := { s with hw := { s.hw with frames := dropAt s.hw.frames index } }
        let s := match fr.via with | some n => s.oweCredit n 8 | none => s
        let poison := fr.poison || bad
        let sums := List.zipWith (fun a b => fmtA40.add (a40 a) (a40 b)) fr.cells own
        let cells := if poison then fr.cells else sums.map fun (v : Num × Bool) => toA40 v.1
        let sat := !poison && sums.any (·.2)
        let s := if sat then s.setChain i { x with sat := true } else s
        if pos + 2 < chNpos p i then .next ((s.sendFrame i (pos + 1) x.frame poison cells).frameDone i)
        else if poison then .next (s.frameDone i)
        else
          .next ((s.writeResult i x.frame cells).frameDone i)
    | _, _ => .next s
  | none => .next s

end Sys2Proof.Machine
end

