-- ==== Sys2Proof/Machine/Clocks.lean ====
section
/-! DEFINITION. Clocks, references and supply events (R305-R318): selection, the drift monitor, dividers, supply episodes,
and the resets that hold the whole block (R57, R306, R317). -/

namespace Sys2Proof.Machine

/-- Whether the root runs: locked, and the block not held in reset (R306, R317). -/
def State.rootRuns (s : State) : Bool := !s.porst && !s.supHold && s.rootLocked

/-- Update the clock unit. -/
def State.mapCk (s : State) (f : Clocks → Clocks) : State := { s with ck := f s.ck }

-- References (R308-R310) ---------------------------------------------------------------------------------------------------

/-- Whether a link reference is present and not marked bad. -/
def Clocks.good (k : Clocks) (n : Nat) : Bool := bitAt k.present n && !bitAt k.bad n

/-- The candidates in the order in which the alternate is sought: those after the selected link, then those before it. -/
def candOrder (cand : List Nat) (sel : RefSource) : List Nat :=
  match sel with
  | .link n =>
    let after := (cand.dropWhile (· != n.val)).drop 1
    after ++ cand.takeWhile (· != n.val)
  | _ => cand

/-- The alternate A, or the first candidate that may be selected: present, not bad and not selected. -/
def State.altRef (s : State) : Option LinkId :=
  let cand := candidates s.clockPlan
  let order := match s.ck.source with
    | .link n => if cand.contains n.val then candOrder cand s.ck.source else cand
    | _ => cand
  ((order.find? fun n => s.ck.good n && s.ck.source != .link (Fin.ofNat 48 n))).map (Fin.ofNat 48)

/-- Whether the block follows link references: CLUSTER mode, with CLOCK enabled. -/
def State.clusterMode (s : State) : Bool := s.enabled .clock && !refLocalMode s.clockPlan

/-- A hitless change of source (R309): TIME_STEP is set. -/
def State.changeSource (s : State) (r : RefSource) : State := s.mapCk fun k => { k with source := r, timeStep := true }

/-- Loss of every source (R318): source 0x06 forces the safe state at once, the root is in holdover and the stopped domains stop. -/
def State.loseEverySource (s : State) : State :=
  let s := s.mapCk fun k => { k with source := .holdover, stopped := true }
  s.detect (plainFault 0x06 0)

/-- The selected reference is left for another one, and a link that is left is marked bad (R308, R310). -/
def State.leaveFor (s : State) (r : RefSource) : State :=
  let s := match s.ck.source with
    | .link n => s.mapCk fun k => { k with bad := setBit k.bad n.val true }
    | _ => s
  s.changeSource r

/-- The selected reference is lost (R310): the next one, REF_LOCAL as a fallback, or none (R318). -/
def State.leaveSource (s : State) : State :=
  let s := match s.ck.source with
    | .link n => s.mapCk fun k => { k with present := setBit k.present n.val false }
    | _ => s
  match s.altRef with
  | some n => (s.leaveFor (.link n)).raiseCause 0xA
  | none => if s.ck.localUp then (s.leaveFor .refLocal).raiseCause 0xB else s.loseEverySource

/-- REF_LOCAL is found absent (R306): source 0x0B, and AON runs from TIME. -/
def State.loseLocal (s : State) : State :=
  if s.ck.localUp then
    (s.mapCk fun k => { k with localUp := false, aonTime := true }).detect (plainFault 0x0B 0)
  else s

/-- REFERENCE_LOSS (R310): the selected reference has no edge for 30 ns. -/
def execReferenceLoss (present : BitVec 48) (s : State) : Host.Outcome State Fault Refusal :=
  if !s.rootRuns then .next s
  else
    let s := s.mapCk fun k => { k with present := present }
    match s.ck.source with
    | .holdover => .next s
    | .refLocal => .next s.loseLocal.leaveSource
    | .link _ => .next s.leaveSource

/-- REF_LOCAL_ABSENT (R306): where REF_LOCAL is selected, the root also follows R310. -/
def execRefLocalAbsent (s : State) : Host.Outcome State Fault Refusal :=
  if !s.rootRuns then .next (s.mapCk fun k => { k with localUp := false })
  else
    let was := s.ck.localUp
    let s := s.loseLocal
    .next (if was && s.ck.source == .refLocal then s.leaveSource else s)

/-- REF_LOCAL_PRESENT (R306, R310): present for 1 ms. AON leaves the TIME clock; in LOCAL mode S returns to REF_LOCAL, and in
holdover the root locks to it (R318). -/
def execRefLocalPresent (s : State) : Host.Outcome State Fault Refusal :=
  let s := s.mapCk fun k => { k with localUp := true, aonTime := false }
  if !s.rootRuns then .next s
  else
    match s.ck.source with
    | .refLocal => .next s
    | .holdover => .next (s.changeSource .refLocal)
    | .link _ => .next (if refLocalMode s.clockPlan then s.changeSource .refLocal else s)

/-- REFERENCE_JOIN (R308): in CLUSTER mode, while S is REF_LOCAL, the first present candidate that is not bad is joined. -/
def execReferenceJoin (present : BitVec 48) (s : State) : Host.Outcome State Fault Refusal :=
  let s := s.mapCk fun k => { k with present := present }
  if s.rootRuns && s.clusterMode && s.ck.source == .refLocal then
    match s.altRef with
    | some n => .next (s.changeSource (.link n))
    | none => .next s
  else .next s

/-- The search of R308 starts again from CAND[0] with every bad mark cleared, at the TIME edge after RESELECT. -/
def State.reselectNow (s : State) : State :=
  let s := s.mapCk fun k => { k with reselect := false, bad := 0 }
  if s.clusterMode then
    match s.ck.source, (candidates s.clockPlan).find? (s.ck.good ·) with
    | .holdover, _ => s
    | src, some n => if src = .link (Fin.ofNat 48 n) then s else s.changeSource (.link (Fin.ofNat 48 n))
    | _, none => s
  else s

/-- LOSS_OF_EVERY_SOURCE (R318): the selected source, every candidate and REF_LOCAL are absent. -/
def execLossOfEverySource (s : State) : Host.Outcome State Fault Refusal :=
  if s.rootRuns && s.ck.source != .holdover then
    .next ((s.mapCk fun k => { k with present := 0 }).loseLocal.loseEverySource)
  else .next s

/-- SOURCE_RETURN (R318): in holdover, the root locks to a source that has been present for 1 ms. The stopped domains stay
stopped until WRST_N. -/
def execSourceReturn (link : Option LinkId) (s : State) : Host.Outcome State Fault Refusal :=
  match link with
  | none =>
    let s := s.mapCk fun k => { k with localUp := true, aonTime := false }
    .next (if s.rootRuns && s.ck.source == .holdover then s.changeSource .refLocal else s)
  | some n =>
    let s := s.mapCk fun k => { k with present := setBit k.present n.val true }
    .next (if s.rootRuns && s.ck.source == .holdover && (candidates s.clockPlan).contains n.val && s.ck.good n.val then
      s.changeSource (.link n) else s)

-- The drift monitor (R311) ---------------------------------------------------------------------------------------------------

/-- The case of Table 3 for the readings of a window, in 0.1 ppm; a comparison with an absent reading fails. -/
def driftCase (w : Nat) (dA dL : Option Int) : Nat :=
  let le (d : Option Int) : Bool := match d with | some v => v.natAbs ≤ w | none => false
  let gt (d : Option Int) : Bool := match d with | some v => w < v.natAbs | none => false
  let near := match dA, dL with | some a, some l => (a - l).natAbs ≤ w | _, _ => false
  if dA.isNone && le dL then 1
  else if dA.isNone && gt dL then 2
  else if le dA && le dL then 3
  else if le dA && gt dL then 4
  else if gt dA && gt dL && near then 5
  else if gt dA && le dL then 6
  else 7

/-- Raise cause 0xA once per episode. -/
def State.driftWarning (s : State) : State :=
  if s.ck.episode then s else (s.mapCk fun k => { k with episode := true }).raiseCause 0xA

/-- DRIFT_WINDOW_END (R311): the case's action; an episode ends after 16 windows of case 1 or 3 in a row. -/
def execDriftWindowEnd (dA dL : Option (BitVec 16)) (s : State) : Host.Outcome State Fault Refusal :=
  if !s.rootRuns then .next s
  else
    let p := s.clockPlan
    let c := driftCase (10 * warnPpm p) (dA.map (·.toInt)) (dL.map (·.toInt))
    let far := match dA with | some a => 10 * switchPpm p < a.toInt.natAbs | none => false
    let agree := if c = 1 ∨ c = 3 then s.ck.agree + 1 else 0
    let s := s.mapCk fun k => { k with
      dAlt := dA.getD 0x8000, dLocal := dL.getD 0x8000, noMajority := c == 2 || c == 7, localDev := c == 4,
      agree := agree, episode := k.episode && agree < 16, beyond := if c = 5 ∧ far = true then k.beyond + 1 else 0 }
    let s := if c = 2 ∨ 5 ≤ c then s.driftWarning else s
    if !s.clusterMode then .next s
    else if c = 5 ∧ 2 ≤ s.ck.beyond then
      match s.ck.source, s.altRef with
      | .link n, some m =>
        .next ((s.mapCk fun k => { k with bad := setBit k.bad n.val true, beyond := 0 }).changeSource (.link m))
      | _, _ => .next s
    else if c = 6 then
      match s.altRef with
      | some m => .next (s.mapCk fun k => { k with bad := setBit k.bad m.val true })
      | none => .next s
    else .next s

-- Dividers and the throttle curve (R313, R314) -----------------------------------------------------------------------------------

def thEntries (p : Blob) : Nat := p.field 0 0 4
def thHyst (p : Blob) : Nat := p.byte 1
def thThresh (p : Blob) (i : Nat) : Nat := p.field (8 + 4 * i) 0 10
def thDiv (p : Blob) (i : Nat) : Nat := p.byte (10 + 4 * i)

/-- The effective divider of a core (R313). -/
def State.targetDiv (s : State) (n : Nat) : Nat :=
  Nat.max (coreDiv s.clockPlan n) (Nat.max s.ck.throttle (if s.ck.supEpisode then 6 else 3))

/-- THROTTLE_EVALUATION (R314): the throttle divider rises at once, and falls after 4 evaluations in a row in which the
estimate is below the current entry's THRESH by more than HYST. -/
def execThrottleEvaluation (pEst : BitVec 10) (s : State) : Host.Outcome State Fault Refusal :=
  if !s.rootRuns then .next s
  else
    let p := s.sect secThrottle
    let ix := List.range (thEntries p)
    let want := (ix.filter fun i => thThresh p i ≤ pEst.toNat).foldl (fun d i => Nat.max d (thDiv p i)) 3
    let limit := match ix.find? fun i => thDiv p i == s.ck.throttle with | some i => thThresh p i | none => 2 ^ 10 + 256
    let low := pEst.toNat + thHyst p < limit
    let below := if want < s.ck.throttle ∧ low then s.ck.below + 1 else 0
    .next (s.mapCk fun k =>
      if k.throttle ≤ want then { k with pEst := pEst, throttle := want, below := 0 }
      else if 4 ≤ below then { k with pEst := pEst, throttle := want, below := 0 }
      else { k with pEst := pEst, below := below })

/-- Every core runs on its effective divider. -/
def State.changeDividers (s : State) : State :=
  s.mapCk fun k => { k with divs := Vector.ofFn fun n => BitVec.ofNat 3 (s.targetDiv n.val) }

/-- DIVIDER_CHANGE_SEQUENCE (R313): every core runs on its effective divider. -/
def execDividerChangeSequence (s : State) : Host.Outcome State Fault Refusal :=
  if s.rootRuns then .next s.changeDividers else .next s

-- Supply episodes (R316) ---------------------------------------------------------------------------------------------------------

/-- A supply episode starts: cause 0xC, and every slice is cleaned in the tide-clean order. Write-through and the suspended
scrub follow from SUP_EPISODE. -/
def State.startEpisode (s : State) : State :=
  let s := (s.mapCk fun k => { k with supEpisode := true, supCount := false }).raiseCause 0xC
  if s.live then s.cleanAll else s

/-- SUP_WARN_RISE (R316): an episode starts, or the count to its end restarts. -/
def execSupWarnRise (s : State) : Host.Outcome State Fault Refusal :=
  let s := { s with supWarn := true }
  .next (if !s.rootRuns then s
    else if s.ck.supEpisode then s.mapCk fun k => { k with supCount := false }
    else s.startEpisode)

/-- SUP_WARN_FALL (R316): the count of 10,000 TIME ticks starts. -/
def execSupWarnFall (s : State) : Host.Outcome State Fault Refusal :=
  let s := { s with supWarn := false }
  .next (if s.ck.supEpisode then s.mapCk fun k => { k with supCount := true } else s)

/-- SUPPLY_EPISODE_END (R316): SUP_WARN has been low for 10,000 TIME ticks. The dividers return by R313. -/
def execSupplyEpisodeEnd (s : State) : Host.Outcome State Fault Refusal :=
  .next (if s.rootRuns && s.ck.supEpisode && s.ck.supCount then
    s.mapCk fun k => { k with supEpisode := false, supCount := false } else s)

-- Resets that hold the block (R18, R57, R306, R317) ----------------------------------------------------------------------------------

/-- The block held in reset: every register at its reset value. What is outside it stays: the levels of its pins and the
references, the memory and classifier of the chip, and the commands that wait. -/
def State.held (s : State) (porst supHold : Bool) : State :=
  let r := State.reset
  { r with
    porst := porst, supHold := supHold, testMode := s.testMode, cpPresent := s.cpPresent, supWarn := s.supWarn,
    ck := { r.ck with localUp := s.ck.localUp, present := s.ck.present }
    tp := { r.tp with tables := s.tp.tables }
    lk := Vector.ofFn fun n => { Link.reset with lpUp := (s.link n).lpUp }
    mem := s.mem, pending := s.pending }

/-- PORST_N_ASSERT (R57). -/
def execPorstNAssert (s : State) : Host.Outcome State Fault Refusal := .next (s.held true s.supHold)

/-- PORST_N_DEASSERT (R306): the root begins to lock. -/
def execPorstNDeassert (s : State) : Host.Outcome State Fault Refusal := .next { s with porst := false }

/-- SUP_RESET (R317): the block is held as under PORST_N low. -/
def execSupReset (s : State) : Host.Outcome State Fault Refusal := .next (s.held s.porst true)

/-- SUP_RESET_RELEASE (R317). -/
def execSupResetRelease (s : State) : Host.Outcome State Fault Refusal := .next { s with supHold := false }

/-- ROOT_LOCK (R306): the root locks to REF_LOCAL, every domain starts and TIME is zero. A SUP_WARN that is already high
starts an episode. -/
def execRootLock (s : State) : Host.Outcome State Fault Refusal :=
  if s.porst || s.supHold || s.rootLocked || !s.ck.localUp then .next s
  else
    let s := { s with rootLocked := true, time := 0 }
    .next (if s.supWarn then s.startEpisode else s)

/-- TEST_MODE_CHANGE (R18): a change while PORST_N is high is the F-class source 0x0A. -/
def execTestModeChange (level : Bool) (s : State) : Host.Outcome State Fault Refusal :=
  let changed := level != s.testMode
  let s := { s with testMode := level }
  .next (if changed && !s.porst && !s.supHold then s.detect (plainFault 0x0A 0) else s)

-- The passing of time ------------------------------------------------------------------------------------------------------------------

/-- The self-test interval I in TIME ticks (R334, Table 6): STEST counts 0.25 ms. -/
def State.testInterval (s : State) : Nat := 25000 * planStest (s.sect secSafety)

/-- The known-answer tests that become due at this TIME edge of a self-test period (R334): that of an enabled core n at n × I/16 after
its start, and that of engine n at (2n + 1) × I/32 while QUAY is enabled. -/
def State.testsDue (s : State) : State :=
  match s.bw.periodAt with
  | some p =>
    let t := (s.time - p).toNat
    let due (k per : Nat) : Bool := k * s.testInterval ≤ per * t && per * t < k * s.testInterval + per
    if !s.enabled .safety then s
    else
      let s := s.mapCores fun c k =>
        if s.enabled (.core c) && due c.val 16 then { k with tile := { k.tile with katDue := true } } else k
      let test (n : SliceId) : Engine := { s.engine n with test := (s.engine n).test || due (2 * n.val + 1) 32 }
      if s.enabled .quay then { s with qy := { s.qy with eng := Vector.ofFn test } } else s
  | none => s

/-- The signals after a cycle in which nothing is driven: every VALID and credit is low. -/
def Pins.quiet (p : Pins) : Pins :=
  { mp := p.mp.map fun m => { m with rdValid := false, wrValid := false }, hpRsp := false, credit := false, tpCmd := false,
    cpReq := 0, lpTx := 0 }

/-- One TIME tick (R306, log entry 1): TIME advances, CYC of each enabled core whose domain runs advances by its cycles of one
tick, the tests that are due wait for their units, and a RESELECT that was written acts. The keepalive window begins anew while no
output is released (R331), and the signals of one cycle are low again. -/
def State.tick (s : State) : State :=
  if !s.rootRuns then s
  else
    let s := { s with time := s.time + 1, pins := s.pins.quiet }
    let s := s.mapCores fun c k =>
      let d := (s.ck.divs[c]).toNat
      if s.tileRuns c && d != 0 then { k with cyc := k.cyc + BitVec.ofNat 64 (96 / d) } else k
    let s := s.testsDue
    let s := if s.anyReleased then s else { s with bw := { s.bw with keepAt := s.time } }
    if s.ck.reselect then s.reselectNow else s

end Sys2Proof.Machine
end

