-- ==== Sys2Proof/Machine/Breakwater.lean ====
section
/-! DEFINITION. The breakwater (R321-R340) and the fault log (R345, R346): the collector, stop inputs, keepalive, self-tests,
log records, and the warm reset. -/

namespace Sys2Proof.Machine

/-- Update the breakwater. -/
def State.mapBw (s : State) (f : Breakwater → Breakwater) : State := { s with bw := f s.bw }

-- The collector (R323, R325) -----------------------------------------------------------------------------------------------

/-- Put a fault into a list in increasing source id, before those of equal id. -/
def insertFault (e : FaultEvent) : List FaultEvent → List FaultEvent
  | [] => [e]
  | x :: t => if x.src.toNat < e.src.toNat then x :: insertFault e t else e :: x :: t

/-- The handling actions that act on the data and links of the failing unit (Table 3). -/
def State.handlingAction (s : State) (e : FaultEvent) : State :=
  if e.src = 0x1D && e.inst.toNat < 16 then s.quayParity (Fin.ofNat 16 e.inst.toNat) e.access.toNat e.addr.toNat
  else if e.src = 0x20 && e.inst.toNat < 48 then s.dropLink (Fin.ofNat 48 e.inst.toNat)
  else s.parityAction e

/-- FAULT_RECORD (R325): the faults of one breakwater cycle are detected and join the queue in increasing source id, their handling
actions take place, and the collector accepts the oldest queued fault. -/
def execFaultRecord (arrivals : List FaultEvent) (s : State) : Host.Outcome State Fault Refusal :=
  if s.porst || s.supHold then .next s
  else
    let l := arrivals.foldr insertFault []
    let s := l.foldl (fun s e => (s.sense e).queueFault (s.faultNow e)) s
    let s := l.foldl State.handlingAction s
    match s.bw.queue with
    | q :: rest => .next ((s.mapBw fun b => { b with queue := rest }).acceptFault q)
    | [] => .next s

/-- Remove the first unacknowledged C- or U-class fault of a source and instance. -/
def dropUnacked (src : BitVec 6) (inst : BitVec 8) : List Unacked → List Unacked
  | [] => []
  | u :: t => if u.src = src ∧ u.inst = inst ∧ u.cls ≠ 2 then t else u :: dropUnacked src inst t

/-- FAULT_ACKNOWLEDGE (R323): the handling action of a C- or U-class fault has completed. An F-class fault stays until a
reset. -/
def execFaultAcknowledge (src : BitVec 6) (inst : BitVec 8) (s : State) : Host.Outcome State Fault Refusal :=
  .next (s.mapBw fun b => { b with unacked := dropUnacked src inst b.unacked })

-- Stop inputs and the keepalive (R331, R333) -----------------------------------------------------------------------------------

/-- One channel over a run of equal samples: the run of samples that differ from the filtered demand, and the demand. -/
def filterStop (demand filtered : Bool) (run edges : Nat) : Nat × Bool :=
  if demand = filtered then (0, filtered) else if 8 ≤ run + edges then (0, demand) else (run + edges, filtered)

/-- STOP_DEMAND_CHANGE (R333): both channels keep their levels for a number of TIME edges. Channel A demands when high,
channel B when low. -/
def execStopDemandChange (a b : Bool) (edges : Nat) (s : State) : Host.Outcome State Fault Refusal :=
  if !s.rootRuns || edges = 0 then .next s
  else
    let fa := filterStop a s.bw.stopA s.bw.runA edges
    let fb := filterStop (!b) s.bw.stopB s.bw.runB edges
    let limit := s.discLimit
    let old := s.bw.discCnt.toNat
    let cnt := if a = b then Nat.min limit (old + edges) else 0
    let reached := old < limit && cnt == limit
    let s := s.mapBw fun w =>
      let w := { w with runA := fa.1, stopA := fa.2, runB := fb.1, stopB := fb.2, discCnt := BitVec.ofNat 21 cnt,
                        stopFault := w.stopFault || reached }
      if fa.2 || fb.2 then w.enterSafe else w
    .next (if reached then s.detect (plainFault 0x07 0) else s)

/-- STOP_DISCREPANCY_FAULT (R333): the edge at which DISC_CNT reaches N_D. -/
def execStopDiscrepancyFault (s : State) : Host.Outcome State Fault Refusal :=
  let limit := s.discLimit
  if s.rootRuns && s.bw.discCnt.toNat + 1 == limit then
    .next ((s.mapBw fun w => { w with discCnt := BitVec.ofNat 21 limit, stopFault := true }).detect (plainFault 0x07 0))
  else .next s

/-- The keepalive window in TIME ticks (Table 6). -/
def State.keepWindow (s : State) : Nat := (planKeep (s.sect secSafety) + 1) * 10000

/-- KEEPALIVE_EXPIRY (R331): the window has passed without a kick while an output is released. -/
def execKeepaliveExpiry (s : State) : Host.Outcome State Fault Refusal :=
  if s.rootRuns && s.anyReleased && s.keepWindow ≤ (s.time - s.bw.keepAt).toNat then .next ((s.mapBw fun w => { w with keepExp := true }).detect (plainFault 0x08 0))
  else .next s

-- Self-tests (R334, R336) ----------------------------------------------------------------------------------------------------------

/-- STARTUP_SELF_TEST (R336): it runs once after a reset, when the root is locked; after a failure STARTUP_OK stays 0. -/
def execStartupSelfTest (pass : Bool) (s : State) : Host.Outcome State Fault Refusal :=
  if !s.rootRuns || s.bw.startupOk || s.bw.startupFailed then .next s
  else if pass then .next (s.mapBw fun w => { w with startupOk := true })
  else .next ((s.mapBw fun w => { w with startupFailed := true }).detect (plainFault 0x09 0))

/-- SELF_TEST_PERIOD_START (R334): at a TIME edge whose count is a multiple of I, while SAFETY is enabled, a period starts with the
breakwater test, whose failure is source 0x04; the tile known-answer test of core 0 is due. -/
def execSelfTestPeriodStart (pass : Bool) (s : State) : Host.Outcome State Fault Refusal :=
  if s.rootRuns && s.enabled .safety && s.time.toNat % s.testInterval == 0 && s.bw.periodAt != some s.time then
    let s := (s.mapBw fun w => { w with periodAt := some s.time }).testsDue
    .next (if pass then s else s.detect (plainFault 0x04 0))
  else .next s

-- The fault log (R345, R346) ---------------------------------------------------------------------------------------------------------

/-- The 32 bytes of a log record (Table 4 of "Operating at scale"). -/
def logRecord (e : LogEntry) (seq : BitVec 32) : Nat :=
  let u := if e.event then 0 else faultUnit e.ev.src.toNat e.ev.inst.toNat
  e.time.toNat + (if e.event then 2 else 1) * 2 ^ 64 + e.code.toNat * 2 ^ 72 + e.cls.toNat * 2 ^ 80 + b2n e.esc * 2 ^ 82 +
    u * 2 ^ 88 + e.ev.access.toNat * 2 ^ 92 + e.ev.master.toNat * 2 ^ 96 + (if e.event then 0 else shownInst e.ev) * 2 ^ 112 +
    e.ev.addr.toNat * 2 ^ 128 + seq.toNat * 2 ^ 192

/-- Records of the ring. -/
def Breakwater.logSlots (b : Breakwater) : Nat := 64 * 2 ^ b.ringSize.toNat

/-- A log write failed (R346): WERR, EN 0, and the entry stays. -/
def Breakwater.logFail (b : Breakwater) : Breakwater := { b with logErr := true, logEn := false }

/-- LOG_RECORD_WRITE (R345): the oldest entry is written when the ring has room, then PUT, and event 0x007 is offered. -/
def execLogRecordWrite (s : State) : Host.Outcome State Fault Refusal :=
  let w := s.bw
  match w.logBuf with
  | e :: rest =>
    if !s.rootRuns || !w.logEn || w.logSlots < (w.logPut + 1 - w.logTake).toNat then .next s
    else
      let base := w.ringBase.toNat * 4096
      let a := base + 64 + 32 * (w.logPut.toNat % w.logSlots)
      if s.rangeHeld a 32 || s.lineHeld (base / 64) then .next s
      else if !(s.mappedAll a 32 && s.mapped base) then .next (s.mapBw (·.logFail))
      else
        let s := s.engineStore a { len := 32, bits := logRecord e w.logSeq }
        let s := s.engineWordPut base (w.logPut.toNat + 1)
        .next ((s.mapBw fun w => { w with logBuf := rest, logPut := w.logPut + 1, logSeq := w.logSeq + 1 }).offerEvent 0x007 .latch)
  | [] => .next s

/-- LOG_TAKE_REREAD (R345): TAKE is read again from the ring in use. -/
def execLogTakeReread (s : State) : Host.Outcome State Fault Refusal :=
  if s.rootRuns && (s.bw.logEn || s.bw.logPut != s.bw.logTake) then
    match s.engineWord (s.bw.ringBase.toNat * 4096 + 8) with
    | some v => .next (s.mapBw fun w => { w with logTake := BitVec.ofNat 64 v })
    | none => .next s
  else .next s

/-- LOG_WRITE_ERROR (R346): a log write is acknowledged with an error. -/
def execLogWriteError (s : State) : Host.Outcome State Fault Refusal :=
  if s.bw.logEn && !s.bw.logBuf.isEmpty then .next (s.mapBw (·.logFail)) else .next s

-- The warm reset (R57, R328) -----------------------------------------------------------------------------------------------------------

/-- What WRST_N leaves of the breakwater: BW_PEND_F, the F capture, DOUBLE_FATAL, counts, marks and SEQ. The safe state is
entered, and the F bits may be cleared unless DOUBLE_FATAL is set. -/
def Breakwater.warm (b : Breakwater) : Breakwater :=
  { Breakwater.reset with
    pendF := b.pendF
    freed := if b.doubleF then b.freed else b.pendF
    capFreed := if b.doubleF then b.capFreed else true
    caps := Vector.ofFn fun i => if i.val = 2 then b.caps[i] else Capture.empty
    doubleF := b.doubleF
    fStop := b.doubleF && b.fStop
    unacked := if b.doubleF then b.unacked.filter (·.cls == 2) else []
    counts := b.counts, markCore := b.markCore, markSlice := b.markSlice, markPort := b.markPort, markLink := b.markLink
    logSeq := b.logSeq }

/-- What WRST_N leaves of the SI unit (R56, R57): staging, chart store, PENDING, identity, the CLOCK and SAFETY bits, and
SI_COMMIT_STATUS, whose STATE is idle where a commit was abandoned. -/
def Si.warm (i : Si) : Si :=
  { Si.reset with
    staging := i.staging, pend := i.pend, active := i.active, codes := i.codes, curves := i.curves, nodeId := i.nodeId,
    serial := i.serial, enable := i.enable &&& 0x201, csSection := i.csSection, csReason := i.csReason,
    csState := if i.commit.isSome then 0 else i.csState, parity := i.parity }

/-- What WRST_N leaves of the clock unit: the root with its source and what is known of the references (R305, R308, R318). The rest
takes its reset value (log entry 62), and the stopped domains restart. -/
def Clocks.warm (k : Clocks) : Clocks :=
  { Clocks.reset with
    source := k.source, localUp := k.localUp, present := k.present, bad := k.bad, aonTime := k.aonTime }

/-- WRST_N_ASSERT (R57, R328): the warm-reset pulse. Every core then runs on its effective divider (R313), and a SUP_WARN that is
high starts an episode (log entry 62). -/
def execWrstNAssert (s : State) : Host.Outcome State Fault Refusal :=
  if s.porst || s.supHold then .next s
  else
    let r := s.held false false
    let t : State :=
      { r with rootLocked := s.rootLocked, time := s.time, si := s.si.warm, ck := s.ck.warm, bw := s.bw.warm, tp := s.tp }
    let t := t.changeDividers
    .next (if t.supWarn && t.rootRuns then t.startEpisode else t)

end Sys2Proof.Machine
end

