-- ==== Sys2Proof/Machine/Flags.lean ====
section
/-! DEFINITION. The conditions that write predicates (Table 3 of "Gregon instruction set") and the FSTAT flags. -/

namespace Sys2Proof.Machine

/-- A compare condition of CMP and CMPI. -/
def condHolds (k : Cond) (a b : Word) : Bool :=
  match k with
  | .eq => a == b
  | .ne => a != b
  | .lt => a.slt b
  | .ge => !a.slt b
  | .ltu => a.ult b
  | .geu => !a.ult b
  | .tst => a &&& b != 0
  | .tstz => a &&& b == 0

/-- FLUSHED of FSTAT (Table 10). -/
def flagFlushed : BitVec 6 := 0x20
/-- LONGK of FSTAT. -/
def flagLongk : BitVec 6 := 0x10
/-- OVF bit `n` of FSTAT. -/
def flagOvf (n : AccReg) : BitVec 6 := 1#6 <<< n.val

/-- Set FSTAT flags of a berth; an instruction that sets LONGK or an OVF flag raises attention cause 0x4 (R147). -/
def State.setFlags (s : State) (c : CoreId) (b : BerthId) (f : BitVec 6) : State :=
  let x := s.berth c b
  let s := s.setBerth c b { x with fstat := x.fstat ||| f }
  if f &&& ~~~flagFlushed = 0 then s else s.raiseCause 0x4

end Sys2Proof.Machine
end

