-- ==== Sys2Proof/Machine/Operands.lean ====
section
/-! DEFINITION. Operand forms and the arithmetic on them (R73, R74, R75, R76, R88, R89). -/

namespace Sys2Proof.Machine

/-- A W-form result: 32 bits, sign-extended (R73). -/
def wResult (v : BitVec 32) : Word := v.signExtend 64

/-- The low 32 bits of an operand. -/
def low32 (v : Word) : BitVec 32 := v.setWidth 32

/-- A register shift count: the low 6 bits (R73). -/
def shiftCount (v : Word) : Nat := v.toNat % 64

/-- A W-form shift count: the low 5 bits. -/
def shiftCountW (v : Word) : Nat := v.toNat % 32

/-- Signed minimum and maximum. -/
def sminWord (a b : Word) : Word := if b.slt a then b else a
def smaxWord (a b : Word) : Word := if a.slt b then b else a
/-- Unsigned minimum and maximum. -/
def uminWord (a b : Word) : Word := if b.ult a then b else a
def umaxWord (a b : Word) : Word := if a.ult b then b else a

/-- The high half of the signed product. -/
def mulHigh (a b : Word) : Word := BitVec.ofInt 64 ((a.toInt * b.toInt) / 2 ^ 64)
/-- The high half of the unsigned product. -/
def mulHighU (a b : Word) : Word := BitVec.ofNat 64 (a.toNat * b.toNat / 2 ^ 64)

/-- Signed quotient (R74): -1 for a zero divisor; the overflow wraps to the most negative value. -/
def divSigned {w : Nat} (a b : BitVec w) : BitVec w := if b = 0 then BitVec.allOnes w else BitVec.ofInt w (a.toInt.tdiv b.toInt)
/-- Unsigned quotient: all ones for a zero divisor. -/
def divUnsigned {w : Nat} (a b : BitVec w) : BitVec w := if b = 0 then BitVec.allOnes w else a / b
/-- Signed remainder: the dividend for a zero divisor. -/
def remSigned {w : Nat} (a b : BitVec w) : BitVec w := if b = 0 then a else BitVec.ofInt w (a.toInt.tmod b.toInt)
/-- Unsigned remainder. -/
def remUnsigned {w : Nat} (a b : BitVec w) : BitVec w := if b = 0 then a else a % b

/-- The number of leading zero bits of a number of `n` bits. -/
def clzNat (v : Nat) : Nat → Nat
  | 0 => 0
  | n + 1 => if (v >>> n) % 2 = 1 then 0 else 1 + clzNat v n

/-- The number of trailing zero bits, at most `n`. -/
def ctzNat (v : Nat) : Nat → Nat
  | 0 => 0
  | n + 1 => if v % 2 = 1 then 0 else 1 + ctzNat (v / 2) n

/-- The number of one bits among the low `n`. -/
def popNat (v : Nat) : Nat → Nat
  | 0 => 0
  | n + 1 => v % 2 + popNat (v / 2) n

/-- The low `n` bits in reverse order. -/
def revBits (v : Nat) : Nat → Nat
  | 0 => 0
  | n + 1 => (v % 2) * 2 ^ n + revBits (v / 2) n

/-- The low `n` bytes in reverse order. -/
def revBytes (v : Nat) : Nat → Nat
  | 0 => 0
  | n + 1 => (v % 256) * 256 ^ n + revBytes (v / 256) n

/-- The bits of each of the low `n` bytes in reverse order. -/
def revInBytes (v : Nat) : Nat → Nat
  | 0 => 0
  | n + 1 => revBits (v % 256) 8 + 256 * revInBytes (v / 256) n

/-- Bit `i` is the XOR of byte `i`, for the low `n` bytes. -/
def byteParities (v : Nat) : Nat → Nat
  | 0 => 0
  | n + 1 => popNat (v % 256) 8 % 2 + 2 * byteParities (v / 256) n

/-- The effective address of LDU, LDS and ST (R75). -/
def immAddress (base : Word) (imm : BitVec 10) (size : Size) : Word :=
  base + imm.signExtend 64 * BitVec.ofNat 64 (sizeBytes size)

/-- The effective address of the indexed forms (R76). -/
def indexAddress (base index : Word) (size : Size) : Word := base + index * BitVec.ofNat 64 (sizeBytes size)

/-- Whether an address is a multiple of the size. -/
def alignedTo (a : Word) (size : Size) : Bool := a.toNat % sizeBytes size == 0

/-- Whether bits [63:48] of an address are zero. -/
def canonical (a : Word) : Bool := a.toNat < 2 ^ 48

/-- INFO of an address: bits [47:0]. -/
def infoAddr (a : Word) : Nat := a.toNat % 2 ^ 48

/-- A loaded value, zero- or sign-extended from its size. -/
def extendLoaded (v : Word) (size : Size) (signed : Bool) : Word :=
  match size with
  | .b1 => if signed then (v.setWidth 8).signExtend 64 else (v.setWidth 8).setWidth 64
  | .b2 => if signed then (v.setWidth 16).signExtend 64 else (v.setWidth 16).setWidth 64
  | .b4 => if signed then (v.setWidth 32).signExtend 64 else (v.setWidth 32).setWidth 64
  | .b8 => v

/-- The reflected polynomial of a CRCS form (R88). -/
def crcPoly (p : Poly) : Nat := match p with | .crc32c => 0x82F63B78 | .ieee => 0xEDB88320

end Sys2Proof.Machine
end

