-- ==== Sys2Proof/Machine/Legal.lean ====
section
/-! DEFINITION. Which encoded instructions raise illegal opcode whatever their predicate (R71, R72, R76, R81, R83, R86, R135),
said once for their meanings and for UNASSIGNED_MAJOR. -/

namespace Sys2Proof.Machine

-- Control-register numbers (Table 7 of "Gregon instruction set") -------------------------------------------------------------

/-- The control registers, by number. -/
inductive Cr where
  | pstat | estat | era | ereason | gtb | slv | pocket | mode | fstat | town | epi | tkbase | cyc | time
deriving DecidableEq, Repr

/-- The register of a number; none where Table 7 lists none. -/
def crOf (crn : BitVec 12) : Option Cr :=
  match crn.toNat with
  | 0x000 => some .pstat | 0x001 => some .estat | 0x002 => some .era | 0x003 => some .ereason | 0x004 => some .gtb
  | 0x005 => some .slv | 0x006 => some .pocket | 0x010 => some .mode | 0x011 => some .fstat | 0x012 => some .town
  | 0x020 => some .epi | 0x021 => some .tkbase | 0x030 => some .cyc | 0x031 => some .time
  | _ => none

-- Bodies of REP (R86) --------------------------------------------------------------------------------------------------------

/-- Whether a body writes general register `r`. -/
def writesReg (i : Instr) (r : Reg) : Bool :=
  match i with
  | .add _ rd _ _ => rd == r
  | .sub _ rd _ _ => rd == r
  | .and _ rd _ _ => rd == r
  | .or _ rd _ _ => rd == r
  | .xor _ rd _ _ => rd == r
  | .andn _ rd _ _ => rd == r
  | .sll _ rd _ _ => rd == r
  | .srl _ rd _ _ => rd == r
  | .sra _ rd _ _ => rd == r
  | .ror _ rd _ _ => rd == r
  | .min _ rd _ _ => rd == r
  | .max _ rd _ _ => rd == r
  | .minu _ rd _ _ => rd == r
  | .maxu _ rd _ _ => rd == r
  | .addw _ rd _ _ => rd == r
  | .subw _ rd _ _ => rd == r
  | .sllw _ rd _ _ => rd == r
  | .srlw _ rd _ _ => rd == r
  | .sraw _ rd _ _ => rd == r
  | .mul _ rd _ _ => rd == r
  | .mulh _ rd _ _ => rd == r
  | .mulhu _ rd _ _ => rd == r
  | .mulw _ rd _ _ => rd == r
  | .div _ rd _ _ => rd == r
  | .divu _ rd _ _ => rd == r
  | .rem _ rd _ _ => rd == r
  | .remu _ rd _ _ => rd == r
  | .divw _ rd _ _ => rd == r
  | .divuw _ rd _ _ => rd == r
  | .remw _ rd _ _ => rd == r
  | .remuw _ rd _ _ => rd == r
  | .addi _ rd _ _ => rd == r
  | .andi _ rd _ _ => rd == r
  | .ori _ rd _ _ => rd == r
  | .xori _ rd _ _ => rd == r
  | .slli _ rd _ _ => rd == r
  | .srli _ rd _ _ => rd == r
  | .srai _ rd _ _ => rd == r
  | .rori _ rd _ _ => rd == r
  | .movi _ rd _ => rd == r
  | .orsh _ rd _ => rd == r
  | .clz _ rd _ => rd == r
  | .ctz _ rd _ => rd == r
  | .popc _ rd _ => rd == r
  | .bswap _ rd _ => rd == r
  | .sextb _ rd _ => rd == r
  | .sexth _ rd _ => rd == r
  | .sextw _ rd _ => rd == r
  | .zextw _ rd _ => rd == r
  | .par _ rd _ => rd == r
  | .parb _ rd _ => rd == r
  | .brev _ rd _ => rd == r
  | .brevb _ rd _ => rd == r
  | .brevw _ rd _ => rd == r
  | .sel _ rd _ _ _ => rd == r
  | .crcs _ rd _ _ _ _ => rd == r
  | .ldu _ rd _ _ _ => rd == r
  | .lds _ rd _ _ _ => rd == r
  | .lsxLoad _ rd _ _ _ _ => rd == r
  | .lsxLoadPostinc _ rd ra _ _ _ => rd == r || ra == r
  | .lsxStorePostinc _ _ ra _ _ _ => ra == r
  | .swap _ rd _ _ _ => rd == r
  | .amoAdd _ rd _ _ _ => rd == r
  | .amoAnd _ rd _ _ _ => rd == r
  | .amoOr _ rd _ _ _ => rd == r
  | .amoXor _ rd _ _ _ => rd == r
  | .amoMin _ rd _ _ _ => rd == r
  | .amoMax _ rd _ _ _ => rd == r
  | .cas _ rd _ _ _ => rd == r
  | _ => false

/-- Whether a word's major may be repeated (R86). -/
def repeatable (w : BitVec 32) : Bool :=
  let m := wordField w 27 22
  m ≤ 0x0E || (0x10 ≤ m && m ≤ 0x14) || m == 0x25 || m == 0x26

-- Legal forms ------------------------------------------------------------------------------------------------------------------

/-- Whether fmt names an input format that is in force: 2 and 3 are reserved, an empty slot is illegal (R135). -/
def State.fmtLegal (s : State) (fmt : BitVec 3) : Bool :=
  fmt != 2 && fmt != 3 && (!fmtIsCode fmt.toNat || codePresent (fmtSlot fmt.toNat s.si.codes))

/-- Whether a load or store of LSX is legal (R76): signed stores and signed 8-byte loads are not; the post-increment kinds need
rb = 0, and such a load an rd other than ra. -/
def lsxLegal (rd ra rb : Reg) (size : Size) (signed load postinc : Bool) : Bool :=
  !(signed && (!load || size == .b8)) && !(postinc && (rb != 0 || (load && rd == ra)))

/-- Whether the register fields of a string instruction are legal (R83): no pointer or count is g0, and no two fields name one
register; the value of SSET and SSCAN may be g0. -/
def stringLegal (rd ra rb : Reg) (valued : Bool) : Bool :=
  rd != 0 && (valued || ra != 0) && rb != 0 && rd != ra && rd != rb && ra != rb

/-- Whether an instruction of a core is legal in its fields; the encodings that Gregon reserves outright have no constructor. -/
def State.legal (s : State) : Instr → Bool
  | .cmp _ pd .. | .cmpi _ pd .. | .pand _ pd .. | .por _ pd .. | .pxor _ pd .. | .pandn _ pd .. | .pnot _ pd .. => pd != 0
  | .lds _ _ _ size _ => size != .b8
  | .lsxLoad _ rd ra rb size signed => lsxLegal rd ra rb size signed true false
  | .lsxStore _ rd ra rb size signed => lsxLegal rd ra rb size signed false false
  | .lsxLoadPostinc _ rd ra rb size signed => lsxLegal rd ra rb size signed true true
  | .lsxStorePostinc _ rd ra rb size signed => lsxLegal rd ra rb size signed false true
  | .crrd _ _ crn => (crOf crn).isSome
  | .crwr _ _ crn | .crset _ _ crn | .crclr _ _ crn => (crOf crn).isSome && crOf crn != some .time
  | .smov _ rd ra rb _ => stringLegal rd ra rb false
  | .sset _ rd ra rb _ => stringLegal rd ra rb true
  | .scmp _ rd ra rb _ pd => stringLegal rd ra rb false && pd != 0
  | .sscan _ rd ra rb _ pd => stringLegal rd ra rb true && pd != 0
  | .rep x rc body =>
    rc != 0 && repeatable body && (match decodeGregon x.core body 0 with | some i => !writesReg i rc | none => true)
  | .tld _ _ _ _ rows hint => rows.toNat ≤ 32 && hint != 3
  | .tst _ _ _ _ rows => rows.toNat ≤ 32
  | .tmma _ _ _ _ fmt _ => s.fmtLegal fmt
  | .tlda _ _ ra | .tsta _ _ ra => ra != 0
  | .custw0 x .. | .custw1 x .. | .cust0 x .. | .cust1 x .. => bitAt s.cpPresent x.core.val
  | _ => true

/-- Whether an instruction word raises illegal opcode (R72): it decodes to nothing, its predicate is the reserved "if not p0", or
what it decodes to is illegal. The body of a REP is the next word, which this word does not decide. -/
def State.wordIllegal (s : State) (core : CoreId) (word : BitVec 32) : Bool :=
  match decodeGregon core word 0 with
  | none => true
  | some (.rep _ rc _) => rc == 0 || wordField word 31 28 == 8
  | some i => !s.legal i || wordField word 31 28 == 8

end Sys2Proof.Machine
end

