-- ==== Sys2Proof/Machine/Control.lean ====
section
/-! DEFINITION. Branches, control registers, system instructions, sleeves and customer instructions (R79-R82, R90, R91,
R110, R122, R124, R127, R128). -/

namespace Sys2Proof.Machine

-- Branches (R79) ------------------------------------------------------------------------------------------------------

/-- Take a branch to an address: what was fetched after it is killed (R93), and a taken branch is traced (R48). -/
def State.branchTo (s : State) (c : CoreId) (b : BerthId) (target : Word) : State :=
  ((s.abandon c b).mapBerth c b fun y => { y with pc := target }).traceCore c 0x1 b.val target.toNat

/-- PC + 4 × sext(disp). -/
def branchTarget {w : Nat} (pc : Word) (disp : BitVec w) : Word := pc + 4 * disp.signExtend 64

/-- BR. -/
def execBr (x : Issue) (disp : BitVec 22) (s : State) : Host.Outcome State Fault Refusal :=
  .next (s.instruction (.br x disp) x true 0 fun s c b => some (s.branchTo c b (branchTarget (s.berth c b).pc disp)))

/-- CALL: g31 takes the address of the next instruction. -/
def execCall (x : Issue) (disp : BitVec 22) (s : State) : Host.Outcome State Fault Refusal :=
  .next (s.instruction (.call x disp) x true 0 fun s c b =>
    let pc := (s.berth c b).pc
    some ((s.mapBerth c b fun y => y.setReg 31 (pc + 4)).branchTo c b (branchTarget pc disp)))

/-- A register jump; bits [1:0] of the target must be zero. -/
def State.jumpTo (s : State) (c : CoreId) (b : BerthId) (target : Word) (f : Berth → Berth) : State :=
  if target.toNat % 4 ≠ 0 then s.raise c b 3 (infoAddr target) else (s.mapBerth c b f).branchTo c b target

/-- JR. -/
def execJr (x : Issue) (ra : Reg) (s : State) : Host.Outcome State Fault Refusal :=
  .next (s.instruction (.jr x ra) x true 0 fun s c b => some (s.jumpTo c b ((s.berth c b).reg ra) id))

/-- JALR: rd takes the address of the next instruction, the target is the old ra. -/
def execJalr (x : Issue) (rd ra : Reg) (s : State) : Host.Outcome State Fault Refusal :=
  .next (s.instruction (.jalr x rd ra) x true 0 fun s c b =>
    let y := s.berth c b
    some (s.jumpTo c b (y.reg ra) fun z => z.setReg rd (y.pc + 4)))

/-- DBNZ: ra := ra - 1, and a branch when the new value is not zero. DESIGN CHOICE (log entry 90): where ra is g0, whose write is
discarded, the new value is the difference -1 that was computed, so the branch is taken. -/
def execDbnz (x : Issue) (ra : Reg) (disp : BitVec 17) (s : State) : Host.Outcome State Fault Refusal :=
  .next (s.instruction (.dbnz x ra disp) x true 0 fun s c b =>
    let y := s.berth c b
    let v := y.reg ra - 1
    let t := s.mapBerth c b fun z => z.setReg ra v
    some (if v = 0 then t.mapBerth c b Berth.next else t.branchTo c b (branchTarget y.pc disp)))

-- Control registers (R81, Tables 7 to 10) ----------------------------------------------------------------------------------

/-- The least privilege that reads a register. -/
def Cr.readPriv : Cr → Nat
  | .estat | .era | .ereason | .gtb | .slv | .pocket | .town => 1
  | _ => 0

/-- The least privilege that writes a register; TIME is read-only. -/
def Cr.writePriv : Cr → Nat
  | .gtb | .pocket | .cyc => 3
  | .mode | .fstat | .epi | .tkbase | .time => 0
  | _ => 1

/-- The value of a control register of a berth; MODE reads as the latest write (R82). -/
def State.crValue (s : State) (c : CoreId) (b : BerthId) (r : Cr) : Word :=
  let y := s.berth c b
  match r with
  | .pstat => y.pstat c b
  | .estat => y.estat
  | .era => y.era.setWidth 64
  | .ereason => y.ereason.setWidth 64
  | .gtb => y.gtb
  | .slv => y.slv
  | .pocket => y.pocket
  | .mode => y.modeLast.setWidth 64
  | .fstat => y.fstat.setWidth 64
  | .town => y.town
  | .epi => y.epi
  | .tkbase => y.tkbase
  | .cyc => (s.core c).cyc
  | .time => s.time

/-- The reserved bits of a register. -/
def Cr.reserved : Cr → Word
  | .pstat => 0xFFFFFFFFFFFFF080
  | .era => 0xFFFF000000000003
  | .ereason => 0xFFFFFFFFFFFF0000
  | .gtb => 0xFFFF000000003FFF
  | .slv => 0xFFFF0000000000FF
  | .pocket => 0xFFFF000000000FFF
  | .mode => 0xFFFFFFFFFFFFFFE0
  | .fstat => 0xFFFFFFFFFFFFFFC0
  | .town => 0xFFFFFFFFFFFFFFF8
  | .epi => 0xFFFF00000000007F
  | .tkbase => 0xFFFF00000000007E
  | .estat | .cyc | .time => 0

/-- Whether a value puts a reserved encoding into a field: PRIV 0b10, PPRIV 0b10, OSAT 0b11. -/
def Cr.badCode (r : Cr) (v : Word) : Bool :=
  match r with
  | .pstat => bitsNat v 1 0 == 2
  | .estat => bitsNat v 11 10 == 2
  | .mode => bitsNat v 2 1 == 3
  | _ => false

/-- Write a control register with a legal value (R81); FSTAT takes the bits to clear. -/
def State.crApply (s : State) (c : CoreId) (b : BerthId) (r : Cr) (v : Word) : State :=
  let y := s.berth c b
  match r with
  | .pstat => s.setBerth c b { y with ie := bitAt v 2, priv := v.setWidth 2 }
  | .estat => s.setBerth c b { y with estat := v }
  | .era => s.setBerth c b { y with era := v.setWidth 48 }
  | .ereason => s.setBerth c b { y with ereason := v.setWidth 16 }
  | .gtb => s.setBerth c b { y with gtb := v }
  | .slv => s.setBerth c b { y with slv := v }
  | .pocket => s.setBerth c b { y with pocket := v }
  | .mode => s.setBerth c b (y.writeMode (v.setWidth 5))
  | .fstat => s.setBerth c b { y with fstat := y.fstat &&& ~~~v.setWidth 6 }
  | .town => s.setBerth c b { y with townEn := bitAt v 0, townSaved := bitAt v 1 }
  | .epi => s.setBerth c b { y with epi := v, epiSerial := y.epiSerial + 1 }
  | .tkbase => s.setBerth c b { y with tkbase := v }
  | .cyc => s.setCore c { s.core c with cyc := v }
  | .time => s

/-- Whether the berth has a tile instruction in the queue: a read of FSTAT waits for it (R145). -/
def State.tilePending (s : State) (c : CoreId) (b : BerthId) : Bool := (s.core c).tile.queue.any (·.berth == b)

/-- A CR write: the number and TIME are tested whatever the predicate, then the value, then the privilege. -/
def State.crWrite (s : State) (i : Instr) (x : Issue) (g : Reg) (crn : BitVec 12) (wait : Bool) (f : Cr → Word → Word → Word) : State :=
  match crOf crn with
  | none => s.instruction i x false 0 fun s _ _ => some s
  | some r =>
    s.instruction i x (r != .time) 0 fun s c b =>
      let y := s.berth c b
      let v := f r (s.crValue c b r) (y.reg g)
      if r == .fstat && wait && s.tilePending c b then none
      else if v &&& r.reserved != 0 || r.badCode v then some (s.raise c b 1 0)
      else if y.priv.toNat < r.writePriv then some (s.raise c b 2 0)
      else if r == .pstat && y.priv.toNat < bitsNat v 1 0 then some (s.raise c b 2 0)
      else some ((s.crApply c b r v).mapBerth c b Berth.next)

/-- CRRD. -/
def execCrrd (x : Issue) (g : Reg) (crn : BitVec 12) (s : State) : Host.Outcome State Fault Refusal :=
  .next (match crOf crn with
    | none => s.instruction (.crrd x g crn) x false 0 fun s _ _ => some s
    | some r =>
      s.instruction (.crrd x g crn) x true r.readPriv fun s c b =>
        if r == .fstat && s.tilePending c b then none
        else
          let v := s.crValue c b r
          some (s.mapBerth c b fun y => (y.setReg g v).next))

/-- CRWR. -/
def execCrwr (x : Issue) (g : Reg) (crn : BitVec 12) (s : State) : Host.Outcome State Fault Refusal :=
  .next (s.crWrite (.crwr x g crn) x g crn false fun _ _ v => v)

/-- CRSET: of a W1C register the operand's bits are cleared. -/
def execCrset (x : Issue) (g : Reg) (crn : BitVec 12) (s : State) : Host.Outcome State Fault Refusal :=
  .next (s.crWrite (.crset x g crn) x g crn true fun r old v => if r = .fstat then v else old ||| v)

/-- CRCLR: a W1C register is unchanged. -/
def execCrclr (x : Issue) (g : Reg) (crn : BitVec 12) (s : State) : Host.Outcome State Fault Refusal :=
  .next (s.crWrite (.crclr x g crn) x g crn true fun r old v => if r = .fstat then 0 else old &&& ~~~v)

-- System instructions ------------------------------------------------------------------------------------------------------------

/-- NOP. -/
def execNop (x : Issue) (s : State) : Host.Outcome State Fault Refusal := .next (s.regInstruction (.nop x) x true id)

/-- TRAP (R80, R122): entry 256 + imm8 with ERA after the TRAP; below TRAP_MIN the privilege exception at the TRAP. -/
def execTrap (x : Issue) (imm : BitVec 8) (s : State) : Host.Outcome State Fault Refusal :=
  .next (s.instruction (.trap x imm) x true 0 fun s c b =>
    let y := s.berth c b
    let v := 256 + imm.toNat
    match (s.abandon c b).readGangway c b v with
    | (s, some d) =>
      if y.priv.toNat < d.trapMin.toNat then some (s.raise c b 2 0)
      else some ((s.mapBerth c b fun z => z.enter v d (y.pc + 4) 0 none).traceCore c 0x2 b.val v)
    | (s, none) => some (s.gangwayFault c b v (y.pc + 4)))

/-- ERET (R124); it needs S, and a PPRIV above the current privilege raises the privilege exception. -/
def execEret (x : Issue) (s : State) : Host.Outcome State Fault Refusal :=
  .next (s.instruction (.eret x) x true 1 fun s c b =>
    let y := s.berth c b
    if y.priv.toNat < bitsNat y.estat 11 10 then some (s.raise c b 2 0)
    else some ((s.abandon c b).mapBerth c b Berth.eret))

/-- A WAITING berth with IE 0 becomes READY once an entry for it is pending (R110). DESIGN CHOICE (log entry 91): a berth that has
not started under R108, which has no WAIT to resume after, stays WAITING. -/
def Core.wake (k : Core) : Core :=
  allBerths.foldl (fun k b =>
    let y := k.berth b
    if y.waiting && y.started && !y.ie && k.pend.any (·.berth == b) then k.setBerth b { y with waiting := false } else k) k

/-- The berths of a core that pending entries wake; while PILOT is disabled a WAIT never ends (R110). -/
def State.wake (s : State) (c : CoreId) : State := if s.enabled .pilot then s.setCore c (s.core c).wake else s

/-- WAIT (R110). -/
def execWait (x : Issue) (s : State) : Host.Outcome State Fault Refusal :=
  .next (s.instruction (.wait x) x true 0 fun s c b =>
    let t := ((s.abandon c b).mapBerth c b fun y => { y.next with waiting := true }).wake c
    some (t.setCore c { t.core c with running := none, selected := none }))

/-- Halt a core into debug with a reason (R45): what has not retired is abandoned, and the halt is traced. -/
def State.haltNow (s : State) (c : CoreId) (reason : BitVec 2) : State :=
  let k := (s.core c).flush
  let berth := match k.running with | some b => b.val | none => 0
  (s.setCore c { k with halted := true, reason := reason, haltDue := none }).traceCore c 0x4 berth reason.toNat

/-- Whether the RUNNING berth has sent a customer request that is not answered: the head instruction then delays an entry or a halt
(R104, R105). -/
def State.headSent (s : State) (c : CoreId) : Bool :=
  match (s.core c).running with | some b => (s.berth c b).customer.isSome | none => false

/-- Halt a core once its head instruction has waited its W (R45). -/
def State.haltCore (s : State) (c : CoreId) (reason : BitVec 2) : State :=
  if s.headSent c then s.setCore c { (s.core c).flush with haltDue := some reason } else s.haltNow c reason

/-- A halt that waited for the head instruction takes place once that has retired. -/
def State.haltIfDue (s : State) (c : CoreId) : State :=
  match (s.core c).haltDue with
  | some r => if s.headSent c || (s.core c).stalled.isSome then s else s.haltNow c r
  | none => s

/-- BRK: a held core halts at the BRK; otherwise the breakpoint exception. -/
def execBrk (x : Issue) (s : State) : Host.Outcome State Fault Refusal :=
  .next (s.instruction (.brk x) x true 0 fun s c b => some (if (s.core c).hold then s.haltCore c 2 else s.raise c b 6 0))

-- Sleeves (R127, R128, Table 14 of "Berths, the pilot and exceptions") ---------------------------------------------------------

/-- Read `n` words of a sleeve: the words, or the load result that ended the read. -/
def State.sleeveWords (s : State) (c : CoreId) (a : Nat) : Nat → State × (List Word ⊕ Loaded)
  | 0 => (s, .inl [])
  | n + 1 =>
    if s.inWindow a || 2 ^ 48 ≤ a then (s, .inr .busError)
    else match s.coreLoad c a .b8 with
      | (s, .ok v) =>
        match s.sleeveWords c (a + 8) n with
        | (s, .inl l) => (s, .inl (v :: l))
        | (s, .inr e) => (s, .inr e)
      | (s, e) => (s, .inr e)

/-- A failed sleeve read: poisoned data raises vector 7, anything else the sleeve fault. -/
def State.sleeveFail (s : State) (c : CoreId) (b : BerthId) (a : Nat) (e : Loaded) : State :=
  match e with
  | .poisoned => s.raise c b 7 (a % 2 ^ 48)
  | _ => s.raise c b 11 (a % 2 ^ 48)

/-- Whether a word names a sleeve: aligned to 256 bytes and below 2^48. -/
def sleeveAddr (v : Word) : Bool := v.toNat % 256 == 0 && v.toNat < 2 ^ 48

/-- Store words in rising addresses. -/
def State.storeWords (s : State) (c : CoreId) (b : BerthId) (a : Nat) (l : List Word) : State :=
  l.zipIdx.foldl (fun s p => s.coreStore c b (a + 8 * p.2) p.1 .b8) s

/-- SAVE.C and SAVE.H: 31 stores, the last into BACK of the next sleeve, and SLV moves to LINK. -/
def State.saveHalf (s : State) (c : CoreId) (b : BerthId) (kind : Nat) (half : List Word) : State :=
  let a := (s.berth c b).slv.toNat
  match s.sleeveWords c a 1 with
  | (s, .inl [link]) =>
    if link = 0 || !sleeveAddr link || s.inWindow (link.toNat + 8) || !s.mapped (link.toNat + 8) then s.raise c b 11 a
    else
      let s := s.storeWords c b (a + 16) (BitVec.ofNat 64 kind :: half ++ List.replicate 10 0)
      let s := s.coreStore c b (link.toNat + 8) (BitVec.ofNat 64 a) .b8
      s.mapBerth c b fun y => { y with slv := link }.next
  | (s, .inl _) => s.raise c b 11 a
  | (s, .inr e) => s.sleeveFail c b a e

/-- LOAD.C and LOAD.H: the sleeve at BACK with its KIND tested, or the fault that ends the instruction. -/
def State.loadHalf (s : State) (c : CoreId) (b : BerthId) (kind : Nat)
    (f : State → Word → List Word → State) : State :=
  let a := (s.berth c b).slv.toNat
  match s.sleeveWords c (a + 8) 1 with
  | (s, .inl [back]) =>
    if !sleeveAddr back then s.raise c b 11 (infoAddr back)
    else match s.sleeveWords c (back.toNat + 16) 20 with
      | (s, .inl (k :: half)) => if k.toNat = kind then f s back half else s.raise c b 11 back.toNat
      | (s, .inl _) => s.raise c b 11 back.toNat
      | (s, .inr e) => s.sleeveFail c b back.toNat e
  | (s, .inl _) => s.raise c b 11 a
  | (s, .inr e) => s.sleeveFail c b a e

/-- SAVE.C; it needs S. -/
def execSaveC (x : Issue) (s : State) : Host.Outcome State Fault Refusal :=
  .next (s.instruction (.saveC x) x true 1 fun s c b =>
    let y := s.berth c b
    let regs := (List.range 16).map fun i => y.reg (Fin.ofNat 32 i)
    if s.sbHeld c then none
    else some (s.saveHalf c b 1 (regs ++ [(y.p ||| 1).setWidth 64, y.pstat c b, y.era.setWidth 64])))

/-- SAVE.H; it needs S, and waits for FSTAT as a CRRD does (R145). -/
def execSaveH (x : Issue) (s : State) : Host.Outcome State Fault Refusal :=
  .next (s.instruction (.saveH x) x true 1 fun s c b =>
    let y := s.berth c b
    let regs := (List.range 16).map fun i => y.reg (Fin.ofNat 32 (16 + i))
    if s.tilePending c b || s.sbHeld c then none
    else some (s.saveHalf c b 2 (regs ++ [y.modeLast.setWidth 64, y.fstat.setWidth 64, y.town])))

/-- Load registers from consecutive words; g0 is not written. -/
def Berth.loadRegs (y : Berth) (first : Nat) (l : List Word) : Berth :=
  l.zipIdx.foldl (fun y p => y.setReg (Fin.ofNat 32 (first + p.2)) p.1) y

/-- LOAD.C; it needs S, and a stored PRIV above the current one raises the privilege exception. DESIGN CHOICE (log entry 26): a
stored PRIV of 0b10, which is reserved, meets that test first, as a number, and raises illegal opcode where it passes; at S it
therefore raises privilege. -/
def execLoadC (x : Issue) (s : State) : Host.Outcome State Fault Refusal :=
  .next (s.instruction (.loadC x) x true 1 fun s c b =>
    some (s.loadHalf c b 1 fun s back half =>
      let y := s.berth c b
      let p := half.getD 16 0
      let pstat := half.getD 17 0
      let priv := bitsNat pstat 1 0
      if y.priv.toNat < priv then s.raise c b 2 0
      else if priv = 2 then s.raise c b 1 0
      else
        let z := y.loadRegs 0 (half.take 16)
        s.setBerth c b { z with
          p := p.setWidth 8 ||| 1, ie := bitAt pstat 2, priv := pstat.setWidth 2
          era := (half.getD 18 0).setWidth 48 &&& ~~~3#48, slv := back }.next))

/-- LOAD.H; it needs S. MODE takes its shadow (R82). DESIGN CHOICE (log entry 26): a stored OSAT of 0b11 raises illegal opcode, and
set reserved bits of the stored MODE, FSTAT and TOWN words are dropped. -/
def execLoadH (x : Issue) (s : State) : Host.Outcome State Fault Refusal :=
  .next (s.instruction (.loadH x) x true 1 fun s c b =>
    if s.tilePending c b then none
    else some (s.loadHalf c b 2 fun s back half =>
      let y := s.berth c b
      let mode := half.getD 16 0
      let town := half.getD 18 0
      if bitsNat mode 2 1 = 3 then s.raise c b 1 0
      else
        let z := (y.loadRegs 16 (half.take 16)).writeMode (mode.setWidth 5)
        s.setBerth c b { z with
          fstat := (half.getD 17 0).setWidth 6, townEn := bitAt town 0, townSaved := bitAt town 1, slv := back }.next))

-- Customer instructions (R90, R91) ------------------------------------------------------------------------------------------------

/-- The instruction word of a customer instruction (R68, R90). -/
def customerWord (x : Issue) (major : Nat) (rd ra rb : Reg) (func : BitVec 7) : BitVec 32 :=
  BitVec.ofNat 32 (b2n x.sense * 2 ^ 31 + x.pred.val * 2 ^ 28 + major * 2 ^ 22 + rd.val * 2 ^ 17 + ra.val * 2 ^ 12 +
    rb.val * 2 ^ 7 + func.toNat)

/-- The tag of the next request on CPn: DESIGN CHOICE (log entry 92), the lowest that is not in flight, where a tag stays in flight
past its time limit until its late response has come (R91). -/
def Core.freeTag (k : Core) : Option Nat :=
  (List.range 32).find? fun t => !(k.cust.any fun r => r.tag.toNat == t) && !(k.custLate.any fun r => r.toNat == t)

/-- Send a request on CPn: illegal while CPn_PRESENT is low; it waits while all 32 tags are in flight. -/
def State.customer (s : State) (i : Instr) (x : Issue) (major : Nat) (rd ra rb : Reg) (func : BitVec 7) (writes : Bool) : State :=
  s.instruction i x (s.legal i) 0 fun s c b =>
    let k := s.core c
    let y := s.berth c b
    match k.freeTag with
    | none => none
    | some t =>
      let r : CustReq :=
        { tag := BitVec.ofNat 5 t, berth := b, insn := customerWord x major rd ra rb func, opa := y.reg ra,
          opb := y.reg rb, rd := if writes then some rd else none }
      let out : CpOut := { tag := r.tag, insn := r.insn, opa := r.opa, opb := r.opb }
      let s := s.setCore c { k with cust := k.cust ++ [r], cpOut := out }
      let s : State := { s with pins := { s.pins with cpReq := setBit s.pins.cpReq c.val true } }
      some (s.mapBerth c b fun z => { z with customer := some r.tag })

/-- CUSTW0. -/
def execCustw0 (x : Issue) (rd ra rb : Reg) (func : BitVec 7) (s : State) : Host.Outcome State Fault Refusal :=
  .next (s.customer (.custw0 x rd ra rb func) x 0x3C rd ra rb func true)

/-- CUSTW1. -/
def execCustw1 (x : Issue) (rd ra rb : Reg) (func : BitVec 7) (s : State) : Host.Outcome State Fault Refusal :=
  .next (s.customer (.custw1 x rd ra rb func) x 0x3D rd ra rb func true)

/-- CUST0. -/
def execCust0 (x : Issue) (rd ra rb : Reg) (func : BitVec 7) (s : State) : Host.Outcome State Fault Refusal :=
  .next (s.customer (.cust0 x rd ra rb func) x 0x3E rd ra rb func false)

/-- CUST1. -/
def execCust1 (x : Issue) (rd ra rb : Reg) (func : BitVec 7) (s : State) : Host.Outcome State Fault Refusal :=
  .next (s.customer (.cust1 x rd ra rb func) x 0x3F rd ra rb func false)

/-- The request of a tag in flight. -/
def Core.custReq (k : Core) (tag : BitVec 5) : Option CustReq := k.cust.find? (·.tag == tag)

/-- A request leaves the port. -/
def State.custDrop (s : State) (c : CoreId) (r : CustReq) : State :=
  let k := s.core c
  (s.setCore c { k with cust := k.cust.filter (·.tag != r.tag) }).mapBerth c r.berth fun y => { y with customer := none }

/-- Source 0x13 of a core. -/
def State.custFault (s : State) (c : CoreId) : State := s.detect (plainFault 0x13 c.val)

/-- Whether the clock of a core's coprocessor port runs (R305). -/
def State.custClock (s : State) (c : CoreId) : Bool := s.live && bitAt s.ck.gates c.val

/-- COPROCESSOR_RESPONSE (R42, R91): it completes the instruction; ERR raises bus error with INFO 0; a response after the time limit,
which was recorded then, is discarded and frees its tag (log entry 92); a tag that is not in flight is discarded and recorded as
source 0x13. A halt that waited for the response then takes place (R45). -/
def execCoprocessorResponse (core : CoreId) (tag : BitVec 5) (data : Word) (err : Bool) (s : State) :
    Host.Outcome State Fault Refusal :=
  if !s.custClock core then .next s
  else match (s.core core).custReq tag with
    | some r =>
      let t := s.custDrop core r
      .next ((if err then t.raise core r.berth 4 0
        else t.mapBerth core r.berth fun y => (match r.rd with | some d => y.setReg d data | none => y).next).haltIfDue core)
    | none =>
      let k := s.core core
      .next (if k.custLate.contains tag then s.setCore core { k with custLate := k.custLate.filter (· != tag) }
        else s.custFault core)

/-- COPROCESSOR_TIMEOUT (R91): the instruction raises bus error and the missing response is recorded. -/
def execCoprocessorTimeout (core : CoreId) (tag : BitVec 5) (s : State) : Host.Outcome State Fault Refusal :=
  if !s.custClock core then .next s
  else match (s.core core).custReq tag with
    | some r =>
      let t := s.custDrop core r
      let t := t.setCore core { t.core core with custLate := (t.core core).custLate ++ [tag] }
      .next (((t.raise core r.berth 4 0).custFault core).haltIfDue core)
    | none => .next s

end Sys2Proof.Machine
end

