-- ==== Sys2Proof/Machine/Checks.lean ====
section
/-! DEFINITION. The consistency check of R59: the configuration that a unit would have, and the checks of Table 7 of
"Structure image, enabling and host replies", each a reason code or 0. -/

namespace Sys2Proof.Machine

-- The configuration a unit would have (R59, R62) ----------------------------------------------------------------------------

/-- The bytes of a unit of FIRST and the entry count of a section that may be PARTIAL (Table 9). -/
def partialUnit (id : Nat) : Option (Nat × Nat) :=
  if id = secRoute then some (16, 32768)
  else if id = secRegion then some (32, 4096)
  else if id = secQueue then some (8, 11776)
  else if id = secDispatch then some (16, 65536)
  else if id = secPrograms then some (8, 8320)
  else if id = secCodes then some (1024, 4)
  else if id = secCurves then some (512, 8)
  else if id = secPilot then some (16, 4096)
  else none

/-- Whether a section may become active while its unit is enabled (Table 9). -/
def replaceable (id : Nat) : Bool :=
  (partialUnit id).isSome || id == secSleep || id == secThrottle || id == secSafety

/-- The sections of a unit (Table 7). -/
def EnUnit.sections : EnUnit → List Nat
  | .clock => [secClock, secThrottle]
  | .memory => [secMap]
  | .l2 => [secL2]
  | .quay => [secPrograms]
  | .link => [secLink, secRoute, secSleep]
  | .hawser => [secHawser]
  | .dock => [secRegion, secQueue, secDispatch]
  | .epilogue => [secCodes, secCurves]
  | .pilot => [secPilot]
  | .safety => [secSafety]
  | .core _ => [secCore]

/-- The pending section of an id. -/
def State.pendSect (s : State) (id : Nat) : Option Sect := aget id s.si.pend

/-- A section with its pending body in place: whole, or a run of entries over the active body (R62). -/
def State.composed (s : State) (id : Nat) : Option Blob :=
  match s.pendSect id with
  | none => aget id s.si.active
  | some p =>
    if p.isPartial then
      let unit := match partialUnit id with | some u => u.1 | none => 1
      some ((s.sect id).patch (unit * p.first) p.body)
    else some p.body

/-- The slots of a table section with its pending body in place (R154, R156, R183). -/
def State.composedSlots (s : State) (id size : Nat) (now : List Blob) : List Blob :=
  match s.pendSect id with
  | none => now
  | some p =>
    now.zipIdx.map fun (x : Blob × Nat) =>
      if p.isPartial then
        (if p.first ≤ x.2 ∧ x.2 < p.first + p.body.len / size then p.body.slice (size * (x.2 - p.first)) size else x.1)
      else p.body.slice (size * x.2) size

/-- The code-table slots of a request. -/
def State.composedCodes (s : State) : List Blob := s.composedSlots secCodes 1024 s.si.codes

/-- The curve slots of a request. -/
def State.composedCurves (s : State) : List Blob := s.composedSlots secCurves 512 s.si.curves

/-- The entries of a section that its pending body replaces: a run, or all. -/
def State.replaces (s : State) (id i : Nat) : Bool :=
  match s.pendSect id, partialUnit id with
  | some p, some u => !p.isPartial || (p.first ≤ i && i < p.first + p.body.len / u.1)
  | some _, none => true
  | none, _ => false

-- Shapes of checks -------------------------------------------------------------------------------------------------------------

/-- The code of the first condition that holds, 0 for none. -/
def firstCode : List (Bool × Nat) → Nat
  | [] => 0
  | (b, c) :: t => if b then c else firstCode t

/-- Whether any of the fields (byte, lowest bit, width) at an offset is not zero. -/
def anyBits (p : Blob) (off : Nat) (l : List (Nat × Nat × Nat)) : Bool :=
  l.any fun f => p.field (off + f.1) f.2.1 f.2.2 != 0

/-- Whether two intervals (base, length) of a list meet. -/
def overlapping : List (Nat × Nat) → Bool
  | [] => false
  | x :: t => t.any (fun y => x.1 < y.1 + y.2 && y.1 < x.1 + x.2) || overlapping t

/-- Whether a list strictly increases. -/
def increasing : List Int → Bool
  | a :: b :: t => a < b && increasing (b :: t)
  | _ => true

/-- Whether a list never falls. -/
def rising : List Nat → Bool
  | a :: b :: t => a ≤ b && rising (b :: t)
  | _ => true

-- CLOCK (R307, R314) -------------------------------------------------------------------------------------------------------------

/-- The CLOCK check. -/
def checkClock (p t : Blob) : Nat :=
  let div := (List.range 16).map (coreDiv p)
  let fix := (List.range 8).map fun i => p.byte (16 + i)
  let cand := (List.range 4).map fun i => p.field (25 + i) 0 6
  let real := cand.filter (· != 0x3F)
  let warn := warnPpm p
  let switch := switchPpm p
  let depth := sscDepth p
  let rate := p.byte 37
  let ix := List.range (Nat.min (thEntries t) 8)
  firstCode [
    (div.any fun d => !([3, 4, 6].contains d), 0x0201),
    (fix != [6, 6, 6, 8, 12, 24, 48, 96], 0x0202),
    (!decide real.Nodup, 0x0203),
    (warn < 10 || 100 < warn || switch < 20 || 300 < switch || switch ≤ warn, 0x0205),
    (10 < depth || !((20 ≤ rate && rate ≤ 60) || (rate == 0 && depth == 0)), 0x0204),
    (!increasing (ix.map fun i => (thThresh t i : Int)) || !rising (ix.map (thDiv t)) ||
      ix.any (fun i => 840 < thThresh t i), 0x0206),
    (real.any (48 ≤ ·) || 8 < thEntries t || ix.any (fun i => thDiv t i != 4 && thDiv t i != 6) ||
      anyBits p 0 [(24, 1, 7), (25, 6, 2), (26, 6, 2), (27, 6, 2), (28, 6, 2), (29, 0, 24)] || !p.zeroFrom 38 ||
      anyBits t 0 [(0, 4, 4), (2, 0, 48)] || !t.zeroFrom 40 ||
      (List.range 8).any (fun i => anyBits t (8 + 4 * i) [(0, 10, 6), (3, 0, 8)]), 0x0110)]

-- MEMORY (R250) -------------------------------------------------------------------------------------------------------------------

/-- The MEMORY check. -/
def checkMemory (p : Blob) : Nat :=
  let avail := reached p 32 16
  let ix := List.range (Nat.min (nRange p) (Nat.min 64 avail))
  let ranges := ix.map fun i => (rangeBase p i / 4096 * 4096, rangeLen p i / 4096 * 4096)
  let ivs := ranges.filter (fun r => r.2 != 0) ++
    [(dockWin p / 2 ^ 20 * 2 ^ 20, 0xA0000), (tpWin p / 2048 * 2048, 0x800)]
  firstCode [
    (overlapping ivs, 0x010C),
    (ivs.any (fun r => 2 ^ 48 < r.1 + r.2) || 2 ^ 39 < ranges.foldl (fun a r => a + r.2) 0, 0x010D),
    (tmemMax p == 0 || 4096 < tmemMax p, 0x010E),
    (64 < nRange p || avail < nRange p ||
      anyBits p 0 [(0, 7, 1), (1, 0, 8), (3, 5, 3), (4, 0, 32), (8, 0, 20), (14, 0, 16), (16, 0, 11), (22, 0, 16), (24, 0, 64)] ||
      ix.any (fun i => rangeLen p i / 4096 == 0 ||
        anyBits p (32 + 16 * i) [(0, 0, 12), (6, 0, 16), (8, 0, 12), (14, 0, 16)]) ||
      !p.zeroFrom 1056, 0x0110)]

-- L2 (R219, R220) -------------------------------------------------------------------------------------------------------------------

/-- The L2 check against the active MEMORY_MAP; an absent plan is accepted (R363). -/
def checkL2 (plan : Option Blob) (map : Blob) : Nat :=
  match plan with
  | none => 0
  | some p =>
    let ways := (List.range 16).map fun i => p.field i 0 4
    let w := p.field 0 0 4
    let base := p.field 16 0 48 / 2 ^ 25 * 2 ^ 25
    let len := w * 0x200000
    let others := (List.range (nRange map)).map (fun i => (rangeBase map i, rangeLen map i)) ++
      [(dockWin map, 0xA0000), (tpWin map, 0x800)]
    let tide := p.field 24 0 4
    firstCode [
      (ways.any (12 < ·), 0x0301),
      (tide == 0 || 8 < tide, 0x0302),
      (ways.any (· != w) || (w != 0 && (2 ^ 48 < base + len ||
        others.any (fun r => base < r.1 + r.2 && r.1 < base + len))), 0x0303),
      ((List.range 16).any (fun i => p.field i 4 4 != 0) || anyBits p 0 [(16, 0, 25), (22, 0, 16), (24, 4, 4)] ||
        !p.zeroFrom 25, 0x0110)]

-- EPILOGUE (R155, R183) ---------------------------------------------------------------------------------------------------------------

/-- The order of a sign-magnitude word: equal for the two zeros. -/
def signMag (w sign : Nat) : Int := if w / sign % 2 = 1 then -((w % sign : Nat) : Int) else ((w % sign : Nat) : Int)

/-- Whether BF16 entries strictly increase; −0 directly followed by +0 is allowed. -/
def codesRise : List Nat → Bool
  | a :: b :: t => (signMag a 0x8000 < signMag b 0x8000 || (a == 0x8000 && b == 0)) && codesRise (b :: t)
  | _ => true

/-- A slot's entries in order, without NaN entries. -/
def slotEntries (p : Blob) : List Nat :=
  ((orderList p).map fun c => p.field (64 + 2 * c) 0 16).filter (fun w => !bf16IsNan w)

/-- The EPILOGUE check over the slots that hold a table. -/
def checkEpilogue (codes curves : List Blob) : Nat :=
  let cs := codes.filter fun p => p.field 0 0 1 == 1
  let vs := curves.filter fun p => p.field 0 0 1 == 1
  let xs (p : Blob) : List Nat := (List.range (p.field 1 0 5 + 1)).map fun i => p.field (32 + 15 * i) 0 40
  firstCode [
    (cs.any (fun p => !codesRise (slotEntries p)), 0x0A01),
    (cs.any (fun p => (List.range 256).any fun c => p.field (32 + c / 8) (c % 8) 1 == 1 && bf16IsNan (p.field (64 + 2 * c) 0 16)),
      0x0A02),
    (vs.any (fun p => (xs p).any (fun x => x / 2 ^ 29 % 1024 == 1023) ||
      !increasing ((xs p).map fun x => signMag x (2 ^ 39))), 0x0A03),
    (cs.any (fun p => anyBits p 0 [(0, 2, 6), (1, 0, 24), (6, 0, 208)] || !p.zeroFrom 576) ||
      vs.any (fun p => anyBits p 0 [(0, 1, 7), (1, 5, 3), (2, 0, 240)]), 0x0110)]

-- CORE (R130) ---------------------------------------------------------------------------------------------------------------------------

/-- The CORE check. -/
def checkCore (p : Blob) (present : BitVec 16) : Nat :=
  let ix := List.range 16
  firstCode [
    (ix.any (fun n => planPresent p n && planSpare p n) || !ix.any (planPresent p), 0x010B),
    (ix.any (fun n => planPresent p n && bitAt present n && (planCpLimit p n == 0 || 4096 < planCpLimit p n)), 0x010F),
    (ix.any (fun n => anyBits p (32 * n)
      [(0, 3, 5), (1, 0, 24), (5, 5, 3), (6, 0, 16), (8, 0, 2), (14, 0, 16), (16, 0, 128)]) || !p.zeroFrom 512, 0x0110)]

-- SAFETY (R329) -------------------------------------------------------------------------------------------------------------------------

/-- Whether a LINK_PLAN has a NODE link of an accelerator. -/
def hasNodeLink (p : Blob) (accel : Nat) : Bool :=
  (List.range 48).any fun n => linkRole p n == 0 && linkAccel p n == accel

/-- The SAFETY check against the active LINK_PLAN. -/
def checkSafety (p links : Blob) : Nat :=
  let td := p.field 0 0 5
  let st := p.field 1 0 6
  let out := planOutEn p
  let sRows : BitVec 41 := 0x1FB
  firstCode [
    (td == 0 || 20 < td, 0x0901),
    (st == 0 || 32 < st, 0x0902),
    (out != 0 && (planMask p &&& sRows) != 0, 0x0903),
    ((List.range 8).any (fun i => bitAt out i && !hasNodeLink links i), 0x0904),
    (9 < p.field 2 0 4 || planRetC p == 0 || planRetU p == 0 ||
      anyBits p 0 [(0, 5, 3), (1, 6, 2), (2, 4, 4), (3, 0, 8), (5, 2, 6), (9, 0, 56), (21, 1, 7), (22, 0, 16)] || !p.zeroFrom 24,
      0x0110)]

-- QUAY (R234-R236) ------------------------------------------------------------------------------------------------------------------------

/-- The fields that a micro-op uses: D, A, B, C, K, IMM; none for an undefined OP (Table 7). -/
def microUses (op : Nat) : Option (List Bool) :=
  let u (d a b c k i : Bool) : Option (List Bool) := some [d, a, b, c, k, i]
  if op = 0x00 then u false false false false false false
  else if op = 0x01 then u true false false false true false
  else if op = 0x02 then u false true false false true false
  else if op = 0x06 ∨ op = 0x10 then u true true true true false false
  else if [0x03, 0x04, 0x05, 0x07, 0x08, 0x0B].contains op then u true true true false false false
  else if [0x09, 0x0A, 0x0C, 0x0D, 0x0E, 0x11].contains op then u true true false false false false
  else if op = 0x0F then u true true false false false true
  else if op = 0x20 ∨ op = 0x21 then u false true false false false true
  else none

/-- A word that 0x0501 refuses: an undefined OP, or a destination past v7. -/
def microUndefined (w : BitVec 64) : Bool :=
  match microUses (moOp w) with
  | none => true
  | some us => us.headD false && 8 ≤ moD w

/-- A word with a bit set in a field that its operation does not use, or in a reserved one (R235). -/
def microReserved (w : BitVec 64) : Bool :=
  match microUses (moOp w) with
  | none => false
  | some us =>
    bitsNat w 38 16 != 0 || (moOp w == 0x21 && 4 ≤ moA w) ||
      (us.zip [moD w, moA w, moB w, moC w, moK w, moImm w]).any fun f => !f.1 && f.2 != 0

/-- A program whose LOOP or SKIP reaches past its last micro-op. -/
def microReach (prog : List (BitVec 64)) : Bool :=
  prog.zipIdx.any fun x =>
    (moOp x.1 == 0x20 && prog.length ≤ x.2 + moA x.1 + 1) || (moOp x.1 == 0x21 && prog.length ≤ x.2 + moImm x.1)

/-- A program that 0x0503 refuses: empty, not ending with END, or with a bad LOOP (R236). -/
def microShape (prog : List (BitVec 64)) : Bool :=
  (match prog.getLast? with | some w => moOp w != 0 | none => true) ||
    prog.zipIdx.any fun x => moOp x.1 == 0x20 &&
      (moImm x.1 == 0 || ((prog.drop (x.2 + 1)).take (moA x.1 + 1)).any fun w => [0x00, 0x20, 0x21].contains (moOp w))

/-- The QUAY check. -/
def checkQuay (p : Blob) : Nat :=
  let words := Nat.min (reached p 1024 8) 8192
  let ds := (List.range 64).filter (prValid p)
  let progs := ds.filter fun d => !prProfile p d
  let profs := ds.filter (prProfile p)
  let fits := progs.filter fun d => prStart p d + prLen p d ≤ words
  let bodies := fits.map (programOf p)
  let all := (List.range words).map (prWord p)
  firstCode [
    (all.any microUndefined, 0x0501),
    (66560 < p.len || progs.any (fun d => words < prStart p d + prLen p d) || bodies.any microReach, 0x0502),
    (bodies.any microShape || progs.any (prLen p · == 0), 0x0503),
    (profs.any (fun d => prXscale p d == -256), 0x0504),
    (all.any microReserved ||
      ds.any (fun d => anyBits p (16 * d) [(0, 2, 6), (1, 0, 8), (3, 5, 3), (5, 6, 2), (6, 3, 5), (8, 1, 7), (9, 0, 56)]) ||
      profs.any (fun d => prStart p d != 0 || prLen p d != 0 || 4 < prXfmt p d) ||
      progs.any (fun d => prXfmt p d != 0 || prXscale p d != 0), 0x0110)]

-- LINK (R290, R292, R300) -------------------------------------------------------------------------------------------------------------------

/-- The states of a sleep machine that transitions reach from the given ones. -/
def smReach (m : Blob) (states : Nat) : Nat → List Nat → List Nat
  | 0, l => l
  | k + 1, l =>
    let new := l.flatMap fun st => ((List.range 16).map fun e => smEntry m (BitVec.ofNat 4 st) e).filter (· != 0) |>.map (· % 16)
    smReach m states k ((l ++ new).eraseDups.filter (· < states))

/-- The checks of the sleep machine: 0x0704, 0x0705, and reserved fields. -/
def smUndefined (m : Blob) : Bool :=
  let states := m.field 1 0 4 + 1
  let awake := (smAwake m).toNat
  let entries := (List.range states).flatMap fun st => (List.range 16).map fun e => smEntry m (BitVec.ofNat 4 st) e
  states ≤ awake || states ≤ (smSlack m).toNat || entries.any (fun e => states ≤ e % 16) ||
    (List.range states).any fun st => !(smReach m states states [awake]).contains st

/-- Whether the machine cannot wake out of slack. -/
def smNoWake (m : Blob) : Bool :=
  let e := smEntry m (smSlack m) 5
  e / 16 % 16 != 4 && (e == 0 || e % 16 == (smSlack m).toNat)

/-- Whether a reserved field or value of the machine is set. -/
def smReserved (m : Blob) : Bool :=
  anyBits m 0 [(0, 1, 7), (1, 4, 4), (2, 4, 4), (3, 4, 4), (20, 0, 96)] || !m.zeroFrom 544 ||
    (List.range 256).any fun i =>
      let e := m.field (32 + 2 * i) 0 16
      8 ≤ e / 16 % 16 || e / 256 % 4 == 3 || 1024 ≤ e

/-- The LINK check: LINK_PLAN, ROUTE_TABLE and the sleep machine of a request. -/
def checkLink (p r : Blob) (sm : Option Blob) (node : Nat) : Nat :=
  let roles := (List.range 48).map (linkRole p)
  let nodes := List.range (reached r 0 16)
  let choices := nodes.map fun n => (n, routeChoices r n)
  let role (l : Nat) : Nat := if l < 48 then linkRole p l else 3
  firstCode [
    (8 < (roles.filter (· == 0)).length, 0x0706),
    (choices.any (fun x => x.2.any (fun c => role c.link != 1 && role c.link != 2) ||
      (match x.2 with | c :: _ => role c.link == 2 | [] => false)), 0x0702),
    (!(routeChoices r node).isEmpty, 0x0707),
    (choices.any (fun x => x.2.any fun c => role c.link == 1 && linkPeer p c.link == node), 0x0701),
    (choices.any (fun x => !rising (x.2.map (·.rank))), 0x0703),
    (match sm with | some m => smUndefined m | none => false, 0x0704),
    (match sm with | some m => smNoWake m | none => false, 0x0705),
    ((List.range 48).any (fun n => 32 * n < p.len && (linkRole p n == 3 || (linkRole p n != 0 && linkAccel p n != 0) ||
        (linkRole p n != 1 && linkPeer p n != 0) ||
        anyBits p (32 * n) [(0, 5, 3), (1, 0, 8), (3, 7, 1), (4, 0, 224)])) || !p.zeroFrom 1536 ||
      nodes.any (fun n => anyBits r (16 * n) [(8, 0, 64)] ||
        (List.range 4).any fun i => let w := r.field (16 * n + 2 * i) 0 16; w % 2 == 1 && 1024 ≤ w) ||
      (match sm with | some m => smReserved m | none => false), 0x0110)]

-- DOCK (R251, R253, R195) -------------------------------------------------------------------------------------------------------------------

/-- The valid regions of a body. -/
def validRegions (p : Blob) : List Nat := (List.range (Nat.min (reached p 0 32) 4096)).filter (regValid p)

/-- The intervals of the valid regions that match an address. -/
def regionIvs (p : Blob) : List (Nat × Nat) :=
  ((validRegions p).map fun i => (regBase p i / 64 * 64, regLen p i)).filter fun r => r.2 != 0

/-- The REGION_TABLE part of the DOCK check. -/
def State.checkRegions (s : State) (p : Blob) : Nat :=
  let ix := validRegions p
  let progs := s.programs
  firstCode [
    (overlapping (regionIvs p), 0x0401),
    ((regionIvs p).any (fun r => !s.rangeCovers r.1 r.2), 0x0402),
    (ix.any (fun i => regAttr p i == 2 &&
      (regSlotLog2 p i < 6 || 22 < regSlotLog2 p i || regLen p i % 2 ^ regSlotLog2 p i != 0)), 0x0403),
    (ix.any (fun i => regAttr p i == 1 && regLen p i % 8 != 0), 0x0404),
    (ix.any (fun i =>
      let e := regEntry p i
      (regAttr p i == 0 && regEntryEn p i && !(prValid progs e && !prProfile progs e)) ||
        (regAttr p i == 1 && !(regEntryEn p i && prValid progs e && prProfile progs e))), 0x0505),
    (ix.any (fun i => regAttr p i == 3 || (regAttr p i == 2 && (regEntryEn p i || regEntry p i != 0)) ||
      (regAttr p i != 2 && regSlotLog2 p i != 0) || (!regEntryEn p i && regEntry p i != 0) ||
      anyBits p (32 * i) [(0, 6, 2), (1, 6, 2), (2, 5, 3), (3, 0, 8), (5, 7, 1), (7, 7, 1), (8, 0, 6), (14, 0, 16), (22, 0, 16),
        (24, 0, 64)]), 0x0110)]

/-- Take away the queues whose wait set has no queue left; what stays after enough rounds waits in a cycle. -/
def pruneWaits (p : Blob) : Nat → List Nat → List Nat
  | 0, l => l
  | k + 1, l =>
    let t := l.filter fun q => l.any fun r => quWaitFirst p q ≤ r && r < quWaitFirst p q + quWaitN p q
    if t.length = l.length then l else pruneWaits p k t

/-- The QUEUE_PLAN part of the DOCK check, against the regions of the request and the active LINK_PLAN. -/
def checkQueues (p regions links : Blob) : Nat :=
  let qs := (List.range (Nat.min (reached p 0 16) 4096)).filter (quValid p)
  let ws := (List.range (Nat.min (reached p 65536 8) 3584)).filter (waValid p)
  let ivs := regionIvs regions
  firstCode [
    (qs.any (fun q => !coveredFrom ivs (ivs.length + 1) (quRingBase p q / 64 * 64) (1024 * 2 ^ quRingLog2 p q)), 0x0405),
    (qs.any (fun q => quBound p q && quLink p q < 48 && linkRole links (quLink p q) == 2), 0x040A),
    (qs.any (fun q => 8 < quWaitN p q || (List.range (quWaitN p q)).any fun i =>
      let r := quWaitFirst p q + i
      4096 ≤ r || !(16 * r < p.len && quValid p r)), 0x0407),
    (!(pruneWaits p (qs.length + 1) (qs.filter fun q => quWaitN p q != 0)).isEmpty, 0x0406),
    (qs.any (fun q => (!quBound p q && quLink p q != 0) || 48 ≤ quLink p q ||
        anyBits p (16 * q) [(0, 3, 5), (1, 6, 2), (3, 0, 8), (5, 4, 4), (8, 0, 6), (14, 0, 16)]) ||
      ws.any (fun w => anyBits p (65536 + 8 * w) [(0, 1, 7), (1, 0, 8), (4, 0, 32)]) || !p.zeroFrom 94208, 0x0110)]

/-- The DISPATCH_TABLE part of the DOCK check, against the active ROUTE_TABLE. An entry before a PARTIAL body that no body has reached
is absent (R361): `given` says which entries a pending body gives. -/
def checkDispatch (p routes : Blob) (node : Nat) (given : Nat → Bool) : Nat :=
  let es := (List.range (Nat.min (reached p 0 16) 65536)).filter fun e => given e || p.field (16 * e) 0 128 != 0
  firstCode [
    (es.any (fun e => (List.range (Nat.min (diReplicas p e) 4)).any fun i =>
      diNode p e i != node && (routeChoices routes (diNode p e i)).isEmpty), 0x0408),
    (es.any (fun e => diReplicas p e == 0 || 4 < diReplicas p e), 0x0409),
    (es.any (fun e => anyBits p (16 * e) [(0, 3, 5), (1, 0, 8), (2, 0, 6), (9, 7, 1), (11, 7, 1), (13, 7, 1), (15, 7, 1)] ||
      (List.range 4).any fun i => diReplicas p e ≤ i && p.field (16 * e + 8 + 2 * i) 0 16 != 0), 0x0110)]

/-- The DOCK check: REGION_TABLE, then QUEUE_PLAN, then DISPATCH_TABLE (Table 7). -/
def State.checkDock (s : State) : Nat :=
  let regions := (s.composed secRegion).getD Blob.empty
  let a := s.checkRegions regions
  if a != 0 then a
  else
    let b := checkQueues ((s.composed secQueue).getD Blob.empty) regions (s.sect secLink)
    if b != 0 then b
    else checkDispatch ((s.composed secDispatch).getD Blob.empty) (s.sect secRoute) s.si.nodeId.toNat (s.replaces secDispatch)

-- HAWSER (R273, R274) -------------------------------------------------------------------------------------------------------------------------

/-- The HAWSER check, against the active LINK_PLAN and MEMORY_MAP: every range spreads over every port (R250), so an engine
has a range on its port exactly when there is one. The reserved bits of Table 2 are tested in every element that the body reaches;
the fields that a position makes zero, in the elements of valid chains (log entry 69). -/
def State.checkHawser (s : State) (p : Blob) : Nat :=
  let links := s.sect secLink
  let node := s.si.nodeId.toNat
  let chains := (List.range (Nat.min (reached p 0 64) 1024)).filter (chValid p)
  let els := Nat.min (reached p 65536 16) 12288
  let pos (i : Nat) : List (Nat × Nat) := (List.range (chNpos p i)).map fun k => (k, chFirst p i + k)
  let own (e : Nat) : Bool := elNode p e == node
  let last (i k : Nat) : Bool := k + 1 == chNpos p i
  firstCode [
    (chains.any (fun i => !decide ((pos i).map fun x => elNode p x.2).Nodup), 0x0601),
    (chains.any (fun i => (pos i).any fun x =>
      own x.2 && !last i x.1 && elLink p x.2 < 48 && linkRole links (elLink p x.2) == 2), 0x0602),
    (chains.any (fun i => chBraid p i && (pos i).any fun x =>
      let t := elStrand p x.2
      !(chains.contains t && !chBraid p t && elNode p (chFirst p t + chNpos p t - 1) == elNode p x.2)), 0x0603),
    (chains.any (fun i => chBraid p i && 64 < chNpos p i), 0x0604),
    (nRange (s.sect secMap) == 0 && chains.any (fun i => (pos i).any fun x => own x.2), 0x0605),
    (chains.any (fun i => chPace p i < 7 || chNpos p i < 2 || 512 < chNpos p i || els < chFirst p i + chNpos p i ||
      (if chBraid p i then chInFmt p i != 0 || chResFmt p i == 3 else chResFmt p i != 0) ||
      anyBits p (64 * i) [(0, 6, 2), (3, 2, 6), (5, 6, 2), (14, 0, 16), (22, 0, 16), (24, 0, 320)] ||
      (pos i).any fun x =>
        (if own x.2 && !last i x.1 then 48 ≤ elLink p x.2 else elLink p x.2 != 0) ||
          (!chBraid p i && elStrand p x.2 != 0) || ((chBraid p i || !own x.2) && elOperand p x.2 != 0)) ||
      (List.range els).any (fun e => anyBits p (elOff e) [(1, 7, 1), (2, 4, 4), (3, 6, 2), (5, 2, 6), (6, 0, 16), (14, 0, 16)]), 0x0110)]

-- PILOT (R111, R112) ----------------------------------------------------------------------------------------------------------------------------

/-- The ids whose entry must have VALID 0 (Table 1). -/
def reservedEvent (i : Nat) : Bool := (8 ≤ i && i < 16) || (32 ≤ i && i < 256)

/-- The PILOT check, against the enabled cores and the active REGION_TABLE. Berth 0 of an enabled core is used (R108). -/
def State.checkPilot (s : State) (p : Blob) : Nat :=
  let berths := (List.range 16).flatMap fun c => (List.range 8).map fun b => (c, b)
  let entries := berths.filter fun x => x.2 == 0 || berthUsed p x.1 x.2
  let spill := berths.filter fun x => p.field (berthOff x.1 x.2) 0 1 == 1 || (x.2 == 0 && s.enabled (.core (Fin.ofNat 16 x.1)))
  let evs := (List.range (Nat.min (reached p 4096 16) 3840)).filter (evValid p)
  let ivs := regionIvs (s.sect secRegion)
  let inside (a n : Nat) : Bool := coveredFrom ivs (ivs.length + 1) a n
  firstCode [
    (evs.any (fun i => (evTargets p i).any fun c =>
      !s.enabled (.core c) || (evBerth p i < 8 && !berthUsed p c.val (evBerth p i))), 0x0801),
    (evs.any (fun i => 8 ≤ evBerth p i), 0x0802),
    (evs.any (fun i => evVector p i < 64), 0x0804),
    (entries.any (fun x => 2 ≤ p.field (berthOff x.1 x.2) 2 2) ||
      spill.any (fun x =>
        !inside (berthInbox p x.1 x.2 % 2 ^ 48 / 64 * 64) (64 + 64 * berthInboxSlots p x.1 x.2) ||
          !inside (berthSpillBase p x.1 x.2 % 2 ^ 48 / 64 * 64) (16 * berthSpillSlots p x.1 x.2)), 0x0803),
    (!evs.contains 1 || (evTargets p 1).any (fun c => !berthCompat p c.val (evBerth p 1)), 0x0805),
    (evs.any (fun i => reservedEvent i ||
        anyBits p (evOff i) [(0, 2, 6), (1, 4, 4), (3, 4, 4), (5, 0, 88)]) ||
      entries.any (fun x => anyBits p (berthOff x.1 x.2)
        [(2, 0, 48), (8, 0, 2), (14, 0, 16), (16, 0, 6), (22, 0, 16), (24, 0, 6), (30, 0, 16)] ||
        (x.2 == 0 && anyBits p (berthOff x.1 x.2) [(0, 0, 1), (0, 4, 4), (8, 0, 64)])), 0x0110)]

-- The whole check (R59) -------------------------------------------------------------------------------------------------------------------------

/-- Test 1: a required section is absent (R363). -/
def State.checkAbsent (s : State) (u : EnUnit) : Bool :=
  match u with
  | .memory => (s.composed secMap).isNone
  | .safety => (s.composed secSafety).isNone
  | _ => false

/-- The pending sections of a unit. -/
def State.pendingOf (s : State) (u : EnUnit) : List Nat := u.sections.filter fun id => (s.pendSect id).isSome

/-- Test 4: the pending CORE_PLAN changes the entry of another enabled core (R131). -/
def State.planMoves (s : State) (n : CoreId) : Bool :=
  let old := s.sect secCore
  let new := (s.composed secCore).getD Blob.empty
  allCores.any fun m => m != n && s.enabled (.core m) && old.slice (32 * m.val) 32 != new.slice (32 * m.val) 32

/-- The checks of Table 7 on the configuration that the unit would have. -/
def State.checkUnit (s : State) (u : EnUnit) : Nat :=
  let sec (id : Nat) : Blob := (s.composed id).getD Blob.empty
  match u with
  | .clock => checkClock ((s.composed secClock).getD defaultClockPlan) (sec secThrottle)
  | .memory => checkMemory (sec secMap)
  | .l2 => checkL2 (s.composed secL2) (s.sect secMap)
  | .quay => checkQuay (sec secPrograms)
  | .link => checkLink (sec secLink) (sec secRoute) (s.composed secSleep) s.si.nodeId.toNat
  | .hawser => s.checkHawser (sec secHawser)
  | .dock => s.checkDock
  | .epilogue => checkEpilogue s.composedCodes s.composedCurves
  | .core _ => checkCore (sec secCore) s.cpPresent
  | .pilot => s.checkPilot (sec secPilot)
  | .safety => checkSafety (sec secSafety) (s.sect secLink)

/-- The reason with which a check refuses a request, 0 where it accepts (R59). -/
def State.checkReason (s : State) (u : EnUnit) : Nat :=
  firstCode [
    (s.checkAbsent u, 0x0115),
    (s.enabled u && (s.pendingOf u).any fun id => !replaceable id, 0x010A),
    ((s.pendingOf u).contains secSafety && s.anyReleased, 0x0905),
    (match u with | .core n => s.planMoves n | _ => false, 0x010A),
    (s.checkUnit u != 0, s.checkUnit u),
    (match u with | .core n => !planPresent ((s.composed secCore).getD Blob.empty) n.val | _ => false, 0x0112)]

end Sys2Proof.Machine
end

