-- ==== Sys2Proof/Machine/LoadStore.lean ====
section
/-! DEFINITION. Loads, stores, atomics, prefetch, cache maintenance and fences (R75-R78, R209-R211, R221), with the
steps by which a core's stores and fills proceed (R102, R126, R202, R206, R218). -/

namespace Sys2Proof.Machine

-- Loads and stores --------------------------------------------------------------------------------------------------

/-- The checks of an effective address (R75): misaligned first, then bits [63:48]. -/
def State.checkAddress (s : State) (c : CoreId) (b : BerthId) (a : Word) (size : Size) (k : State) : State :=
  if !alignedTo a size then s.raise c b 3 (infoAddr a)
  else if !canonical a then s.raise c b 4 (infoAddr a)
  else k

/-- A load into rd; `f` makes the further register changes of the form once the load has succeeded. -/
def State.loadTo (s : State) (c : CoreId) (b : BerthId) (rd : Reg) (a : Word) (size : Size) (signed : Bool)
    (f : Berth → Berth) : State :=
  s.checkAddress c b a size
    (match s.coreLoad c a.toNat size with
    | (t, .ok v) => t.mapBerth c b fun y => ((f y).setReg rd (extendLoaded v size signed)).next
    | (t, .busError) => t.raise c b 4 (infoAddr a)
    | (t, .poisoned) => t.raise c b 7 (infoAddr a))

/-- A store of a value; it enters the store buffer. -/
def State.storeFrom (s : State) (c : CoreId) (b : BerthId) (v a : Word) (size : Size) (f : Berth → Berth) : State :=
  s.checkAddress c b a size ((s.coreStore c b a.toNat v size).mapBerth c b fun y => (f y).next)

/-- Whether a load of a line waits for the fill of its L1D (R102, R202): it misses there, and not every byte of it is in the
store buffer. -/
def State.fillWaits (s : State) (c : CoreId) (a : Nat) (size : Size) : Bool :=
  bitAt s.l2.den c.val && !s.inWindow a && s.mapped a && ((s.core c).l1d.find (a / 64)).isNone &&
    !((List.range (sizeBytes size)).all fun i => (sbByte (s.core c).sb (a + i)).isSome)

/-- Whether a load must wait: for the fill of its line, for its slice, or, at a window, for a store that must leave first. -/
def State.loadWaits (s : State) (c : CoreId) (a : Word) (size : Size) (whole : Bool) : Bool :=
  alignedTo a size && canonical a &&
    ((!whole && s.fillWaits c a.toNat size) ||
      (!s.inWindow a.toNat && s.mapped a.toNat && s.lineWaits (a.toNat / 64) && ((s.core c).l1d.find (a.toNat / 64)).isNone) ||
      (s.inWindow a.toNat && s.sbHeld c))

/-- The request of a load that waits: its line is to be filled into the L1D, once. -/
def State.askFill (s : State) (c : CoreId) (a : Word) (size : Size) : State :=
  let k := s.core c
  let line := a.toNat / 64
  if alignedTo a size && canonical a && s.fillWaits c a.toNat size && !k.fills.contains line then
    s.setCore c { k with fills := k.fills ++ [line] }
  else s

/-- The frame of a load (R75, R76, R102): while it misses the L1D it waits for the fill that it asks for; `whole` when the line is
there, or when the load completes within the instruction that makes it (log entry 89). -/
def State.load (s : State) (i : Instr) (x : Issue) (whole : Bool) (rd : Reg) (size : Size) (signed : Bool)
    (address : Berth → Word) (f : Berth → Berth) : State :=
  s.instructionBy i x (s.legal i) 0 Berth.countMode (fun s c b => s.askFill c (address (s.berth c b)) size) fun s c b =>
    let a := address (s.berth c b)
    if s.loadWaits c a size whole then none else some (s.loadTo c b rd a size signed f)

/-- ra := ra + size. -/
def Berth.bump (y : Berth) (ra : Reg) (size : Size) : Berth := y.setReg ra (y.reg ra + BitVec.ofNat 64 (sizeBytes size))

/-- A load instruction, `whole` or waiting for its fill; anything else changes nothing. -/
def State.loadInstr (s : State) (whole : Bool) (i : Instr) : State :=
  match i with
  | .ldu x rd ra size imm => s.load i x whole rd size false (fun y => immAddress (y.reg ra) imm size) id
  | .lds x rd ra size imm => s.load i x whole rd size true (fun y => immAddress (y.reg ra) imm size) id
  | .lsxLoad x rd ra rb size signed => s.load i x whole rd size signed (fun y => indexAddress (y.reg ra) (y.reg rb) size) id
  | .lsxLoadPostinc x rd ra _ size signed => s.load i x whole rd size signed (fun y => y.reg ra) fun y => y.bump ra size
  | _ => s

/-- LDU (R75). -/
def execLdu (x : Issue) (rd ra : Reg) (size : Size) (imm : BitVec 10) (s : State) : Host.Outcome State Fault Refusal :=
  .next (s.loadInstr false (.ldu x rd ra size imm))

/-- LDS (R75); size 8 is illegal. -/
def execLds (x : Issue) (rd ra : Reg) (size : Size) (imm : BitVec 10) (s : State) : Host.Outcome State Fault Refusal :=
  .next (s.loadInstr false (.lds x rd ra size imm))

/-- The frame of a store instruction: it waits while the store buffer is full and cannot drain (R95). -/
def State.store (s : State) (i : Instr) (x : Issue) (value address : Berth → Word) (size : Size) (f : Berth → Berth) : State :=
  s.instruction i x (s.legal i) 0 fun s c b =>
    let y := s.berth c b
    if s.storeWaits c then none else some (s.storeFrom c b (value y) (address y) size f)

/-- ST (R75). -/
def execSt (x : Issue) (rd ra : Reg) (size : Size) (imm : BitVec 10) (s : State) : Host.Outcome State Fault Refusal :=
  .next (s.store (.st x rd ra size imm) x (fun y => y.reg rd) (fun y => immAddress (y.reg ra) imm size) size id)

/-- LSX kind 0b00 (R76). -/
def execLsxLoad (x : Issue) (rd ra rb : Reg) (size : Size) (signed : Bool) (s : State) :
    Host.Outcome State Fault Refusal :=
  .next (s.loadInstr false (.lsxLoad x rd ra rb size signed))

/-- LSX kind 0b01 (R76); signed is illegal. -/
def execLsxStore (x : Issue) (rd ra rb : Reg) (size : Size) (signed : Bool) (s : State) :
    Host.Outcome State Fault Refusal :=
  .next (s.store (.lsxStore x rd ra rb size signed) x (fun y => y.reg rd)
    (fun y => indexAddress (y.reg ra) (y.reg rb) size) size id)

/-- LSX kind 0b10 (R76); rb must be g0 and rd must differ from ra. -/
def execLsxLoadPostinc (x : Issue) (rd ra rb : Reg) (size : Size) (signed : Bool) (s : State) :
    Host.Outcome State Fault Refusal :=
  .next (s.loadInstr false (.lsxLoadPostinc x rd ra rb size signed))

/-- LSX kind 0b11 (R76); rb must be g0, and signed is illegal. -/
def execLsxStorePostinc (x : Issue) (rd ra rb : Reg) (size : Size) (signed : Bool) (s : State) :
    Host.Outcome State Fault Refusal :=
  .next (s.store (.lsxStorePostinc x rd ra rb size signed) x (fun y => y.reg rd) (fun y => y.reg ra) size
    fun y => y.bump ra size)

-- Atomics (R77) ---------------------------------------------------------------------------------------------------------

/-- The value an atomic writes, from the old value, rb and rd; none where nothing is written. -/
abbrev AmoOp := {w : Nat} → BitVec w → BitVec w → BitVec w → Option (BitVec w)

/-- What an atomic does once its address is checked (R77): the core's own stores are performed first, rd takes the old value, no
L1D keeps a copy of a line that is written, and in a supply episode the write waits for its memory port (R316). -/
def State.atomicAt (s : State) (c : CoreId) (b : BerthId) (rd rb : Reg) (a : Word) (wide : Bool) (op : AmoOp) : State :=
  let y := s.berth c b
  let size : Size := if wide then .b8 else .b4
  let s := s.drainAll c
  let line := a.toNat / 64
  let off := 8 * (a.toNat % 64)
  let s := if s.scratchLine line then s else s.l2Fill line
  let (d, p) := s.sliceRead line
  if bitAt p (a.toNat / 8 % 8) then s.raise c b 7 (infoAddr a)
  else
    let old : Word := BitVec.ofNat 64 (d.toNat >>> off)
    let new : Option Word :=
      if wide then op old (y.reg rb) (y.reg rd)
      else (op (low32 old) (low32 (y.reg rb)) (low32 (y.reg rd))).map fun v => v.setWidth 64
    let k := s.core c
    let s := s.setCore c { k with l1d := k.l1d.drop line, streams := touchStreams k.streams line }
    let s := match new with
      | some v =>
        let mask : BitVec 64 := BitVec.ofNat 64 ((2 ^ sizeBytes size - 1) <<< (a.toNat % 64))
        let through := s.ck.supEpisode && !s.scratchLine line
        let s := s.sliceWrite line (BitVec.ofNat 512 (v.toNat <<< off)) mask none
        let d : SentStore := { kind := .core, berth := b, addr := a.setWidth 48, err := false, port := true }
        if through then s.setCore c { s.core c with sent := (s.core c).sent ++ [d] } else s
      | none => s
    s.mapBerth c b fun y => (y.setReg rd (if wide then old else wResult (low32 old))).next

/-- An atomic at the slice that owns the address; it waits while its line, or that of a buffered store, waits there. -/
def State.atomic (s : State) (i : Instr) (x : Issue) (rd ra rb : Reg) (wide : Bool) (op : AmoOp) : State :=
  let size : Size := if wide then .b8 else .b4
  s.instruction i x true 0 fun s c b =>
    let a := (s.berth c b).reg ra
    let reach := !s.inWindow a.toNat && s.mapped a.toNat
    if alignedTo a size && canonical a && reach && (s.lineWaits (a.toNat / 64) || s.sbHeld c) then none
    else some (s.checkAddress c b a size
      (if reach then s.atomicAt c b rd rb a wide op else s.raise c b 4 (infoAddr a)))

/-- SWAP (R77). -/
def execSwap (x : Issue) (rd ra rb : Reg) (wide : Bool) (s : State) : Host.Outcome State Fault Refusal :=
  .next (s.atomic (.swap x rd ra rb wide) x rd ra rb wide fun _ b _ => some b)

/-- AMO_ADD (R77). -/
def execAmoAdd (x : Issue) (rd ra rb : Reg) (wide : Bool) (s : State) : Host.Outcome State Fault Refusal :=
  .next (s.atomic (.amoAdd x rd ra rb wide) x rd ra rb wide fun m b _ => some (m + b))

/-- AMO_AND (R77). -/
def execAmoAnd (x : Issue) (rd ra rb : Reg) (wide : Bool) (s : State) : Host.Outcome State Fault Refusal :=
  .next (s.atomic (.amoAnd x rd ra rb wide) x rd ra rb wide fun m b _ => some (m &&& b))

/-- AMO_OR (R77). -/
def execAmoOr (x : Issue) (rd ra rb : Reg) (wide : Bool) (s : State) : Host.Outcome State Fault Refusal :=
  .next (s.atomic (.amoOr x rd ra rb wide) x rd ra rb wide fun m b _ => some (m ||| b))

/-- AMO_XOR (R77). -/
def execAmoXor (x : Issue) (rd ra rb : Reg) (wide : Bool) (s : State) : Host.Outcome State Fault Refusal :=
  .next (s.atomic (.amoXor x rd ra rb wide) x rd ra rb wide fun m b _ => some (m ^^^ b))

/-- AMO_MIN (R77). -/
def execAmoMin (x : Issue) (rd ra rb : Reg) (wide : Bool) (s : State) : Host.Outcome State Fault Refusal :=
  .next (s.atomic (.amoMin x rd ra rb wide) x rd ra rb wide fun m b _ => some (if b.slt m then b else m))

/-- AMO_MAX (R77). -/
def execAmoMax (x : Issue) (rd ra rb : Reg) (wide : Bool) (s : State) : Host.Outcome State Fault Refusal :=
  .next (s.atomic (.amoMax x rd ra rb wide) x rd ra rb wide fun m b _ => some (if m.slt b then b else m))

/-- CAS (R77). -/
def execCas (x : Issue) (rd ra rb : Reg) (wide : Bool) (s : State) : Host.Outcome State Fault Refusal :=
  .next (s.atomic (.cas x rd ra rb wide) x rd ra rb wide fun m b d => if m = d then some b else none)

-- Prefetch (R221) --------------------------------------------------------------------------------------------------------

/-- Count a prefetch line that is not fetched (Table 11 of "Caches and scratch"). -/
def State.skipPrefetch (s : State) (slice : Nat) : State :=
  let n : SliceId := Fin.ofNat 16 slice
  { s with l2 := { s.l2 with skips := s.l2.skips.set n (satInc s.l2.skips[n]) } }

/-- Fetch a line of MEMORY_MAP into the L2 unless it hits or its slice has no miss entry free. -/
def State.prefetchL2 (s : State) (a : Nat) : State :=
  let line := a / 64
  let hits := match s.l2.find line with | some x => x.mask == BitVec.allOnes 64 | none => false
  if a ≥ 2 ^ 48 || !s.inRange a || hits then s
  else if s.missWaits line then s.skipPrefetch (sliceOf line)
  else s.l2Fill line

/-- The address of a PREF. -/
def Berth.prefAddress (y : Berth) (ra : Reg) (imm : BitVec 12) : Nat := (y.reg ra + imm.signExtend 64).toNat

/-- PREF hint 0: the line is fetched into L1D; with DEN 0 it acts as hint 1 (R214). -/
def execPrefL1d (x : Issue) (ra : Reg) (imm : BitVec 12) (s : State) : Host.Outcome State Fault Refusal :=
  .next (s.instruction (.prefL1d x ra imm) x true 0 fun s c b =>
    let a := (s.berth c b).prefAddress ra imm
    let line := a / 64
    let k := s.core c
    let t := s.prefetchL2 a
    let full := match t.l2.find line with | some x => x.mask == BitVec.allOnes 64 | none => false
    let got := a < 2 ^ 48 && s.inRange a && full
    let want := bitAt s.l2.den c.val && (k.l1d.find line).isNone && !k.fills.contains line
    let t := if got && want then t.setCore c { t.core c with fills := k.fills ++ [line] } else t
    some (t.mapBerth c b Berth.next))

/-- PREF hint 1: the line is fetched into the L2. -/
def execPrefL2 (x : Issue) (ra : Reg) (imm : BitVec 12) (s : State) : Host.Outcome State Fault Refusal :=
  .next (s.instruction (.prefL2 x ra imm) x true 0 fun s c b =>
    some ((s.prefetchL2 ((s.berth c b).prefAddress ra imm)).mapBerth c b Berth.next))

/-- PREF hint 2: a stream starts at the line; with all 4 in use it replaces the one that started longest ago. -/
def execPrefStreamStart (x : Issue) (ra : Reg) (imm : BitVec 12) (s : State) : Host.Outcome State Fault Refusal :=
  .next (s.instruction (.prefStreamStart x ra imm) x true 0 fun s c b =>
    let a := (s.berth c b).prefAddress ra imm
    let k := s.core c
    let kept := if 4 ≤ k.streams.length then k.streams.drop 1 else k.streams
    let t :=
      if a < 2 ^ 48 && s.inRange a then s.setCore c { k with streams := kept ++ [{ next := a / 64, high := a / 64 }] }
      else s
    some (t.mapBerth c b Berth.next))

/-- PREF hint 3: every stream of the core whose next line lies within 512 bytes above the address ends. -/
def execPrefStreamEnd (x : Issue) (ra : Reg) (imm : BitVec 12) (s : State) : Host.Outcome State Fault Refusal :=
  .next (s.instruction (.prefStreamEnd x ra imm) x true 0 fun s c b =>
    let a := (s.berth c b).prefAddress ra imm
    let k := s.core c
    let t := s.setCore c { k with streams := k.streams.filter fun q => !(a ≤ 64 * q.next && 64 * q.next ≤ a + 512) }
    some (t.mapBerth c b Berth.next))

/-- The first stream that may fetch a line, with its position. -/
def nextStream (l : List PfStream) : Option (Nat × PfStream) :=
  (l.zipIdx.find? fun p => p.1.next ≤ p.1.high + 8).map fun p => (p.2, p.1)

/-- STREAM_FETCH (R221): a stream of the core fetches its next line; a line outside MEMORY_MAP ends it. -/
def execStreamFetch (core : CoreId) (s : State) : Host.Outcome State Fault Refusal :=
  let k := s.core core
  if !s.coreRuns core then .next s
  else match nextStream k.streams with
    | some (i, q) =>
      if !s.inRange (64 * q.next) then .next (s.setCore core { k with streams := dropAt k.streams i })
      else
        let t := s.prefetchL2 (64 * q.next)
        .next (t.setCore core { t.core core with streams := setAt k.streams i { q with next := q.next + 1 } })
    | none => .next s

-- Cache maintenance (R209-R211) ---------------------------------------------------------------------------------------------

/-- Invalidate the L1I line, and any line-buffer entry of it. -/
def Core.invalL1i (k : Core) (line : Nat) : Core :=
  { k with l1i := k.l1i.drop line, lineBuf := k.lineBuf.filter (·.line != line) }

/-- Invalidate the L1D line. -/
def Core.invalL1d (k : Core) (line : Nat) : Core := { k with l1d := k.l1d.drop line, fills := k.fills.filter (· != line) }

/-- Clean an L2 line of memory (R211: scratch is not touched). -/
def State.maintClean (s : State) (_c : CoreId) (line : Nat) : State := if s.scratchLine line then s else s.cleanLine line

/-- Invalidate an L2 line without write-back. -/
def State.maintInval (s : State) (_c : CoreId) (line : Nat) : State := s.discardLine line

/-- Invalidate an L2 line without write-back, with its entry of the poison list (R217). -/
def State.maintForget (s : State) (_c : CoreId) (line : Nat) : State := s.forgetLine line

/-- Clean an L2 line, then invalidate it. -/
def State.maintBoth (s : State) (_c : CoreId) (line : Nat) : State := if s.scratchLine line then s else s.evictLine line

/-- A by-address form: an address with bits [63:48] set raises bus error (log entry 23); an L2 form waits while the slice holds the
line (R208). -/
def State.maintAddress (s : State) (i : Instr) (x : Issue) (ra : Reg) (least : Nat) (l2 : Bool)
    (f : State → CoreId → Nat → State) : State :=
  s.instruction i x true least fun s c b =>
    let a := (s.berth c b).reg ra
    if !canonical a then some (s.raise c b 4 (infoAddr a))
    else if l2 && s.lineHeld (a.toNat / 64) then none
    else some ((f s c (a.toNat / 64)).mapBerth c b Berth.next)

/-- IC.INV.A. -/
def execIcInvA (x : Issue) (ra : Reg) (s : State) : Host.Outcome State Fault Refusal :=
  .next (s.maintAddress (.icInvA x ra) x ra 0 false fun s c line => s.setCore c ((s.core c).invalL1i line))

/-- DC.INV.A. -/
def execDcInvA (x : Issue) (ra : Reg) (s : State) : Host.Outcome State Fault Refusal :=
  .next (s.maintAddress (.dcInvA x ra) x ra 0 false fun s c line => s.setCore c ((s.core c).invalL1d line))

/-- L2.CLN.A. -/
def execL2ClnA (x : Issue) (ra : Reg) (s : State) : Host.Outcome State Fault Refusal :=
  .next (s.maintAddress (.l2ClnA x ra) x ra 0 true State.maintClean)

/-- L2.INV.A; it needs S. -/
def execL2InvA (x : Issue) (ra : Reg) (s : State) : Host.Outcome State Fault Refusal :=
  .next (s.maintAddress (.l2InvA x ra) x ra 1 true State.maintForget)

/-- L2.CI.A. -/
def execL2CiA (x : Issue) (ra : Reg) (s : State) : Host.Outcome State Fault Refusal :=
  .next (s.maintAddress (.l2CiA x ra) x ra 0 true State.maintBoth)

/-- The set-and-way operand (Table 2 of "Caches and scratch"): slice, set and way within a geometry. -/
def setWay (v : Word) (slices sets ways : Nat) : Option (Nat × Nat × Nat) :=
  let slice := bitsNat v 19 16
  let set := bitsNat v 14 4
  let way := bitsNat v 3 0
  if v.toNat < 2 ^ 20 ∧ bitAt v 15 = false ∧ slice < slices ∧ set < sets ∧ way < ways then some (slice, set, way) else none

/-- The line of an L1 cache at a set and way. -/
def L1.at (k : L1) (sets set way : Nat) : Option L1Line := k.lines.find? fun l => l.line % sets == set && l.way == way

/-- The L2 line at a slice, set and way. -/
def L2.at (l : L2) (slice set way : Nat) : Option L2Line :=
  l.lines.find? fun x => sliceOf x.line == slice && l2SetOf x.line == set && x.way == way

/-- A set-and-way form: a bad operand raises illegal opcode before the privilege check (R80, R209); then S is needed. An L2 form
waits while the slice holds the line. -/
def State.maintSetWay (s : State) (i : Instr) (x : Issue) (ra : Reg) (slices sets ways : Nat)
    (f : State → CoreId → Nat → Nat → Nat → State) : State :=
  s.instruction i x true 0 fun s c b =>
    let y := s.berth c b
    match setWay (y.reg ra) slices sets ways with
    | none => some (s.raise c b 1 0)
    | some (slice, set, way) =>
      if y.priv.toNat < 1 then some (s.raise c b 2 0)
      else if 1 < slices && (match s.l2.at slice set way with | some l => s.lineHeld l.line | none => false) then none
      else some ((f s c slice set way).mapBerth c b Berth.next)

/-- An operation on the L2 line at a slice, set and way, if there is one; a scratch way has none. -/
def State.atWay (f : State → CoreId → Nat → State) (s : State) (c : CoreId) (slice set way : Nat) : State :=
  match s.l2.at slice set way with | some x => f s c x.line | none => s

/-- IC.INV.SW. -/
def execIcInvSw (x : Issue) (ra : Reg) (s : State) : Host.Outcome State Fault Refusal :=
  .next (s.maintSetWay (.icInvSw x ra) x ra 1 256 4 fun s c _ set way =>
    match (s.core c).l1i.at 256 set way with | some l => s.setCore c ((s.core c).invalL1i l.line) | none => s)

/-- DC.INV.SW. -/
def execDcInvSw (x : Issue) (ra : Reg) (s : State) : Host.Outcome State Fault Refusal :=
  .next (s.maintSetWay (.dcInvSw x ra) x ra 1 128 8 fun s c _ set way =>
    match (s.core c).l1d.at 128 set way with | some l => s.setCore c ((s.core c).invalL1d l.line) | none => s)

/-- L2.CLN.SW. -/
def execL2ClnSw (x : Issue) (ra : Reg) (s : State) : Host.Outcome State Fault Refusal :=
  .next (s.maintSetWay (.l2ClnSw x ra) x ra 16 2048 16 (State.atWay State.maintClean))

/-- L2.INV.SW. -/
def execL2InvSw (x : Issue) (ra : Reg) (s : State) : Host.Outcome State Fault Refusal :=
  .next (s.maintSetWay (.l2InvSw x ra) x ra 16 2048 16 (State.atWay State.maintInval))

/-- L2.CI.SW. -/
def execL2CiSw (x : Issue) (ra : Reg) (s : State) : Host.Outcome State Fault Refusal :=
  .next (s.maintSetWay (.l2CiSw x ra) x ra 16 2048 16 (State.atWay State.maintBoth))

-- Fences (R78) ----------------------------------------------------------------------------------------------------------------

/-- Whether a store of the core cannot be acknowledged yet: its slice holds its line (R208), or once the store buffer has drained a
memory port has still to acknowledge it (R316), which only STORE_ACK does. -/
def State.awaitsPort (s : State) (c : CoreId) : Bool :=
  s.sbHeld c || ((s.drainAll c).core c).sent.any fun d => d.port && d.kind == .core

/-- A fence retires once every earlier store of the core has been acknowledged or has raised its late bus error; `f` is
what the fence does then. It waits for the acknowledgements of the memory ports. -/
def State.fenceStores (s : State) (i : Instr) (x : Issue) (f : State → CoreId → State) : State :=
  s.instruction i x true 0 fun s c b =>
    if s.awaitsPort c then none else some ((f (s.completeStores c) c).mapBerth c b Berth.next)

/-- FENCE. -/
def execFence (x : Issue) (s : State) : Host.Outcome State Fault Refusal := .next (s.fenceStores (.fence x) x fun s _ => s)

/-- FENCE.ST. -/
def execFenceSt (x : Issue) (s : State) : Host.Outcome State Fault Refusal := .next (s.fenceStores (.fenceSt x) x fun s _ => s)

/-- Invalidate the L1I lines that no longer hold what memory holds, and the line buffer (R78, R203). -/
def State.dropStaleL1i (s : State) (c : CoreId) : State :=
  let k := s.core c
  let fresh := k.l1i.lines.filter fun l => (s.engineRead l.line).1 == l.data
  s.setCore c { k with l1i := { k.l1i with lines := fresh }, lineBuf := [] }

/-- FENCE.I. -/
def execFenceI (x : Issue) (s : State) : Host.Outcome State Fault Refusal :=
  .next (s.fenceStores (.fenceI x) x State.dropStaleL1i)

/-- Whether a tile entry is a tile store or a drain. -/
def TileOp.stores : TileOp → Bool
  | .tst .. | .tsta .. | .tdrn .. => true
  | _ => false

/-- FENCE.T: it waits while a tile store or a drain of the berth is in the queue, which it leaves with its last acknowledgement. -/
def execFenceT (x : Issue) (s : State) : Host.Outcome State Fault Refusal :=
  .next (s.instruction (.fenceT x) x true 0 fun s c b =>
    if (s.core c).tile.queue.any fun e => e.berth == b && e.op.stores then none
    else some (s.mapBerth c b Berth.next))

-- The steps of stores and fills -------------------------------------------------------------------------------------------------

/-- STORE_BUFFER_DRAIN (R202): the oldest store of the core leaves the store buffer. -/
def execStoreBufferDrain (core : CoreId) (s : State) : Host.Outcome State Fault Refusal :=
  if s.tileRuns core then .next (s.drainOne core) else .next s

/-- LATE_BUS_ERROR (R126): the RUNNING berth takes its pending late bus error, or else the pocket fault or epilogue
exception that waits for it. -/
def execLateBusError (core : CoreId) (s : State) : Host.Outcome State Fault Refusal :=
  if s.coreRuns core then
    match (s.core core).running with
    | some b =>
      let x := s.berth core b
      let due := match x.lbe with | some l => !l.taken | none => false
      .next (if x.halted || x.customer.isSome then s
        else if due then s.takeLateBusError core b else s.settle core)
    | none => .next s
  else .next s

/-- A line enters the line buffer in place of the older of its two entries (R92, R203). -/
def Core.buffer (k : Core) (line : Nat) (data : Line) : Core :=
  let kept := k.lineBuf.filter (·.line != line)
  { k with lineBuf := (if 2 ≤ kept.length then kept.drop 1 else kept) ++ [{ line := line, data := data }] }

/-- Fill a line into the L1I and the line buffer from the L2 (R203), or only into the line buffer while lookups are off (R214); a
line with a poisoned granule enters neither. -/
def State.fillL1i (s : State) (c : CoreId) (line : Nat) : State :=
  let s := if s.scratchLine line then s else s.l2Fill line
  let (d, p) := s.sliceRead line
  let k := s.core c
  let l1i := if bitAt s.l2.ien c.val then k.l1i.fill 256 4 line d else k.l1i
  if p = 0 then s.setCore c ({ k with l1i := l1i }.buffer line d) else s

/-- Fill a line into the L1D; a line with a poisoned granule is not kept there (log entry 14). -/
def State.fillL1d (s : State) (c : CoreId) (line : Nat) : State :=
  let s := if s.scratchLine line then s else s.l2Fill line
  let (d, p) := s.sliceRead line
  let s := match s.l2.find line with
    | some x => { s with l2 := s.l2.put { x with sharers := setBit x.sharers c.val true } }
    | none => s
  let k := s.core c
  if p = 0 then s.setCore c { k with l1d := k.l1d.fill 128 8 line d } else s

/-- The line that a load instruction of a berth reads. -/
def loadLineOf (i : Instr) (y : Berth) : Option Nat :=
  match i with
  | .ldu _ _ ra size imm | .lds _ _ ra size imm => some ((immAddress (y.reg ra) imm size).toNat / 64)
  | .lsxLoad _ _ ra rb size _ => some ((indexAddress (y.reg ra) (y.reg rb) size).toNat / 64)
  | .lsxLoadPostinc _ _ ra _ _ _ => some ((y.reg ra).toNat / 64)
  | _ => none

/-- The load that waits for a line restarts on the returned data (R102, R202). -/
def State.restartLoad (s : State) (c : CoreId) (line : Nat) : State :=
  match s.runner c, (s.core c).stalled with
  | some b, some i => if loadLineOf i (s.berth c b) = some line then s.attempt c fun i s => s.loadInstr true i else s
  | _, _ => s

/-- L2_FILL (R102): the oldest data fill of the core returns and restarts the load that waits for it, or the line of a fetch
address returns. A line waits at its slice while that has no miss entry for it or holds it (R207, R208). -/
def execL2Fill (core : CoreId) (fetch : Option (BitVec 48)) (s : State) : Host.Outcome State Fault Refusal :=
  if !s.tileRuns core then .next s
  else match fetch with
    | some a =>
      .next (if s.mapped a.toNat && !s.inWindow a.toNat && !s.lineWaits (a.toNat / 64) then s.fillL1i core (a.toNat / 64) else s)
    | none =>
      match (s.core core).fills with
      | line :: rest =>
        if s.lineWaits line then .next s
        else .next (((s.setCore core { s.core core with fills := rest }).fillL1d core line).restartLoad core line)
      | [] => .next s

/-- TIDE_CLEAN_WRITEBACK (R218): a slice above its limit less 256 lines writes back the head of its dirty order. -/
def execTideCleanWriteback (slice : SliceId) (s : State) : Host.Outcome State Fault Refusal :=
  if s.meshRuns && s.dirtyLimit < (s.l2.dirtyOf slice.val).length + 256 then .next (s.cleanHead slice.val) else .next s

/-- DIRTY_VICTIM (R206): the line at an address is allocated; a dirty victim goes to memory first. -/
def execDirtyVictim (addr : BitVec 48) (s : State) : Host.Outcome State Fault Refusal :=
  let line := addr.toNat / 64
  if s.meshRuns && s.enabled .l2 && s.inRange addr.toNat && !s.scratchLine line then .next (s.l2Fill line) else .next s

end Sys2Proof.Machine
end

