-- ==== Sys2Proof/Machine/Tile.lean ====
section
/-! DEFINITION. The tile unit (R132-R151) but for its output path: issue of the tile instructions, the overlap of queue
entries, the loads, stores and products, ownership and pockets (R119-R121), prefetch (R149) and the self-test (R150). -/

namespace Sys2Proof.Machine

-- MODE bits (Table 9 of "Gregon instruction set") --------------------------------------------------------------------

def modeAccw (m : BitVec 5) : Bool := bitAt m 0
def modeOsat (m : BitVec 5) : Nat := m.toNat / 2 % 4
def modeFzin (m : BitVec 5) : Bool := bitAt m 3
def modeFzout (m : BitVec 5) : Bool := bitAt m 4

/-- The accumulator format of a width bit. -/
def accFmt (a16 : Bool) : FloatFmt := if a16 then fmtB16 else fmtA40

-- The tile unit of a core ---------------------------------------------------------------------------------------------

/-- A core's tile unit. -/
def State.tile (s : State) (c : CoreId) : TileUnit := (s.core c).tile

/-- Replace a core's tile unit. -/
def State.setTile (s : State) (c : CoreId) (t : TileUnit) : State := s.setCore c { s.core c with tile := t }

/-- Replace what the unit holds for its owner. -/
def State.setTst (s : State) (c : CoreId) (x : TileState) : State := s.setTile c { s.tile c with st := x }

/-- A tile's rows. -/
def TileState.tileRows (x : TileState) (t : Nat) : List Line := x.tiles.getD t []
/-- A row of a tile. -/
def TileState.row (x : TileState) (t r : Nat) : Line := (x.tileRows t).getD r 0
/-- Replace a tile. -/
def TileState.setTile (x : TileState) (t : Nat) (rows : List Line) : TileState := { x with tiles := setAt x.tiles t rows }
/-- An accumulator. -/
def TileState.acc (x : TileState) (n : Nat) : Accum := x.accs.getD n (Accum.zero false)
/-- Replace an accumulator. -/
def TileState.setAcc (x : TileState) (n : Nat) (a : Accum) : TileState := { x with accs := setAt x.accs n a }
/-- A lining. -/
def TileState.lin (x : TileState) (n : Nat) : Accum := x.lins.getD n (Accum.zero false)
/-- Replace a lining. -/
def TileState.setLin (x : TileState) (n : Nat) (a : Accum) : TileState := { x with lins := setAt x.lins n a }

-- Issue (R119, R134-R141) ---------------------------------------------------------------------------------------------------

/-- A tile instruction enters the queue, after the tile-unavailable check of R119 and R337 and the `checks` of the form;
it waits while the queue is full (R95). -/
def State.tileIssue (s : State) (i : Instr) (x : Issue) (op : State → Berth → TileOp)
    (checks : Berth → Option (Nat × Nat)) : State :=
  s.instruction i x (s.legal i) 0 fun s c b =>
    let y := s.berth c b
    let k := s.core c
    if !y.townEn || k.tileBad then some (s.raise c b 8 0)
    else match checks y with
      | some (v, info) => some (s.raise c b v info)
      | none =>
        if 32 ≤ k.tile.queue.length then none
        else
          let e : TileEntry := { berth := b, op := op s y, started := false, done := false, flags := 0, errs := [] }
          some ((s.setTile c { k.tile with queue := k.tile.queue ++ [e] }).mapBerth c b Berth.next)

/-- The address of row `r`, modulo 2^64 (R137). -/
def rowAddress (base stride : Word) (r : Nat) : Word := base + BitVec.ofNat 64 r * stride

/-- The address checks of TLD and TST (R137): alignment, then the first row above 2^48. -/
def rowChecks (base stride : Word) (rows : Nat) : Option (Nat × Nat) :=
  if base.toNat % 64 ≠ 0 ∨ stride.toNat % 64 ≠ 0 then some (3, infoAddr base)
  else ((List.range rows).find? fun r => !canonical (rowAddress base stride r)).map fun r =>
    (4, infoAddr (rowAddress base stride r))

/-- The address checks of TLDA and TSTA (R141). -/
def recordChecks (base : Word) : Option (Nat × Nat) :=
  if base.toNat % 64 ≠ 0 then some (3, infoAddr base)
  else if 2 ^ 48 ≤ base.toNat + 5183 then some (4, infoAddr base)
  else none

/-- TLD (R137). -/
def execTld (x : Issue) (td : TileReg) (ra rb : Reg) (rows : BitVec 6) (hint : BitVec 2) (s : State) :
    Host.Outcome State Fault Refusal :=
  .next (s.tileIssue (.tld x td ra rb rows hint) x (fun _ y => .tld td (y.reg ra) (y.reg rb) rows.toNat hint)
    fun y => rowChecks (y.reg ra) (y.reg rb) rows.toNat)

/-- TST (R138). -/
def execTst (x : Issue) (ts : TileReg) (ra rb : Reg) (rows : BitVec 6) (s : State) : Host.Outcome State Fault Refusal :=
  .next (s.tileIssue (.tst x ts ra rb rows) x (fun _ y => .tst ts (y.reg ra) (y.reg rb) rows.toNat)
    fun y => rowChecks (y.reg ra) (y.reg rb) rows.toNat)

/-- TMMA (R139). -/
def execTmma (x : Issue) (ad : AccReg) (ta tb : TileReg) (fmt : BitVec 3) (z : Bool) (s : State) :
    Host.Outcome State Fault Refusal :=
  .next (s.tileIssue (.tmma x ad ta tb fmt z) x (fun s y => .tmma ad ta tb fmt z y.mode s.si.codes) fun _ => none)

/-- TSWAP (R140). -/
def execTswap (x : Issue) (n : AccReg) (s : State) : Host.Outcome State Fault Refusal :=
  .next (s.tileIssue (.tswap x n) x (fun _ y => .tswap n (modeAccw y.mode)) fun _ => none)

/-- TDRN (R140, R177). -/
def execTdrn (x : Issue) (l : AccReg) (td : TileReg) (s : State) : Host.Outcome State Fault Refusal :=
  .next (s.tileIssue (.tdrn x l td) x (fun s y => .tdrn l td y.epi y.epiSerial y.tkbase y.mode s.si.codes) fun _ => none)

/-- TCLRA (R140). -/
def execTclra (x : Issue) (n : AccReg) (s : State) : Host.Outcome State Fault Refusal :=
  .next (s.tileIssue (.tclra x n) x (fun _ y => .tclra n (modeAccw y.mode)) fun _ => none)

/-- TCLRT (R140). -/
def execTclrt (x : Issue) (t : TileReg) (s : State) : Host.Outcome State Fault Refusal :=
  .next (s.tileIssue (.tclrt x t) x (fun _ _ => .tclrt t) fun _ => none)

/-- TLDA (R141); g0 as ra is illegal. -/
def execTlda (x : Issue) (n : AccReg) (ra : Reg) (s : State) : Host.Outcome State Fault Refusal :=
  .next (s.tileIssue (.tlda x n ra) x (fun _ y => .tlda n (y.reg ra) (modeAccw y.mode)) fun y => recordChecks (y.reg ra))

/-- TSTA (R141); g0 as ra is illegal. -/
def execTsta (x : Issue) (n : AccReg) (ra : Reg) (s : State) : Host.Outcome State Fault Refusal :=
  .next (s.tileIssue (.tsta x n ra) x (fun _ y => .tsta n (y.reg ra)) fun y => recordChecks (y.reg ra))

-- The tile port (R144, R145, R148) --------------------------------------------------------------------------------------------

/-- Whether the tile port reaches an address: windows count as outside (R49, R255). -/
def State.portReach (s : State) (a : Nat) : Bool := a < 2 ^ 48 && s.mapped a && !s.inWindow a

/-- A row read: the line with its failed bytes zero, and whether it failed. -/
def State.portRead (s : State) (c : CoreId) (a : Nat) : State × Line × Bool :=
  if s.portReach a then
    let line := a / 64
    let k := s.core c
    let s := s.setCore c { k with streams := touchStreams k.streams line }
    let s := if s.scratchLine line then s else s.l2Fill line
    let (d, p) := s.sliceRead line
    (s, mergeLine d 0 (granuleBytes p), p != 0)
  else (s, 0, true)

/-- A row write of a berth; whether it is acknowledged at once with an error. In a supply episode the acknowledgement of a line
that a memory port serves comes with STORE_ACK (R148, R316). -/
def State.portWrite (s : State) (c : CoreId) (b : BerthId) (kind : SentKind) (a : Nat) (d : Line) : State × Bool :=
  if s.portReach a then
    let k := s.core c
    let q : SentStore := { kind := kind, berth := b, addr := BitVec.ofNat 48 a, err := false, port := true }
    let sent := if s.ck.supEpisode && !s.scratchLine (a / 64) then k.sent ++ [q] else k.sent
    let s := s.setCore c { k with streams := touchStreams k.streams (a / 64), sent := sent }
    (s.sliceWrite (a / 64) d (BitVec.allOnes 64) none, false)
  else (s, true)

/-- Read lines at addresses in order: the lines and the addresses that failed. -/
def State.portReads (s : State) (c : CoreId) : List Nat → State × List Line × List (BitVec 48)
  | [] => (s, [], [])
  | a :: t =>
    let (s, d, bad) := s.portRead c a
    let (s, l, e) := s.portReads c t
    (s, d :: l, if bad then BitVec.ofNat 48 a :: e else e)

/-- Write lines of a berth at addresses in order: the addresses that failed. -/
def State.portWrites (s : State) (c : CoreId) (b : BerthId) (kind : SentKind) : List (Nat × Line) → State × List (BitVec 48)
  | [] => (s, [])
  | (a, d) :: t =>
    let (s, bad) := s.portWrite c b kind a d
    let (s, e) := s.portWrites c b kind t
    (s, if bad then BitVec.ofNat 48 a :: e else e)

/-- Whether a write of a kind that a berth has sent is not acknowledged. -/
def Core.unacked (k : Core) (kind : SentKind) (b : BerthId) : Bool := k.sent.any fun q => q.kind == kind && q.berth == b

/-- Whether any line of a pocket save is not acknowledged. -/
def Core.saving (k : Core) : Bool := k.sent.any (·.kind == .pocket)

/-- The addresses of consecutive lines. -/
def lineAddrs (base n : Nat) : List Nat := (List.range n).map fun i => base + 64 * i

/-- The lines of a byte string. -/
def Blob.toLines (b : Blob) : List Line := (List.range ((b.len + 63) / 64)).map fun i => BitVec.ofNat 512 (b.bits >>> (512 * i))

/-- The byte string of lines. -/
def linesBlob (l : List Line) : Blob :=
  { len := 64 * l.length, bits := l.foldr (fun d acc => d.toNat + acc * 2 ^ 512) 0 }

-- Records (Table 7 of "Tile unit") ----------------------------------------------------------------------------------------------

/-- The cells packed from a number, 5 bytes each. -/
def cellsFrom : Nat → Nat → List Cell40
  | 0, _ => []
  | n + 1, v => BitVec.ofNat 40 v :: cellsFrom n (v >>> 40)

/-- Cells as a number. -/
def cellsPack (l : List Cell40) : Nat := l.foldr (fun c acc => c.toNat + acc * 2 ^ 40) 0

/-- The 5,184-byte record of an accumulator (KIND 3) or lining (KIND 4). -/
def Accum.record (a : Accum) (kind : Nat) : Blob :=
  { len := 5184, bits := kind + 256 * b2n a.a16 + a.kcount.toNat * 2 ^ 32 + cellsPack a.cells * 2 ^ 512 }

/-- The accumulator of a record. -/
def Accum.ofRecord (r : Blob) : Accum :=
  let a16 := r.field 1 0 1 == 1
  let cells := cellsFrom 1024 (r.bits >>> 512)
  { a16 := a16, kcount := BitVec.ofNat 32 (r.field 4 0 32),
    cells := if a16 then cells.map fun c => c &&& 0xFFFF else cells }

-- The pocket (Table 10) ---------------------------------------------------------------------------------------------------------

/-- A blob of a number. -/
def blobOf (len v : Nat) : Blob := { len := len, bits := v % 2 ^ (8 * len) }

/-- Join a list of blobs. -/
def blobJoin (l : List Blob) : Blob := l.foldl Blob.append Blob.empty

/-- The pocket of a berth's tile state. -/
def TileState.pocket (x : TileState) (c : CoreId) (b : BerthId) (time : Word) : Blob :=
  let counts := x.topk.foldr (fun l acc => l.length + 256 * acc) 0
  let entry (e : TopEntry) : Nat := e.val.toNat + e.pos.toNat * 2 ^ 32
  blobJoin (
    [blobOf 8 (1 + c.val * 2 ^ 16 + b.val * 2 ^ 24), blobOf 8 time.toNat, blobOf 32 counts, blobOf 144 0] ++
    x.tiles.map linesBlob ++ x.accs.map (·.record 3) ++ x.lins.map (·.record 4) ++
    x.topk.map (fun l => blobOf 96 (l.foldr (fun e acc => entry e + acc * 2 ^ 48) 0)) ++
    x.stats.map fun r => blobOf 10 (r.m.toNat + r.s.toNat * 2 ^ 40))

/-- The tile state of a pocket; none where the layout is not that of R151. -/
def TileState.ofPocket (p : Blob) : Option TileState :=
  let count (r : Nat) : Nat := p.byte (16 + r)
  let accAt (n : Nat) : Blob := p.slice (16576 + 5184 * n) 5184
  let linAt (n : Nat) : Blob := p.slice (37312 + 5184 * n) 5184
  let four := List.range 4
  let rows := List.range 32
  if p.field 0 0 16 ≠ 1 ∨ rows.any (fun r => 16 < count r) ∨ four.any (fun n => (accAt n).byte 0 != 3) ∨
      four.any (fun n => (linAt n).byte 0 != 4) then none
  else
    some
      { tiles := (List.range 8).map fun i => (p.slice (192 + 2048 * i) 2048).toLines
        accs := four.map fun n => Accum.ofRecord (accAt n)
        lins := four.map fun n => Accum.ofRecord (linAt n)
        topk := rows.map fun r => (List.range (count r)).map fun e =>
          { val := BitVec.ofNat 32 (p.field (58048 + 96 * r + 6 * e) 0 32),
            pos := BitVec.ofNat 16 (p.field (58052 + 96 * r + 6 * e) 0 16) }
        stats := rows.map fun r =>
          { m := BitVec.ofNat 40 (p.field (61120 + 10 * r) 0 40), s := BitVec.ofNat 40 (p.field (61125 + 10 * r) 0 40) } }

-- Ownership (R119-R121) -----------------------------------------------------------------------------------------------------------

/-- Step 1 of R119: the owner's state goes to its pocket and the unit has no owner. SAVED is set once every line has been
acknowledged, at the last STORE_ACK where a memory port acknowledges them (R316). One fault is recorded for a save with failing
lines (log entry 32). -/
def State.saveOwner (s : State) (c : CoreId) : State :=
  match (s.tile c).owner with
  | none => s
  | some a =>
    let y := s.berth c a
    let base := y.pocket.toNat
    let blob := (s.tile c).st.pocket c a s.time
    let lines := blob.toLines
    let (s, bad) := s.portWrites c a .pocket ((lineAddrs base 960).zip lines)
    let s := s.setTile c { s.tile c with owner := none }
    let s := s.mapBerth c a fun y => { y with townHeld := false, townSaved := bad.isEmpty && !(s.core c).saving,
                                              pocketLost := !bad.isEmpty }
    match bad with
    | [] => s
    | a' :: _ => s.detect { plainFault 0x10 c.val with access := 2, master := coreMaster c a, addr := a' }

/-- Remove from the queue the entries that a test selects, keeping the count of a save that is due. -/
def TileUnit.dropEntries (t : TileUnit) (f : TileEntry → Bool) : TileUnit :=
  { t with
    queue := t.queue.filter fun e => !f e
    save := t.save.map fun n => n - ((t.queue.take n).filter f).length }

/-- A pocket fault of a berth: its queued tile instructions are discarded, and the exception is taken when the berth can
take it (R121). -/
def State.pocketFaultOf (s : State) (c : CoreId) (b : BerthId) : State :=
  let s := s.setTile c ((s.tile c).dropEntries fun e => e.berth == b)
  let s := s.mapBerth c b fun y => { y with pocketFault := some (y.pocket.setWidth 48), pocketLost := false }
  s.settle c

/-- Whether a slice holds a line that a list of addresses names (R208). -/
def State.anyHeld (s : State) (l : List Nat) : Bool := s.l2.holds.any fun h => l.any (· / 64 == h.line)

/-- Whether a slice holds a line of the owner's pocket, or of the pocket of a berth. -/
def State.pocketHeld (s : State) (c : CoreId) (b : Option BerthId) : Bool :=
  match b with
  | some b => s.anyHeld (lineAddrs (s.berth c b).pocket.toNat 960)
  | none => false

/-- Whether any entry of the queue has started and not completed, or a drain is in progress. -/
def TileUnit.busy (t : TileUnit) : Bool := t.queue.any (·.started) || t.drain.isSome

/-- Steps 1 to 3 of R119 for berth `b`; steps 2 and 3 wait for the acknowledgements of step 1. -/
def State.claimTile (s : State) (c : CoreId) (b : BerthId) : State :=
  let s := s.saveOwner c
  let s := s.setTile c { s.tile c with held := [] }
  let y := s.berth c b
  if (s.core c).saving then s
  else if y.townSaved then
    let (s, lines, bad) := s.portReads c (lineAddrs y.pocket.toNat 960)
    match bad, TileState.ofPocket (linesBlob lines) with
    | [], some x =>
      let s := s.setTile c { s.tile c with owner := some b, st := x }
      s.mapBerth c b fun y => { y with townHeld := true, townSaved := false, pocketLost := false }
    | _, _ => s.pocketFaultOf c b
  else if y.pocketLost then s.pocketFaultOf c b
  else
    let s := s.setTile c { s.tile c with owner := some b, st := TileState.cleared }
    s.mapBerth c b fun y => { y with townHeld := true, townSaved := false }

/-- TILE_CLAIM (R119): the head of the queue belongs to a berth that is not the owner. A save of R120 that waits for queued entries
does not keep them from claiming the unit. -/
def execTileClaim (core : CoreId) (s : State) : Host.Outcome State Fault Refusal :=
  let t := s.tile core
  match t.queue with
  | e :: _ =>
    .next (if s.tileRuns core && t.owner != some e.berth && !t.busy && t.save != some 0 && !(s.core core).saving &&
        !s.pocketHeld core t.owner && !s.pocketHeld core (some e.berth) then s.claimTile core e.berth else s)
  | [] => .next s

/-- A save of R120 that is due is performed once no earlier entry is left and nothing is in progress, and ends with its
acknowledgement. -/
def State.tileSaveDue (s : State) (c : CoreId) : State :=
  let t := s.tile c
  if t.save = some 0 && !t.busy && !(s.core c).saving && !s.pocketHeld c t.owner then
    let s := s.saveOwner c
    if (s.core c).saving then s else s.setTile c { s.tile c with save := none }
  else s

/-- STORE_ACK (R78, R121, R148): the core's oldest write outside the store buffer is acknowledged; the last line of a save of R120
ends it. -/
def execStoreAck (core : CoreId) (err : Bool) (s : State) : Host.Outcome State Fault Refusal :=
  if s.meshRuns then .next ((s.ackOne core err).tileSaveDue core) else .next s

-- Overlap (R142) --------------------------------------------------------------------------------------------------------------------

/-- The engine that runs an operation: 0 LS, 1 AR, 2 EP. -/
def TileOp.engine : TileOp → Nat
  | .tld .. | .tst .. | .tclrt .. | .tlda .. | .tsta .. => 0
  | .tmma .. | .tswap .. | .tclra .. => 1
  | .tdrn .. => 2

/-- The held descriptor of a TDRN. -/
def TileUnit.heldFor (t : TileUnit) (b : BerthId) (serial : Nat) : Option HeldDesc :=
  t.held.find? fun h => h.berth == b && h.serial == serial

/-- Descriptor fields that place a TDRN's tiles: BIAS_EN, ELEM on, DEST tile, binary32. -/
def descBias (d : Nat) : Bool := d / 2 % 2 == 1
def descElem (d : Nat) : Bool := d / 4 % 4 != 0
def descDest (d : Nat) : Nat := d / 2 ^ 28 % 16
def descFmt (d : Nat) : Nat := d / 2 ^ 24 % 16

/-- A number for each tile (0-7), accumulator (8-11) and lining (12-15). -/
def resTile (t : TileReg) : Nat := t.val
def resAcc (n : AccReg) : Nat := 8 + n.val
def resLin (n : AccReg) : Nat := 12 + n.val

/-- What an entry reads; a TDRN reads its bias row at its start (R182). -/
def TileUnit.readsOf (t : TileUnit) (e : TileEntry) : List Nat :=
  match e.op with
  | .tst ts .. => [resTile ts]
  | .tmma ad ta tb _ z .. => [resTile ta, resTile tb] ++ (if z then [] else [resAcc ad])
  | .tswap n _ => [resAcc n]
  | .tsta n _ => [resAcc n]
  | .tdrn l _ _ serial .. =>
    match t.heldFor e.berth serial with
    | some { data := some d, .. } =>
      let n := d.toNat
      [resLin l] ++ (if descBias n && !e.started then [n / 2 ^ 32 % 8] else []) ++ (if descElem n then [n / 2 ^ 43 % 8] else [])
    | some _ => [resLin l]
    | none => resLin l :: List.range 8
  | _ => []

/-- What an entry writes. A TDRN reserves td until it starts, and longer only for a tile destination. -/
def TileUnit.writesOf (t : TileUnit) (e : TileEntry) : List Nat :=
  match e.op with
  | .tld td .. => [resTile td]
  | .tclrt x => [resTile x]
  | .tmma ad .. => [resAcc ad]
  | .tswap n _ => [resAcc n, resLin n]
  | .tclra n _ => [resAcc n]
  | .tlda n .. => [resAcc n]
  | .tdrn _ td _ serial .. =>
    match t.heldFor e.berth serial with
    | some { data := some d, .. } =>
      let tile := descDest d.toNat == 1
      (if tile || !e.started then [resTile td] else []) ++ (if tile && descFmt d.toNat == 2 then [(td.val + 1) % 8] else [])
    | _ => if e.started then [] else [resTile td]
  | _ => []

/-- Whether an entry is the drain in progress: the youngest TDRN that has started. -/
def TileUnit.draining (t : TileUnit) (i : Nat) : Bool :=
  t.drain.isSome && (t.queue.drop (i + 1)).all fun e => !(e.op.engine == 2 && e.started)

/-- Whether two lists share a number. -/
def meets (a b : List Nat) : Bool := a.any b.contains

/-- What an older entry at position `j` has not yet produced, as a younger one meets it (R142, R143): a drain has produced its tile
with its last row; an accumulator that a started TMMA is still producing does not hold back a TMMA or TSWAP of it; a started TSWAP
has left +0 in its accumulator, and its lining is produced when it completes. -/
def TileUnit.leaves (t : TileUnit) (j : Nat) (o e : TileEntry) : List Nat :=
  if o.started then
    match o.op, e.op with
    | .tdrn .., _ => if t.draining j then t.writesOf o else []
    | .tmma .., .tmma .. => []
    | .tmma .., .tswap .. => []
    | .tswap n _, _ => [resLin n]
    | _, _ => t.writesOf o
  else t.writesOf o

/-- Whether an older entry at position `j` lets a younger one start. -/
def TileUnit.clears (t : TileUnit) (j : Nat) (o e : TileEntry) : Bool :=
  let sameEngine := o.op.engine == e.op.engine
  let reading := !o.started || (o.op.engine == 2 && t.draining j)
  (!sameEngine || o.started) && !meets (t.leaves j o e) (t.readsOf e ++ t.writesOf e) &&
    (!reading || !meets (t.readsOf o) (t.writesOf e))

/-- Whether the entry at a position starts: the conditions of R142, its berth owns the unit, and no known-answer test that is due
keeps the array (R150). -/
def TileUnit.canStart (t : TileUnit) (i : Nat) : Bool :=
  match t.queue[i]? with
  | some e =>
    !e.started && t.owner == some e.berth && t.save != some 0 &&
      !(t.katDue && e.op.engine == 1) &&
      ((t.queue.take i).zipIdx.all fun p => t.clears p.2 p.1 e) &&
      (match e.op with
        | .tdrn _ _ _ serial .. => t.drain.isNone && (t.heldFor e.berth serial).isSome
        | _ => true)
  | none => false

-- Effects -----------------------------------------------------------------------------------------------------------------------------

/-- Add to KCOUNT, saturating (Table 1). -/
def addK (k : BitVec 32) (n : Nat) : BitVec 32 := BitVec.ofNat 32 (Nat.min (k.toNat + n) (2 ^ 32 - 1))

/-- An accumulator at another width (R146, R164), and whether a cell saturated. -/
def Accum.toWidth (a : Accum) (a16 : Bool) : Accum × Bool :=
  if a.a16 = a16 then (a, false)
  else
    let w := accFmt a16
    let cells := a.cells.map fun c => w.narrow ((accFmt a.a16).decode c.toNat)
    ({ a with a16 := a16, cells := cells.map fun r => BitVec.ofNat 40 (w.encode r.1) }, cells.any (·.2))

/-- TMMA (R139, R146, R147): the new accumulator and the FSTAT flags. -/
def TileState.tmma (x : TileState) (ad : AccReg) (ta tb : TileReg) (fmt : Nat) (z : Bool) (mode : BitVec 5)
    (codes : List Blob) : Accum × BitVec 6 :=
  let a16 := modeAccw mode
  let w := accFmt a16
  let k := if fmtIsCode fmt then 64 else 32
  let (old, sat) := if z then (Accum.zero a16, false) else (x.acc ad.val).toWidth a16
  let dec (t : TileReg) : List (List (Num × Bool)) :=
    (x.tileRows t.val).map fun r => decodeRow fmt codes (modeFzin mode) r 0 k
  let la := dec ta
  let lb := dec tb
  let flushed := (la ++ lb).any fun r => r.any (·.2)
  let va := la.map fun r => r.map (·.1)
  let vb := lb.map fun r => r.map (·.1)
  let pairs := va.flatMap fun a => vb.map fun b => (a, b)
  let out := List.zipWith (fun c p => dotCell w (k / 8) (w.decode c.toNat) p.1 p.2) old.cells pairs
  let kc := if z then BitVec.ofNat 32 k else addK old.kcount k
  let long := (if a16 then 512 else 1048576) < kc.toNat
  let ovf := sat || out.any (·.2)
  ({ a16 := a16, kcount := kc, cells := out.map fun r => BitVec.ofNat 40 (w.encode r.1) },
    (if flushed then flagFlushed else 0) ||| (if long then flagLongk else 0) ||| (if ovf then flagOvf ad else 0))

/-- The addresses that an entry reads or writes through the tile port. -/
def TileOp.addrs : TileOp → List Nat
  | .tld _ base stride rows _ | .tst _ base stride rows => (List.range rows).map fun r => (rowAddress base stride r).toNat
  | .tlda _ base _ | .tsta _ base => lineAddrs base.toNat 81
  | _ => []

/-- Whether an entry reads through the tile port. -/
def TileOp.reads : TileOp → Bool
  | .tld .. | .tlda .. => true
  | _ => false

/-- Whether the accesses of an entry wait at their slices (R207, R208). -/
def State.opWaits (s : State) (op : TileOp) : Bool :=
  s.anyHeld op.addrs || (op.reads && op.addrs.any fun a => s.portReach a && s.missWaits (a / 64))

/-- The effect of an entry of the LS or AR engine of a berth on the state: the flags and failed lines that it will report. -/
def State.tileEffect (s : State) (c : CoreId) (b : BerthId) (op : TileOp) : State × BitVec 6 × List (BitVec 48) :=
  let x := (s.tile c).st
  match op with
  | .tld td base stride rows hint =>
    let (s, l, bad) := s.portReads c ((List.range rows).map fun r => (rowAddress base stride r).toNat)
    let full := l ++ List.replicate (32 - rows) 0
    let t := s.tile c
    let from_ := if hint = 1 then base + 32 * stride else base + 64
    let pf := if hint = 0 ∨ rows = 0 then t.pf
      else t.pf ++ [{ base := from_, stride := stride, rows := rows, next := 0 }]
    (s.setTile c { t with st := t.st.setTile td.val full, pf := pf }, 0, bad)
  | .tst ts base stride rows =>
    let (s, bad) := s.portWrites c b .tile ((List.range rows).map fun r => ((rowAddress base stride r).toNat, x.row ts.val r))
    (s, 0, bad)
  | .tclrt t => (s.setTst c (x.setTile t.val (List.replicate 32 0)), 0, [])
  | .tlda n base a16 =>
    let (s, l, bad) := s.portReads c (lineAddrs base.toNat 81)
    let a := if bad.isEmpty then Accum.ofRecord (linesBlob l) else Accum.zero a16
    (s.setTst c (((s.tile c).st).setAcc n.val a), 0, bad)
  | .tsta n base =>
    let (s, bad) := s.portWrites c b .tile ((lineAddrs base.toNat 81).zip ((x.acc n.val).record 3).toLines)
    (s, 0, bad)
  | .tmma ad ta tb fmt z mode codes =>
    let (a, fl) := x.tmma ad ta tb fmt.toNat z mode codes
    (s.setTst c (x.setAcc ad.val a), fl, [])
  | .tswap n a16 => (s.setTst c ((x.setLin n.val (x.acc n.val)).setAcc n.val (Accum.zero a16)), 0, [])
  | .tclra n a16 => (s.setTst c (x.setAcc n.val (Accum.zero a16)), 0, [])
  | .tdrn .. => (s, 0, [])

/-- Replace the entry at a position. -/
def State.setEntry (s : State) (c : CoreId) (i : Nat) (e : TileEntry) : State :=
  s.setTile c { s.tile c with queue := setAt (s.tile c).queue i e }

/-- Whether an older TMMA is still producing the accumulator of the entry at a position, which that entry takes on: it then
completes after it (R143). -/
def TileUnit.follows (t : TileUnit) (i : Nat) (op : TileOp) : Bool :=
  let into (n : AccReg) : Bool := (t.queue.take i).any fun o => match o.op with | .tmma ad .. => ad == n | _ => false
  match op with
  | .tmma ad .. => into ad
  | .tswap n _ => into n
  | _ => false

/-- TILE_ENTRY_COMPLETE (R143, R145, R147, R148): the entry's flags and late bus errors reach its berth, and it leaves the
queue. A TDRN completes once its last row has left the epilogue, a store or drain once its last write has been acknowledged, and a
TMMA or TSWAP after the older TMMAs of its accumulator. -/
def execTileEntryComplete (core : CoreId) (index : Fin 32) (s : State) : Host.Outcome State Fault Refusal :=
  let t := s.tile core
  match t.queue[index.val]? with
  | some e =>
    let younger := (t.queue.drop (index.val + 1)).any fun o => o.op.engine == 2 && o.started
    let ready := e.started && (e.op.engine != 2 || (!t.draining index.val && (younger || t.rows.isEmpty))) &&
      !t.follows index.val e.op && !(e.op.stores && (s.core core).unacked .tile e.berth)
    if s.tileRuns core && ready then
      let save := t.save.map fun n => if index.val < n then n - 1 else n
      let s := s.setTile core { t with queue := dropAt t.queue index.val, save := save }
      let s := if e.flags = 0 then s else s.setFlags core e.berth e.flags
      let s := e.errs.foldl (fun s a => s.lateBusError core e.berth a (if e.op.reads then 1 else 2)) s
      .next (s.tileSaveDue core)
    else .next s
  | none => .next s

/-- TILE_PREFETCH (R149): the next line of the oldest prefetch goes to the L2, or is skipped. -/
def execTilePrefetch (core : CoreId) (s : State) : Host.Outcome State Fault Refusal :=
  let t := s.tile core
  match t.pf with
  | p :: rest =>
    if s.tileRuns core then
      let a := (rowAddress p.base p.stride p.next).toNat
      let line := a / 64
      let hits := match s.l2.find line with | some x => x.mask == BitVec.allOnes 64 | none => false
      let pf := if p.next + 1 < p.rows then { p with next := p.next + 1 } :: rest else rest
      let s := s.setTile core { t with pf := pf }
      .next (if a ≥ 2 ^ 48 || s.scratchLine line || hits || !s.inRange a then s
        else if s.missWaits line then s.skipPrefetch (sliceOf line)
        else s.l2Fill line)
    else .next s
  | [] => .next s

/-- Whether a TMMA occupies the array. -/
def TileUnit.arrayBusy (t : TileUnit) : Bool := t.queue.any fun e => e.started && (match e.op with | .tmma .. => true | _ => false)

/-- TILE_KNOWN_ANSWER_TEST (R150, R337): the test that is due runs once no TMMA occupies the array. A pass changes nothing of the
unit; a failure is recorded as source 0x0F, whose reaction makes the unit unavailable. -/
def execTileKnownAnswerTest (core : CoreId) (pass : Bool) (s : State) : Host.Outcome State Fault Refusal :=
  let t := s.tile core
  if s.tileRuns core && t.katDue && !t.arrayBusy then
    let s := s.setTile core { t with katDue := false }
    .next (if pass then s else s.detect (plainFault 0x0F core.val))
  else .next s

end Sys2Proof.Machine
end

