-- ==== Sys2Proof/Machine/Epilogue.lean ====
section
/-! DEFINITION. The output path: the epilogue descriptor (R178-R180), the stages of a drain (R181-R191), the start of a
queue entry (R142) and the hand-off of rows to the dispatch unit (R194). -/

namespace Sys2Proof.Machine

-- The descriptor (Table 3) --------------------------------------------------------------------------------------------

def dScale (d : Blob) : Bool := d.field 0 0 1 == 1
def dBias (d : Blob) : Bool := d.field 0 1 1 == 1
def dElem (d : Blob) : Nat := d.field 0 2 2
def dCurve (d : Blob) : Bool := d.field 0 4 1 == 1
def dClip (d : Blob) : Bool := d.field 0 5 1 == 1
def dStat (d : Blob) : Nat := d.field 0 6 2
def dTopK (d : Blob) : Nat := d.field 1 0 5
def dTopFirst (d : Blob) : Bool := d.field 1 5 1 == 1
def dTopLast (d : Blob) : Bool := d.field 1 6 1 == 1
def dStatFirst (d : Blob) : Bool := d.field 1 7 1 == 1
def dCurveSlot (d : Blob) : Nat := d.field 2 0 3
def dSrcHalf (d : Blob) : Nat := d.field 2 3 1
def dTileHalf (d : Blob) : Nat := d.field 2 4 1
def dOutFmt (d : Blob) : Nat := d.field 3 0 4
def dDest (d : Blob) : Nat := d.field 3 4 4
def dBiasTile (d : Blob) : Nat := d.field 4 0 3
def dBiasRow (d : Blob) : Nat := d.field 4 3 5
def dBiasFmt (d : Blob) : Nat := d.field 5 0 3
def dElemTile (d : Blob) : Nat := d.field 5 3 3
def dElemFmt (d : Blob) : Nat := d.field 6 0 3
def dRows (d : Blob) : Nat := d.field 8 0 6
def dCols (d : Blob) : Nat := d.field 9 0 6
def dColTile (d : Blob) : Nat := d.field 10 0 11
def dScaleVal (d : Blob) : Num := fmtB32.decode (d.field 12 0 32)
def dClipLo (d : Blob) : Num := fmtB32.decode (d.field 16 0 32)
def dClipHi (d : Blob) : Num := fmtB32.decode (d.field 20 0 32)
def dOutAddr (d : Blob) : Nat := d.field 24 0 48
def dOutStride (d : Blob) : Int := (BitVec.ofNat 32 (d.field 32 0 32)).toInt
def dTokenBase (d : Blob) : Nat := d.field 36 0 32
def dTokAddr (d : Blob) : Nat := d.field 40 0 48
def dTokStride (d : Blob) : Int := (BitVec.ofNat 32 (d.field 48 0 32)).toInt
def dTokLen (d : Blob) : Nat := d.field 52 0 12
def dDoneCtr (d : Blob) : Ctr := BitVec.ofNat 16 (d.field 54 0 16)
def dRetBase (d : Blob) : Nat := d.field 56 0 48
def dRetStride (d : Blob) : Nat := d.field 64 0 32
def dOvlBase (d : Blob) : Nat := d.field 72 0 48
def dOvlLog2 (d : Blob) : Nat := d.field 80 0 4

/-- The reserved fields of Table 3: byte offset, low bit, width. -/
def dReserved : List (Nat × Nat × Nat) :=
  [(2, 5, 3), (5, 6, 2), (6, 3, 13), (8, 6, 2), (9, 6, 2), (10, 11, 5), (24, 0, 6), (30, 0, 16), (32, 0, 6), (40, 0, 6),
    (46, 0, 16), (48, 0, 6), (52, 12, 4), (62, 0, 16), (64, 0, 3), (68, 0, 32), (72, 0, 6), (78, 0, 16), (80, 4, 4),
    (81, 0, 376)]

/-- A binary or code format value of Table 3 that is reserved. -/
def dBadFmt (n : Nat) : Bool := n == 2 || n == 3

/-- Whether a field holds a reserved value (check 2 of R180). -/
def dBadValue (d : Blob) : Bool :=
  dElem d == 3 || dStat d == 3 || dOutFmt d == 3 || 8 ≤ dOutFmt d || 4 ≤ dDest d || dBadFmt (dBiasFmt d) ||
    dBadFmt (dElemFmt d) || 32 < dRows d || 32 < dCols d

/-- Whether a code slot is empty with the content kept for the TDRN. -/
def slotEmpty (codes : List Blob) (fmt : Nat) : Bool := fmtIsCode fmt && !codePresent (fmtSlot fmt codes)

/-- The check of R180: the code of the first failure. -/
def State.checkDesc (s : State) (d : Option (BitVec 1024)) (codes : List Blob) : Option (BitVec 16) :=
  match d with
  | none => some 0x0A15
  | some v =>
    let d : Blob := { len := 128, bits := v.toNat }
    if dReserved.any (fun r => d.field r.1 r.2.1 r.2.2 != 0) || dBadValue d then some 0x0A10
    else if 16 < dTopK d then some 0x0A13
    else if (dDest d ≤ 1 && slotEmpty codes (dOutFmt d)) || (dBias d && slotEmpty codes (dBiasFmt d)) ||
        (dElem d != 0 && slotEmpty codes (dElemFmt d)) then some 0x0A11
    else if dCurve d && ((s.si.curves.getD (dCurveSlot d) Blob.empty).field 0 0 1) != 1 then some 0x0A12
    else if dDest d == 2 && !s.enabled .dock then some 0x0A14
    else none

/-- Whether a TDRN in the queue uses a held descriptor. -/
def TileUnit.serves (t : TileUnit) (h : HeldDesc) : Bool :=
  t.queue.any fun e => match e.op with
    | .tdrn _ _ _ serial .. => e.berth == h.berth && serial == h.serial
    | _ => false

/-- EPILOGUE_DESCRIPTOR_READ (R179): the oldest TDRN without a held descriptor has its descriptor read into a free hold; of
two free holds the older one goes (log entry 33). -/
def execEpilogueDescriptorRead (core : CoreId) (s : State) : Host.Outcome State Fault Refusal :=
  let t := s.tile core
  let want := t.queue.findSome? fun e => match e.op with
    | .tdrn _ _ epi serial .. =>
      if !e.started && (t.heldFor e.berth serial).isNone then some (e.berth, epi, serial) else none
    | _ => none
  match want with
  | none => .next s
  | some (b, epi, serial) =>
    let room := t.held.length < 2
    let free := t.held.find? fun h => !t.serves h
    if !s.tileRuns core || (!room && free.isNone) then .next s
    else
      let kept := if room then t.held else t.held.filter fun h => some h != free
      let (s, l, bad) := s.portReads core [epi.toNat, epi.toNat + 64]
      let data := if bad.isEmpty then some (BitVec.ofNat 1024 (linesBlob l).bits) else none
      .next (s.setTile core { s.tile core with held := kept ++ [{ berth := b, serial := serial, epi := epi, data := data }] })

-- Starting a drain (R180, R186, R189) --------------------------------------------------------------------------------------

/-- Apply an update to the rows of a list below `n`. -/
def mapRows {α : Type} (n : Nat) (f : α → α) (l : List α) : List α := (l.take n).map f ++ l.drop n

/-- A drain that passed its check starts: STAT_FIRST and TOPK_FIRST act, and the bias row is read (R182). DEDUCED (log entry 95):
the curves are those in force at this start, as Table 9 of R62 says, where the code slots are those of the issue (R157). -/
def State.startDrain (s : State) (c : CoreId) (i : Nat) (e : TileEntry) (d : BitVec 1024) : State :=
  match e.op with
  | .tdrn l td _ _ tkbase mode codes =>
    let b : Blob := { len := 128, bits := d.toNat }
    let x := (s.tile c).st
    let n := dRows b
    let stats := if dStatFirst b then mapRows n (fun _ => { m := 0xFFE0000000, s := 0 }) x.stats else x.stats
    let topk := if dTopFirst b then mapRows n (fun _ => []) x.topk else x.topk
    let x := { x with stats := stats, topk := topk }
    let drain : Drain :=
      { berth := e.berth, l := l, td := td, tkbase := tkbase, mode := mode, codes := codes, desc := d,
        curves := s.si.curves, bias := x.row (dBiasTile b) (dBiasRow b), row := 0 }
    let s := s.setTile c { s.tile c with st := x, drain := some drain }
    s.setEntry c i { e with started := true }
  | _ => s

/-- A TDRN starts (R180): a failed check discards it, frees a failed hold and raises vector 10 in its berth. DESIGN CHOICE (log
entry 94): a second failure before the first exception is taken waits behind it, with its own code. -/
def State.startTdrn (s : State) (c : CoreId) (i : Nat) (e : TileEntry) (serial : Nat) (codes : List Blob) : State :=
  let t := s.tile c
  match t.heldFor e.berth serial with
  | none => s
  | some h =>
    match s.checkDesc h.data codes, h.data with
    | none, some d => s.startDrain c i e d
    | code, _ =>
      let held := if h.data.isNone then t.held.filter (· != h) else t.held
      let save := t.save.map fun n => if i < n then n - 1 else n
      let s := s.setTile c { t with queue := dropAt t.queue i, held := held, save := save }
      let s := s.mapBerth c e.berth fun y => { y with epiFaults := y.epiFaults ++ code.toList }
      (s.settle c).tileSaveDue c

/-- TILE_ENTRY_START (R142): the entry at a position starts when nothing older stands in its way; LS and AR entries take
effect at once. -/
def execTileEntryStart (core : CoreId) (index : Fin 32) (s : State) : Host.Outcome State Fault Refusal :=
  let t := s.tile core
  match t.queue[index.val]? with
  | some e =>
    if s.tileRuns core && t.canStart index.val && !s.opWaits e.op then
      match e.op with
      | .tdrn _ _ _ serial _ _ codes => .next (s.startTdrn core index.val e serial codes)
      | op =>
        let (s, flags, errs) := s.tileEffect core e.berth op
        .next (s.setEntry core index.val { e with started := true, flags := flags, errs := errs })
    else .next s
  | none => .next s

-- Stages (R181-R189) -----------------------------------------------------------------------------------------------------------

/-- An operation at A40 that collects saturation. -/
abbrev Cell := Num × Bool

/-- Apply a rounded operation and keep the saturation seen so far. -/
def cellOp (f : Num → Num × Bool) (x : Cell) : Cell :=
  let r := f x.1
  (r.1, x.2 || r.2)

/-- curve(v) of R184 for a curve slot; an infinite v on a NaN SLOPE gives NaN (log entry 34). -/
def curveOf (slot : Blob) (x : Cell) : Cell :=
  let v := x.1
  let at_ (off i : Nat) : Num := fmtA40.decode (slot.field (off + 15 * i) 0 40)
  let n := slot.field 1 0 5
  let i := ((List.range (n + 1)).filter fun i => !v.lt (at_ 32 i)).foldl Nat.max 0
  let slope := at_ 37 i
  let offset := at_ 42 i
  match v with
  | .nan => (.nan, x.2)
  | .inf neg => (if slope.isZero then offset else if slope.isNan then .nan else .inf (slope.sign != neg), x.2)
  | v =>
    let a := cellOp (fun v => fmtA40.add v (at_ 32 i).neg) (v, x.2)
    let m := cellOp (fun d => fmtA40.mul slope d) a
    cellOp (fun p => fmtA40.add offset p) m

/-- Clip (R185). -/
def clipOf (lo hi v : Num) : Num :=
  let v := if v.lt lo then lo else v
  if hi.lt v then hi else v

/-- stat_update of R187. -/
def statUpdate (mode : Nat) (r : Num × Num × Bool) (v : Num) : Num × Num × Bool :=
  let (m, sg, o) := r
  if mode = 1 then
    let t := fmtA40.add sg v
    (if m.lt v then v else m, t.1, o || t.2)
  else if mode = 2 then
    let (m', sg', o') :=
      if m.lt v then
        let d := fmtA40.add m v.neg
        let e := expA d.1
        let p := fmtA40.mul sg e.1
        (v, p.1, o || d.2 || e.2 || p.2)
      else (m, sg, o)
    let d := fmtA40.add v m'.neg
    let e := expA d.1
    let t := fmtA40.add sg' e.1
    (m', t.1, o' || d.2 || e.2 || t.2)
  else r

/-- Whether a new top-k entry comes before one that is held (R188). -/
def topBefore (x y : TopEntry) : Bool :=
  let a := fmtB32.decode x.val.toNat
  let b := fmtB32.decode y.val.toNat
  b.lt a || (!a.lt b && x.pos.toNat < y.pos.toNat)

/-- Insert an entry into a set in the order of R188. -/
def topInsert (l : List TopEntry) (x : TopEntry) : List TopEntry :=
  match l with
  | [] => [x]
  | y :: t => if topBefore x y then x :: y :: t else y :: topInsert t x

/-- The outcome of a row's stages: its cells after stage 5, the row's new set and statistics, what it emits, and the FSTAT
flags. -/
structure RowOut where
  cells : List Num
  topk  : List TopEntry
  stat  : RowStat
  emit  : List TopEntry
  flags : BitVec 6
deriving DecidableEq, Repr

/-- Stages 1 to 7 for a row. -/
def Drain.stages (dr : Drain) (x : TileState) : RowOut :=
  let d : Blob := { len := 128, bits := dr.desc.toNat }
  let r := dr.row
  let lin := x.lin dr.l.val
  let src := (accFmt lin.a16)
  let fzin := modeFzin dr.mode
  let cells : List Cell := ((lin.cells.drop (32 * r)).take 32).map fun c => (src.decode c.toNat, false)
  let cells := if dScale d then cells.map (cellOp fun v => fmtA40.mul v (dScaleVal d)) else cells
  let first := 32 * dSrcHalf d
  let bias := if dBias d then decodeRow (dBiasFmt d) dr.codes fzin dr.bias (if fmtIsCode (dBiasFmt d) then first else 0) 32
    else []
  let cells := if dBias d then List.zipWith (fun v b => cellOp (fun v => fmtA40.add v b.1) v) cells bias else cells
  let elem := if dElem d = 0 then [] else
    decodeRow (dElemFmt d) dr.codes fzin (x.row (dElemTile d) r) (if fmtIsCode (dElemFmt d) then first else 0) 32
  let cells :=
    if dElem d = 1 then List.zipWith (fun v b => cellOp (fun v => fmtA40.add v b.1) v) cells elem
    else if dElem d = 2 then List.zipWith (fun v b => cellOp (fun v => fmtA40.mul v b.1) v) cells elem
    else cells
  let cells := if dCurve d then cells.map (curveOf (dr.curves.getD (dCurveSlot d) Blob.empty)) else cells
  let out := cells.map fun c => if dClip d then clipOf (dClipLo d) (dClipHi d) c.1 else c.1
  let cols := out.take (dCols d)
  let old := x.stats.getD r { m := 0xFFE0000000, s := 0 }
  let (m, sg, so) := cols.foldl (statUpdate (dStat d)) (a40 old.m, a40 old.s, false)
  let stat : RowStat := if dStat d = 0 then old else { m := toA40 m, s := toA40 sg }
  let k := dTopK d
  let held := x.topk.getD r []
  let cands := if k = 0 then [] else cols.zipIdx.map fun p =>
    (convertOut (.bin fmtB32) (modeFzout dr.mode) (modeOsat dr.mode) p.1, 32 * dColTile d + p.2)
  let set := cands.foldl (fun l q =>
    if (fmtB32.decode q.1.1).isNan then l
    else topInsert l { val := BitVec.ofNat 32 q.1.1, pos := BitVec.ofNat 16 q.2 }) held
  let set := if k = 0 then set else set.take k
  let emit := if dTopLast d then set.take k else []
  let ovf := cells.any (·.2) || so
  let fl := bias.any (·.2) || elem.any (·.2) || cands.any (·.1.2)
  { cells := out, topk := if dTopLast d then [] else set, stat := stat, emit := emit,
    flags := (if ovf then flagOvf dr.l else 0) ||| (if fl then flagFlushed else 0) }

-- Stage 8 (R190, R191, R194) ----------------------------------------------------------------------------------------------------

/-- Pack numbers of `w` bits, the first lowest. -/
def packNats (w : Nat) (l : List Nat) : Nat := l.foldr (fun v acc => v % 2 ^ w + acc * 2 ^ w) 0

/-- Bytes per output element of OUT_FMT. -/
def outWidth (fmt : Nat) : Nat := if fmt = 2 then 4 else if fmt ≤ 1 then 2 else 1

/-- A base plus a signed multiple, modulo 2^48. -/
def wrap48 (base : Nat) (off : Int) : Nat := (((base : Int) + off) % 2 ^ 48).toNat

/-- The top-k record of a row (Table 6). -/
def topRecord (emit : List TopEntry) (st : RowStat) : Nat :=
  packNats 48 (emit.map fun e => e.val.toNat + e.pos.toNat * 2 ^ 32) + emit.length * 2 ^ 768 + st.m.toNat * 2 ^ 832 +
    st.s.toNat * 2 ^ 872

/-- Write a converted row into the destination tile or tiles. -/
def TileState.putRow (x : TileState) (d : Blob) (td : TileReg) (r bits : Nat) : TileState :=
  let put (x : TileState) (t : Nat) (v mask : Nat) : TileState :=
    x.setTile t (setAt (x.tileRows t) r (mergeLine (x.row t r) (BitVec.ofNat 512 v) (BitVec.ofNat 64 mask)))
  let full := 2 ^ 64 - 1
  if dOutFmt d = 2 then put (put x td.val (bits % 2 ^ 512) full) ((td.val + 1) % 8) (bits / 2 ^ 512) full
  else if outWidth (dOutFmt d) = 1 then
    put x td.val (bits * 2 ^ (256 * dTileHalf d)) ((2 ^ 32 - 1) * 2 ^ (32 * dTileHalf d))
  else put x td.val bits full

/-- The hand-off of a row (R194, Table 9): m and σ convert to binary32 under the drain's FZOUT and OSAT. -/
def Drain.handoff (dr : Drain) (o : RowOut) : Handoff × Bool :=
  let conv (c : Cell40) := convertOut (.bin fmtB32) (modeFzout dr.mode) (modeOsat dr.mode) (a40 c)
  let m := conv o.stat.m
  let sg := conv o.stat.s
  ({ row := dr.row, desc := dr.desc, entries := o.emit, m := BitVec.ofNat 32 m.1, s := BitVec.ofNat 32 sg.1, next := 0,
     table := [] },
    !o.emit.isEmpty && (m.2 || sg.2))

/-- Whether a drain hands its rows to the dispatch unit. -/
def dHandsOff (d : Blob) : Bool := dDest d == 2 && dTopLast d

/-- The addresses that the next row of a drain writes: its output lines, and its top-k record. -/
def Drain.rowAddrs (dr : Drain) : List Nat :=
  let d : Blob := { len := 128, bits := dr.desc.toNat }
  let a := wrap48 (dOutAddr d) (dr.row * dOutStride d)
  let t := dr.tkbase.toNat / 128 * 128 + 128 * dr.row
  (if dDest d = 0 then a :: (if outWidth (dOutFmt d) = 4 then [(a + 64) % 2 ^ 48] else []) else []) ++
    (if dTopLast d && bitAt dr.tkbase 0 then [t, t + 64] else [])

/-- A row below NROWS: the state after stage 8, the flags and the failed lines. -/
def State.drainOut (s : State) (c : CoreId) (dr : Drain) : State × BitVec 6 × List (BitVec 48) :=
  let d : Blob := { len := 128, bits := dr.desc.toNat }
  let r := dr.row
  let x := (s.tile c).st
  let o := dr.stages x
  let x := { x with topk := setAt x.topk r o.topk, stats := setAt x.stats r o.stat }
  let writes := dDest d ≤ 1
  let conv := if writes then
      o.cells.map (convertOut (outFmtOf (dOutFmt d) dr.codes) (modeFzout dr.mode) (modeOsat dr.mode)) else []
  let w := outWidth (dOutFmt d)
  let bits := packNats (8 * w) (conv.map (·.1))
  let x := if dDest d = 1 then x.putRow d dr.td r bits else x
  let s := s.setTst c x
  let lines := if dDest d ≠ 0 then []
    else BitVec.ofNat 512 bits :: (if w = 4 then [BitVec.ofNat 512 (bits / 2 ^ 512)] else [])
  let rec_ := topRecord o.emit o.stat
  let recLines := if dTopLast d && bitAt dr.tkbase 0 then [BitVec.ofNat 512 rec_, BitVec.ofNat 512 (rec_ / 2 ^ 512)] else []
  let (s, bad) := s.portWrites c dr.berth .tile (dr.rowAddrs.zip (lines ++ recLines))
  let (h, hf) := dr.handoff o
  let s := if dHandsOff d then s.setTile c { s.tile c with rows := (s.tile c).rows ++ [h] } else s
  let fl := conv.any (·.2) || (dHandsOff d && hf)
  (s, o.flags ||| (if fl then flagFlushed else 0), bad)

/-- Add flags and failed lines to the TDRN that drains. -/
def TileUnit.noteDrain (t : TileUnit) (flags : BitVec 6) (bad : List (BitVec 48)) : TileUnit :=
  match ((List.range t.queue.length).filter fun i => match t.queue[i]? with
      | some e => e.op.engine == 2 && e.started
      | none => false).getLast? with
  | some i =>
    match t.queue[i]? with
    | some e => { t with queue := setAt t.queue i { e with flags := e.flags ||| flags, errs := e.errs ++ bad } }
    | none => t
  | none => t

/-- DRAIN_ROW (R181): the drain in progress passes its next row; rows at or above NROWS are read and discarded. While the
epilogue holds 4 rows it reads no further one (R144). -/
def execDrainRow (core : CoreId) (s : State) : Host.Outcome State Fault Refusal :=
  let t := s.tile core
  match t.drain with
  | some dr =>
    if !s.tileRuns core || 4 ≤ t.rows.length || s.anyHeld dr.rowAddrs then .next s
    else
      let d : Blob := { len := 128, bits := dr.desc.toNat }
      let (s, flags, bad) := if dr.row < dRows d then s.drainOut core dr else (s, 0, [])
      let t := (s.tile core).noteDrain flags bad
      let t := { t with drain := if dr.row + 1 < 32 then some { dr with row := dr.row + 1 } else none }
      .next (s.setTile core t)
  | none => .next s

/-- The dispatch entry of a position in the active table (R195), if a body has given one: REPLICAS is never 0 in one that the check
accepted, and an entry that lies before a PARTIAL body and that no body reached is absent (R62, R361). -/
def State.dispatchEntry (s : State) (pos : Nat) : Option (BitVec 128) :=
  let p := s.sect secDispatch
  if 16 * pos < p.len && diReplicas p pos != 0 then some (BitVec.ofNat 128 (p.field (16 * pos) 0 128)) else none

/-- DISPATCH_HANDOFF (R194): the oldest held row takes a place of the dispatch unit, of which a core has 8; one without
entries frees at once. -/
def execDispatchHandoff (core : CoreId) (s : State) : Host.Outcome State Fault Refusal :=
  let t := s.tile core
  match t.rows with
  | h :: rest =>
    let k := s.core core
    if !s.tileRuns core || s.bw.fStop || 8 ≤ k.handoffs.length then .next s
    else
      let s := s.setTile core { t with rows := rest }
      let h' : Handoff := { h with table := h.entries.map fun e => s.dispatchEntry e.pos.toNat }
      .next (if h.entries.isEmpty then s else s.setCore core { s.core core with handoffs := k.handoffs ++ [h'] })
  | [] => .next s

end Sys2Proof.Machine
end

