-- ==== Sys2Proof/Machine/Pilot.lean ====
section
/-! DEFINITION. The pilot (R107-R118), the ingress descriptor port (R34-R38) and the table port with the classifier's
tables (R39-R41, R49). -/

namespace Sys2Proof.Machine

/-- Whether the pilot takes new work: enabled and clocked, and no F-class fault (R321). -/
def State.pilotRuns (s : State) : Bool := s.meshRuns && !s.bw.fStop && s.enabled .pilot

-- Arrivals (R114-R116) ------------------------------------------------------------------------------------------------

/-- The place of an offer in the order of R114: its source group and, within it, the slot or id. -/
def Offer.rank (o : Offer) : Nat :=
  match o.src with
  | .ingress => 0
  | .table n => 0x1000 + n.val
  | .latch => 0x2000 + o.id.toNat
  | .doorbell => 0x3000 + o.id.toNat
  | .dock _ => 0x4000 + o.id.toNat

/-- Insert an offer before the first of higher rank. -/
def insertOffer (o : Offer) : List Offer → List Offer
  | [] => [o]
  | x :: t => if o.rank < x.rank then o :: x :: t else x :: insertOffer o t

/-- The offers to a core in the order of R114. -/
def State.offersFor (s : State) (c : CoreId) : List Offer :=
  (s.pl.offers.filter (·.core == c)).foldl (fun l o => insertOffer o l) []

/-- The position of the pending entry that an arrival merges into (R115). -/
def Core.mergeAt (k : Core) (id : BitVec 12) (b : BerthId) : Option Nat :=
  (k.pend.zipIdx.find? fun p => p.1.id == id && p.1.berth == b && p.1.count != 0xFFFF).map (·.2)

/-- How an arrival can be accepted now: merged at a position, in a free entry, spilled, or not at all. -/
inductive Accept where
  | merge (i : Nat)
  | entry
  | spill
deriving DecidableEq, Repr

/-- The place of the next record in a berth's spill ring. -/
def State.spillAddr (s : State) (c : CoreId) (b : BerthId) : Nat :=
  let p := s.pilotPlan
  berthSpillBase p c.val b.val + 16 * ((aget b.val (s.core c).spillSeq).getD 0 % berthSpillSlots p c.val b.val)

/-- Whether an offer stands: that of a watch while the watch offers its event (R254). -/
def State.offerStands (s : State) (o : Offer) : Bool :=
  match o.src with
  | .dock w => s.watchReady w.val
  | _ => true

/-- What acceptance an offer meets (R115, R116). A halted berth takes none (R123); while spilled arrivals wait, a new one
takes no entry. An arrival that merges takes the terms of the entry (log entry 99). -/
def State.acceptance (s : State) (c : CoreId) (o : Offer) : Option Accept :=
  let k := s.core c
  let p := s.pilotPlan
  let b := o.terms.berth
  if (k.berth b).halted || !s.offerStands o then none
  else
    match (if o.terms.coalesce then k.mergeAt o.id b else none) with
    | some i => some (.merge i)
    | none =>
      if k.pend.length < 64 && k.spilled.isEmpty then some .entry
      else if berthSpill p c.val b.val &&
          (k.spilled.filter (·.1.berth == b)).length < berthSpillSlots p c.val b.val &&
          !s.rangeHeld (s.spillAddr c b) 16 then some .spill
      else none

/-- Append an arrival to its berth's spill ring: a 16-byte record (log entry 11). -/
def State.spillArrival (s : State) (c : CoreId) (a : Arrival) : State :=
  let k := s.core c
  let seq := (aget a.berth.val k.spillSeq).getD 0
  let addr := s.spillAddr c a.berth
  let data := Config.spillRecord a.id a.count a.age
  let s := if s.mappedAll addr 16 then s.engineStore addr { len := 16, bits := data.toNat } else s
  s.setCore c { s.core c with spilled := k.spilled ++ [(a, seq)], spillSeq := aput a.berth.val (seq + 1) k.spillSeq }

/-- An offer leaves its source: the descriptor leaves the buffer, and a watch whose last offer is accepted disarms
(Table 4, R254). -/
def State.offerTaken (s : State) (o : Offer) : State :=
  let s := { s with pl := { s.pl with offers := s.pl.offers.filter (· != o) } }
  match o.src with
  | .ingress => { s with pl := { s.pl with current := none } }
  | .dock w =>
    if s.pl.offers.any (·.src == .dock w) then s
    else
      let x := s.watch w.val
      { s with dk := { s.dk with watches :=
          if x.target = 0 then adel w.val s.dk.watches else aput w.val { x with arm := false } s.dk.watches } }
  | _ => s

/-- Accept an offer. -/
def State.acceptOffer (s : State) (c : CoreId) (o : Offer) (how : Accept) : State :=
  let k := s.core c
  let a : Arrival := { id := o.id, berth := o.terms.berth, count := 1, age := s.pl.fabric, prio := o.terms.prio, vector := o.terms.vector }
  let s := match how with
    | .merge i =>
      match k.pend[i]? with
      | some e => s.setCore c { k with pend := setAt k.pend i { e with count := e.count + 1 } }
      | none => s
    | .entry => s.setCore c { k with pend := k.pend ++ [a] }
    | .spill => s.spillArrival c a
  let s := s.offerTaken o
  State.wake { s with pl := { s.pl with fabric := s.pl.fabric + 1 } } c

/-- ARRIVAL_ACCEPT (R114): the first offer to the core that can be accepted. From the stop edge none is (R348). -/
def execArrivalAccept (core : CoreId) (s : State) : Host.Outcome State Fault Refusal :=
  if !s.pilotRuns || s.pastStop || !s.enabled (.core core) then .next s
  else
    match (s.offersFor core).findSome? fun o => (s.acceptance core o).map fun h => (o, h) with
    | some (o, h) => .next (s.acceptOffer core o h)
    | none => .next s

/-- SPILL_RETURN (R116): with an entry free, the oldest spilled arrival of the core returns to the store. -/
def execSpillReturn (core : CoreId) (s : State) : Host.Outcome State Fault Refusal :=
  let k := s.core core
  if !s.pilotRuns || !s.enabled (.core core) || 64 ≤ k.pend.length then .next s
  else match k.spilled with
    | (a, _) :: rest => .next ((s.setCore core { k with spilled := rest, pend := k.pend ++ [a] }).wake core)
    | [] => .next s

-- Selection and delivery (R113) -----------------------------------------------------------------------------------------

/-- Whether a pending entry is deliverable. -/
def State.deliverable (s : State) (c : CoreId) (e : Arrival) : Bool :=
  let y := s.berth c e.berth
  y.ie && !y.halted && (y.waiting || y.prio.toNat < e.prio.toNat)

/-- Whether entry `x` is taken before entry `y`: higher PRIO, then older, then lower id. -/
def entryBefore (x y : Arrival) : Bool :=
  y.prio.toNat < x.prio.toNat || (x.prio == y.prio && (x.age.toNat < y.age.toNat || (x.age == y.age && x.id.toNat < y.id.toNat)))

/-- The entry that a berth takes first. -/
def State.bestEntry (s : State) (c : CoreId) (b : BerthId) : Option Arrival :=
  ((s.core c).pend.filter fun e => e.berth == b && s.deliverable c e).foldl (fun r e =>
    match r with
    | none => some e
    | some x => if entryBefore e x then some e else some x) none

/-- The effective priority of a berth (R113). -/
def State.effective (s : State) (c : CoreId) (b : BerthId) : Option Nat :=
  let y := s.berth c b
  if y.halted then none
  else
    let entry := (s.bestEntry c b).map fun e => e.prio.toNat
    let run := if y.waiting then none else some y.prio.toNat
    let lbe := if y.lbePending then some 15 else none
    [entry, run, lbe].foldl (fun r x => match r, x with
      | none, x => x
      | r, none => r
      | some a, some b => some (Nat.max a b)) none

/-- Whether berth `b` is chosen before berth `a`: higher effective priority, then the RUNNING berth, then the older best
entry, then the lower number. -/
def State.chosenBefore (s : State) (c : CoreId) (b a : BerthId) : Bool :=
  let run := (s.core c).running
  match s.effective c b, s.effective c a with
  | some x, some y =>
    if x ≠ y then y < x
    else if run = some b then true
    else if run = some a then false
    else match s.bestEntry c b, s.bestEntry c a with
      | some e, some f => if e.age ≠ f.age then e.age.toNat < f.age.toNat else b.val < a.val
      | some _, none => true
      | none, some _ => false
      | none, none => b.val < a.val
  | some _, none => true
  | _, _ => false

/-- The berth that the pilot selects for a core. -/
def State.choice (s : State) (c : CoreId) : Option BerthId :=
  allBerths.foldl (fun r b =>
    match r with
    | none => if (s.effective c b).isSome then some b else none
    | some a => if s.chosenBefore c b a then some b else some a) none

/-- PILOT_SELECT (R113): the pilot selects a berth; a core that is halted or stuck is left alone (R45, R347). -/
def execPilotSelect (core : CoreId) (s : State) : Host.Outcome State Fault Refusal :=
  let k := s.core core
  if !s.pilotRuns || !s.coreRuns core then .next s
  else
    let b := s.choice core
    .next (s.setCore core { k with selected := if b = k.running then none else b })

/-- BERTH_SWITCH (R109): the selected berth becomes RUNNING. What the berth left has not retired is abandoned and its pending MODE
writes complete; a late bus error, or else a pocket fault or epilogue exception, of the berth entered is taken at once, also where
that berth was WAITING (log entry 93). A core that is about to halt does not switch (R45). -/
def execBerthSwitch (core : CoreId) (s : State) : Host.Outcome State Fault Refusal :=
  let k := s.core core
  match k.selected with
  | some b =>
    if !s.pilotRuns || !s.coreRuns core || k.running = some b || k.haltDue.isSome then .next s
    else
      let a := k.last
      let s := s.mapBerth core a fun y => { y.completeModes with midway := false }
      let s := s.setCore core { (s.core core).flush with running := some b, selected := none, last := b }
      let s := s.traceCore core 0x3 b.val a.val
      .next (if (s.berth core b).lbePending then s.takeLateBusError core b else s.settle core)
  | none => .next s

/-- EVENT_ENTRY (R113, R122): the RUNNING berth, while it is the one that the pilot selects, takes its best deliverable entry,
after every exception that waits (R125). -/
def execEventEntry (core : CoreId) (s : State) : Host.Outcome State Fault Refusal :=
  let k := s.core core
  match k.running with
  | some b =>
    let y := s.berth core b
    let waits := y.halted || y.customer.isSome || y.lbePending || y.pocketFault.isSome || !y.epiFaults.isEmpty
    if !s.pilotRuns || !s.coreRuns core || waits || k.haltDue.isSome || s.choice core != some b then .next s
    else match s.bestEntry core b with
      | some e =>
        let s := s.setCore core { k with pend := k.pend.filter (· != e) }
        let s := s.mapBerth core b fun y => { y with waiting := false }
        .next (s.enterGangway core b e.vector.toNat y.pc e.count.toNat (some e.prio))
      | none => .next s
  | none => .next s

-- The ingress descriptor port (R34-R38) ------------------------------------------------------------------------------------

/-- The beats that a descriptor has by the FORM of its head (R36, R37). -/
def beatsOf (head : Line) : Nat := if head.toNat % 16 = 2 then 5 else 1

/-- Whether a framed descriptor has all its beats. -/
def IngressBuf.complete (d : IngressBuf) : Bool :=
  d.bad || (match d.beats with | h :: _ => beatsOf h ≤ d.beats.length | [] => true)

/-- Beats held, with those of the descriptor being delivered. -/
def Pilot.beats (p : Pilot) : Nat :=
  p.buffer.foldl (fun n d => n + d.beats.length) 0 + (match p.current with | some d => d.beats.length | none => 0)

/-- The ingress port protocol fault, source 0x24. -/
def State.ingressFault (s : State) : State := s.detect { plainFault 0x24 0 with master := pilotMaster }

/-- INGRESS_CREDIT_GRANT (R34): IDP_CREDIT is high for one cycle. -/
def execIngressCreditGrant (s : State) : Host.Outcome State Fault Refusal :=
  if s.meshRuns && s.enabled .pilot && s.pl.credits + s.pl.beats < 1024 then
    .next { s with pl := { s.pl with credits := s.pl.credits + 1 }, pins := { s.pins with credit := true } }
  else .next s

/-- INGRESS_BEAT (R35, R38): a beat without a credit is discarded with the overrun flag; a stray beat is discarded and its
credit returns; a FIRST beat ends an unfinished descriptor. -/
def execIngressBeat (first : Bool) (data : Line) (s : State) : Host.Outcome State Fault Refusal :=
  if !s.meshRuns then .next s
  else if s.pl.credits = 0 then
    let t : State := { s with pl := { s.pl with overrun := true } }
    .next t.ingressFault
  else
    let p := { s.pl with credits := s.pl.credits - 1 }
    let front := p.buffer.dropLast
    let fresh : IngressBuf := { bad := false, beats := [data] }
    let keep (l : List IngressBuf) : State := { s with pl := { p with buffer := l } }
    match p.buffer.getLast? with
    | some d =>
      if d.complete then
        if first then .next (keep (p.buffer ++ [fresh]))
        else .next (keep p.buffer).ingressFault
      else if first then
        .next (keep (front ++ [{ bad := true, beats := d.beats.take 1 }, fresh])).ingressFault
      else .next (keep (front ++ [{ d with beats := d.beats ++ [data] }]))
    | none =>
      if first then .next (keep [fresh])
      else .next (keep p.buffer).ingressFault

/-- Whether a head beat is malformed (R37): every bit that Table 10 requires to be zero counts (log entry 35). -/
def headBad (h : Line) : Bool :=
  let b : Blob := { len := 64, bits := h.toNat }
  let form := b.field 0 0 4
  let action := b.field 0 4 4
  let hdr := b.field 18 0 16
  (form != 1 && form != 2) || (action != 2 && action != 3) || b.field 4 2 6 != 0 || b.field 14 0 16 != 0 ||
    b.field 17 0 8 != 0 || b.field 20 0 96 != 0 || (form == 1 && hdr != 0) || (form == 2 && (hdr == 0 || 256 < hdr))

/-- INGRESS_DESCRIPTOR (R37): the oldest complete descriptor is framed and classified. One without a valid event entry is
never delivered (R111) and leaves the buffer. -/
def execIngressDescriptor (s : State) : Host.Outcome State Fault Refusal :=
  match s.pl.buffer with
  | d :: rest =>
    if !s.pilotRuns || s.pl.current.isSome || !d.complete then .next s
    else
      let h := d.beats.headD 0
      let bad := d.bad || headBad h
      let id : Nat := if bad then 2 else if h.toNat % 16 = 2 then 1 else 0
      let cur : IngressDesc := { id := BitVec.ofNat 12 id, beats := if bad then [h] else d.beats, written := false }
      .next { s with pl := { s.pl with buffer := rest, current := if evValid s.pilotPlan id then some cur else none } }
  | [] => .next s

/-- The record of a descriptor: its head with the kind and the sequence number, then its further beats (R117). -/
def inboxRecord (d : IngressDesc) (seq : BitVec 32) : Blob :=
  let h : Blob := { len := 64, bits := (d.beats.headD 0).toNat }
  let h := (h.patch 17 { len := 1, bits := d.id.toNat }).patch 20 { len := 4, bits := seq.toNat }
  d.beats.drop 1 |>.foldl (fun b l => b.append { len := 64, bits := l.toNat }) h

/-- Write the current descriptor into its inbox when it fits, then PUT, and offer the event. PUT and TAKE are those of the
control slot (log entry 36). -/
def State.inboxWrite (s : State) : State :=
  match s.pl.current with
  | some d =>
    let p := s.pilotPlan
    let id := d.id.toNat
    match s.portTarget id (((d.beats.headD 0).toNat / 256) % 256) with
    | none => s
    | some c =>
      let b := evBerth p id
      let base := berthInbox p c.val b
      let slots := berthInboxSlots p c.val b
      let put := (s.engineWord base).getD 0
      let take := (s.engineWord (base + 8)).getD 0
      let need := if id = 1 then 5 else 1
      let place (i : Nat) : Nat := base + 64 + 64 * ((put + i) % slots)
      let held := s.lineHeld (base / 64) || (List.range need).any fun i => s.lineHeld (place i / 64)
      if d.written || !s.pilotRuns || s.pastStop || held || slots < (put + need + 2 ^ 64 - take) % 2 ^ 64 then s
      else
        let key := 8 * c.val + b
        let seq := (aget key s.pl.seqs).getD 0
        let rec_ := inboxRecord d seq
        let put1 (s : State) (i : Nat) : State :=
          if s.mapped (place i) then s.engineStore (place i) (rec_.slice (64 * i) 64) else s
        let s := (List.range need).foldl put1 s
        let s := if s.mapped base then s.engineWordPut base (put + need) else s
        let o : Offer := { id := d.id, core := c, src := .ingress, terms := evTerms p id }
        { s with pl := { s.pl with current := some { d with written := true }, seqs := aput key (seq + 1) s.pl.seqs,
                                   offers := addOffer s.pl.offers o } }
  | none => s

/-- INBOX_RECORD_WRITE (R117). -/
def execInboxRecordWrite (s : State) : Host.Outcome State Fault Refusal := .next s.inboxWrite

/-- INBOX_TAKE_REREAD (R118): TAKE is read again, and the record is written when it now fits. -/
def execInboxTakeReread (s : State) : Host.Outcome State Fault Refusal := .next s.inboxWrite

-- The table port (R39-R41, R49) ---------------------------------------------------------------------------------------------

/-- TABLE_COMMAND_SEND (R49): a command waits while the pilot is disabled, or takes no new work (R321). One with a reserved OP
that waited is answered here and is not sent (log entry 100). -/
def execTableCommandSend (slot : Fin 16) (s : State) : Host.Outcome State Fault Refusal :=
  let x := s.slot slot
  if s.pilotRuns && x.go && !x.sent then
    if !tcOpOk x.command then .next (s.slotRespond slot 0x04)
    else
      let s := s.setSlot slot { x with sent := true }
      .next { s with tp := { s.tp with cmdTag := BitVec.ofNat 4 slot.val, cmdData := x.command }
                     pins := { s.pins with tpCmd := true } }
  else .next s

/-- The fields of a table command (Table 11). -/
def tcPort (c : Line) : Byte := BitVec.ofNat 8 (c.toNat / 2 ^ 8)
def tcEffective (c : Line) : Bool := bitAt c 22
def tcGlobal (c : Line) : Bool := bitAt c 23
def tcKeyLen (c : Line) : Nat := c.toNat / 2 ^ 24 % 256
def tcAct (c : Line) : Nat := c.toNat / 2 ^ 32 % 16
def tcActData (c : Line) : Word := BitVec.ofNat 64 (c.toNat / 2 ^ 64)
def tcKey (c : Line) : BitVec 384 := BitVec.ofNat 384 (c.toNat / 2 ^ 128 % 2 ^ (8 * tcKeyLen c))

/-- Whether a command is answered BAD_COMMAND (R41). -/
def tcBad (c : Line) : Bool := 4 ≤ tcAct c || tcKeyLen c == 0 || 48 < tcKeyLen c || (tcEffective c && tcGlobal c)

/-- A response (Table 12). -/
def tableAnswer (status : Nat) (e : Option TableEntry) (withAct : Bool) : BitVec 128 :=
  match e with
  | some x =>
    BitVec.ofNat 128 (status + x.entry.toNat * 2 ^ 32 +
      (if withAct then x.act.toNat * 2 ^ 56 + x.data.toNat * 2 ^ 64 else 0))
  | none => BitVec.ofNat 128 status

/-- The entry of a table with the command's key. -/
def findEntry (l : List TableEntry) (port : Option Byte) (c : Line) : Option TableEntry :=
  l.find? fun e => e.port == port && e.key == tcKey c && e.klen.toNat == tcKeyLen c

/-- The table that a command names. -/
def tcTable (c : Line) : Option Byte := if tcGlobal c then none else some (tcPort c)

/-- The classifier performs the command of a slot that has been sent and not answered. -/
def State.classify (s : State) (n : Fin 16) (op : Nat) (f : Line → List TableEntry → List TableEntry × BitVec 128) : State :=
  let x := s.slot n
  if s.meshRuns && x.sent && tcOp x.command == op && !(s.tp.answers.any fun a => a.1 == n) then
    let (l, r) := if tcBad x.command then (s.tp.tables, 0x04#128) else f x.command s.tp.tables
    { s with tp := { s.tp with tables := l, answers := s.tp.answers ++ [(n, r)] } }
  else s

/-- INSERT (R41). -/
def execInsert (slot : Fin 16) (entry : BitVec 24) (room : Bool) (s : State) : Host.Outcome State Fault Refusal :=
  .next (s.classify slot 1 fun c l =>
    if (findEntry l (tcTable c) c).isSome then (l, tableAnswer 1 none false)
    else if !room then (l, tableAnswer 3 none false)
    else
      let e : TableEntry :=
        { port := tcTable c, key := tcKey c, klen := BitVec.ofNat 8 (tcKeyLen c), act := BitVec.ofNat 4 (tcAct c),
          data := tcActData c, entry := entry }
      (l ++ [e], tableAnswer 0 (some e) false))

/-- DELETE (R39). -/
def execDelete (slot : Fin 16) (s : State) : Host.Outcome State Fault Refusal :=
  .next (s.classify slot 2 fun c l =>
    match findEntry l (tcTable c) c with
    | some e => (l.filter (· != e), tableAnswer 0 (some e) false)
    | none => (l, tableAnswer 2 none false))

/-- LOOKUP (R39, R40): with EFFECTIVE, the entry that decides for PORT. -/
def execLookup (slot : Fin 16) (s : State) : Host.Outcome State Fault Refusal :=
  .next (s.classify slot 3 fun c l =>
    let own := findEntry l (tcTable c) c
    let hit := if tcEffective c && own.isNone then findEntry l none c else own
    match hit with
    | some e => (l, tableAnswer 0 (some e) true)
    | none => (l, tableAnswer 2 none false))

/-- TABLE_RESPONSE (R40, Table 12): the slot takes the response, with a reserved STATUS recorded as 0x04; a tag without a
command outstanding is discarded and recorded as source 0x25. -/
def execTableResponse (tag : Fin 16) (data : BitVec 128) (s : State) : Host.Outcome State Fault Refusal :=
  if !s.meshRuns then .next s
  else if (s.slot tag).sent then
    let status := data.toNat % 256
    let r : BitVec 128 := if 5 ≤ status then BitVec.ofNat 128 (data.toNat / 256 * 256 + 4) else data
    let s := { s with tp := { s.tp with answers := s.tp.answers.filter fun a => a.1 != tag } }
    .next (s.slotRespond tag r)
  else .next (s.detect { plainFault 0x25 0 with master := pilotMaster })

end Sys2Proof.Machine
end

