-- ==== Sys2Proof/Machine/Units.lean ====
section
/-! DEFINITION. The structure image and the enable units: commits (R54-R56), requests and their acceptance (R58, R59, R62),
and releases (R60). -/

namespace Sys2Proof.Machine

/-- Update the SI unit. -/
def State.mapSi (s : State) (f : Si → Si) : State := { s with si := f s.si }

-- Commits (R50-R56) ---------------------------------------------------------------------------------------------------------

/-- Bits of the staging area: `w` bits from bit `lo` of the byte at an image offset. -/
def Si.staged (i : Si) (off lo w : Nat) : Nat := (i.staging >>> (8 * off + lo)) % 2 ^ w

/-- The body limit of a section, in bytes (Table 3). -/
def bodyLimit (id : Nat) : Nat :=
  if id = secManifest ∨ id = secThrottle then 0x400
  else if [secMap, secLink, secSafety].contains id then 0x4000
  else if id = secRoute then 0x80000
  else if id = secRegion ∨ id = secQueue then 0x20000
  else if id = secDispatch then 0x100000
  else if id = secPrograms ∨ id = secHawser then 0x40000
  else if id = secPilot then 0x10000
  else 0x1000

/-- Whether a section id is reserved. -/
def sectReserved (id : Nat) : Bool := id == 0 || 0x13 ≤ id

/-- The directory of the staged MANIFEST: ids and offsets (R52). -/
def Si.directory (i : Si) : List (Nat × Nat) :=
  (List.range (i.staged 30 0 8)).map fun k => (i.staged (48 + 16 * k) 0 8, i.staged (52 + 16 * k) 0 32)

/-- Whether a section header has a reserved field set (Table 1). -/
def Si.headerBad (i : Si) (off : Nat) : Bool :=
  i.staged (off + 1) 1 7 != 0 || i.staged (off + 2) 0 16 != 0 || i.staged (off + 15) 0 8 != 0 ||
    (i.staged (off + 1) 0 1 == 0 && i.staged (off + 12) 0 24 != 0)

/-- Whether a reserved field of the MANIFEST is set, the bytes past its directory among them, or SECTION_COUNT passes 17. -/
def Si.manifestBad (i : Si) : Bool :=
  let count := i.staged 30 0 8
  let len := Nat.min (i.staged 4 0 32) 0x800000
  let used := 32 + 16 * count
  17 < count || i.headerBad 0 || i.staged 29 7 1 != 0 || i.staged 31 0 8 != 0 ||
    ((List.range count).any fun k => 48 + 16 * k ≤ len &&
      (i.staged (49 + 16 * k) 0 24 != 0 || i.staged (56 + 16 * k) 0 64 != 0)) ||
    (used < len && i.staged (16 + used) 0 (8 * (len - used)) != 0)

/-- The offset of the header of a section, where the directory locates one. -/
def Si.located (i : Si) (id : Nat) : Option Nat :=
  if id = secManifest then some 0 else (i.directory.find? (·.1 == id)).map (·.2)

/-- The checks of R54 in order, without the CRC. -/
def Si.commitOrder (i : Si) (id : Nat) : Nat :=
  let mlen := i.staged 4 0 32
  let ilen := i.staged 24 0 32
  let dir := i.directory
  let off := (i.located id).getD 0
  let blen := i.staged (off + 4) 0 32
  let first := i.staged (off + 12) 0 24
  let others := (if id = secManifest then [] else [(0, 16 + mlen)]) ++
    ((dir.filter (·.1 != id)).map fun d => (d.2, 16 + i.staged (d.2 + 4) 0 32))
  firstCode [
    (sectReserved id, 0x0106),
    (i.staged 16 0 32 != 0x4158444F, 0x0101),
    (i.staged 20 0 16 != 1, 0x0102),
    (i.staged 22 0 8 != 0x02 || i.staged 23 0 8 != 0xB0, 0x0103),
    (0x800000 < ilen, 0x0109),
    (i.manifestBad, 0x0110),
    (mlen < 32 + 16 * dir.length || dir.any (fun d => d.2 % 8 != 0 || ilen < d.2 + 16), 0x0108),
    (dir.any fun d => sectReserved d.1, 0x0106),
    (dir.any (·.1 == secManifest) || !decide (dir.map (·.1)).Nodup, 0x0114),
    ((i.located id).isNone || i.staged off 0 8 != id, 0x0107),
    (i.headerBad off, 0x0110),
    (blen % 8 != 0 || bodyLimit id < blen, 0x0105),
    (ilen < off + 16 + blen || others.any (fun o => o.1 < off + 16 + blen && off < o.1 + o.2), 0x0108),
    (i.staged (off + 1) 0 1 == 1 && (match partialUnit id with
      | some u => blen % u.1 != 0 || u.2 < first + blen / u.1
      | none => true), 0x0111)]

/-- The named section as it is staged. -/
def Si.stagedSect (i : Si) (id : Nat) : Sect :=
  let off := (i.located id).getD 0
  let blen := i.staged (off + 4) 0 32
  { body := { len := blen, bits := i.staged (off + 16) 0 (8 * blen) },
    isPartial := i.staged (off + 1) 0 1 == 1, first := i.staged (off + 12) 0 24 }

/-- A commit as its checks decide it: the reason it ends with, 0 for none, and what it would store (R54, R55). -/
def Si.commitJob (i : Si) (id : Nat) : CommitJob :=
  let a := i.commitOrder id
  let none_ : Sect := { body := Blob.empty, isPartial := false, first := 0 }
  if a != 0 then { sect := id, reason := a, body := none_, nodeId := 0, serial := 0 }
  else
    let b := i.stagedSect id
    if b.body.crc32c != i.staged ((i.located id).getD 0 + 8) 0 32 then
      { sect := id, reason := 0x0104, body := none_, nodeId := 0, serial := 0 }
    else
      { sect := id, reason := 0, body := b, nodeId := BitVec.ofNat 15 (i.staged 28 0 15),
        serial := BitVec.ofNat 64 (i.staged 32 0 64) }

/-- A commit starts (R54). -/
def State.startCommit (s : State) (id : Nat) : State :=
  s.mapSi fun i => { i with commit := some (i.commitJob id), csSection := BitVec.ofNat 8 id, csState := 1 }

/-- COMMIT_DONE (R54-R56): the section is pending, or MANIFEST is active at once; a refused commit records its reason and
raises cause 0x8. MANIFEST needs every bit of SI_ENABLE clear. -/
def execCommitDone (s : State) : Host.Outcome State Fault Refusal :=
  match s.si.commit with
  | some j =>
    if !s.live then .next s
    else
      let reason := if j.reason = 0 ∧ j.sect = secManifest ∧ s.si.enable ≠ 0 then 0x010A else j.reason
      if reason = 0 then
        .next (s.mapSi fun i =>
          let i := { i with commit := none, csState := 2 }
          if j.sect = secManifest then
            { i with active := aput secManifest j.body.body i.active, nodeId := j.nodeId, serial := j.serial }
          else { i with pend := aput j.sect j.body i.pend })
      else
        .next ((s.mapSi fun i => { i with commit := none, csState := 3, csReason := BitVec.ofNat 16 reason }).raiseCause 8)
  | none => .next s

/-- PENDING of SI_COMMIT_STATUS: bit `i` for a pending section `i`. -/
def Si.pendingBits (i : Si) : Nat := i.pend.foldl (fun v p => v ||| (1 <<< p.1)) 0

-- Units -----------------------------------------------------------------------------------------------------------------------

/-- Every unit. -/
def allUnits : List EnUnit :=
  [.clock, .memory, .l2, .quay, .link, .hawser, .dock, .epilogue, .pilot, .safety] ++ allCores.map .core

/-- Whether a unit is a core. -/
def EnUnit.isCore : EnUnit → Bool
  | .core _ => true
  | _ => false

/-- Whether any core but one is enabled; `none` excepts none. -/
def State.anyCore (s : State) (spare : Option CoreId) : Bool := allCores.any fun c => spare != some c && s.enabled (.core c)

/-- Whether the prerequisites of a unit are enabled (R60, Table 7). -/
def State.prereqs (s : State) : EnUnit → Bool
  | .clock => true
  | .memory | .link | .epilogue | .safety => s.enabled .clock
  | .l2 | .quay => s.enabled .memory
  | .hawser | .dock => s.enabled .link && s.enabled .quay
  | .pilot => s.enabled .dock && s.anyCore none
  | .core _ => s.enabled .l2 && s.enabled .epilogue

/-- Whether an enabled unit depends on a unit (R60). -/
def State.hasDependent (s : State) : EnUnit → Bool
  | .clock => s.enabled .memory || s.enabled .link || s.enabled .epilogue || s.enabled .safety
  | .memory => s.enabled .l2 || s.enabled .quay
  | .l2 | .epilogue => s.anyCore none
  | .quay | .link => s.enabled .hawser || s.enabled .dock
  | .dock => s.enabled .pilot
  | .core n => s.enabled .pilot && !s.anyCore (some n)
  | .hawser | .pilot | .safety => false

/-- Whether a core holds operations in flight. -/
def Core.inFlight (k : Core) : Bool :=
  !k.sb.isEmpty || !k.sent.isEmpty || !k.cust.isEmpty || !k.tile.queue.isEmpty || k.tile.drain.isSome ||
    !k.tile.rows.isEmpty || k.tile.save.isSome || !k.fills.isEmpty

/-- Whether a unit holds operations in flight (R60, R215, R270). -/
def State.inFlight (s : State) : EnUnit → Bool
  | .clock | .safety | .pilot => false
  | .memory => s.ports.toList.any (fun l => !l.isEmpty) || s.qy.eng.toList.any (·.scrubOut.isSome)
  | .l2 => s.l2.lines.any (·.dirty) || s.l2.maintBusy || s.ports.toList.any fun l => l.any (·.client == .slice)
  | .quay => !s.qy.launches.isEmpty || !s.qy.waiting.isEmpty ||
      s.qy.eng.toList.any fun e => !e.updates.isEmpty || !e.merge.isEmpty || !e.chunks.isEmpty
  | .link => s.lk.toList.any fun k => k.state == .up && (!k.retry.isEmpty || !k.asm.isEmpty || !k.txq.isEmpty || !k.rx.isEmpty)
  | .hawser => !s.hw.frames.isEmpty || s.hw.chains.any fun c => c.2.frame != 0 || !c.2.operands.isEmpty
  | .dock => s.dk.queues.any (fun q => !q.2.started.isEmpty) || s.dk.watches.any (·.2.arm) || !s.dk.ops.isEmpty || !s.dk.acks.isEmpty ||
      !s.dk.arriving.isEmpty || !s.dk.appends.isEmpty || !s.dk.serving.isEmpty || !s.dk.answers.isEmpty ||
      s.cores.toList.any fun k => !k.overflow.isEmpty || k.handoffs.any (·.next != 0)
  | .epilogue => s.cores.toList.any fun k => k.tile.drain.isSome || !k.tile.rows.isEmpty
  | .core n => (s.core n).inFlight

-- Enabling a core or the pilot (R108) ---------------------------------------------------------------------------------------------

/-- COMPAT of a berth under the active PILOT_EVENTS. -/
def State.compatOf (s : State) (c : CoreId) (b : BerthId) : Bool :=
  berthUsed s.pilotPlan c.val b.val && berthCompat s.pilotPlan c.val b.val

/-- What a core keeps through its release: the arrivals that the pilot and the dispatch unit hold for it, the debugger's
settings, the result of its array test, and the customer tags whose response is still to come. -/
def Core.released (k : Core) : Core :=
  { Core.reset with
    pend := k.pend, spilled := k.spilled, spillSeq := k.spillSeq, handoffs := k.handoffs, overflow := k.overflow,
    custLate := k.custLate, hold := k.hold, traceEn := k.traceEn, berthSel := k.berthSel, atestBusy := k.atestBusy, atestFail := k.atestFail }

/-- CORE n is enabled (R108, R213): its caches are invalid, berth 0 is RUNNING at START_PC, and the others are WAITING and have not
started, at their BASE_PRIO (R107). While PILOT stays enabled they start when it is next enabled (log entry 91). -/
def State.startCore (s : State) (c : CoreId) : State :=
  let k := (s.core c).released
  let prio (b : BerthId) : BitVec 4 :=
    if b.val != 0 && s.enabled .pilot && berthUsed s.pilotPlan c.val b.val then BitVec.ofNat 4 (berthPrio s.pilotPlan c.val b.val) else 0
  let k := allBerths.foldl (fun k b => k.setBerth b { Berth.reset with compat := s.compatOf c b, prio := prio b }) k
  let b0 := k.berth 0
  let k := k.setBerth 0 { b0 with waiting := false, started := true, pc := BitVec.ofNat 64 (planStart (s.sect secCore) c.val) }
  s.setCore c { k with running := some 0 }

/-- PILOT is enabled (R108, R117): every used berth 1 to 7 is READY at its START_PC, records count from zero, and the entries that the
pilot holds act on the berths that wait (R110). -/
def State.startPilot (s : State) : State :=
  let p := s.pilotPlan
  let s : State := { s with pl := { s.pl with seqs := [] } }
  let s := s.mapCores fun c k =>
    if s.enabled (.core c) then
      allBerths.foldl (fun k b =>
        if b.val != 0 && berthUsed p c.val b.val then
          let y := k.berth b
          let k := k.setBerth b { y with
            waiting := false, started := true, pc := BitVec.ofNat 64 (berthStart p c.val b.val), priv := 3, ie := false,
            prio := BitVec.ofNat 4 (berthPrio p c.val b.val) }
          { k with running := if k.running = some b then none else k.running }
        else k) k
    else k
  allCores.foldl (fun s c => if s.enabled (.core c) then s.wake c else s) s

/-- Whether the new PILOT_EVENTS names other targets for a held offer of a core that is not enabled (R60). -/
def State.retargets (s : State) (old : Blob) (o : Offer) : Bool :=
  let p := s.pilotPlan
  !s.enabled (.core o.core) && evValid p o.id.toNat && (!evValid old o.id.toNat || evTargets p o.id.toNat != evTargets old o.id.toNat)

/-- A changed PILOT_EVENTS: COMPAT of every berth, and the offers held for a core that is not enabled go to the other targets that
their event now has, under its new entry (R60, log entry 21). Every other offer keeps the entry it was raised under (R62). -/
def State.retarget (s : State) (old : Blob) : State :=
  let s := s.mapCores fun c k => allBerths.foldl (fun k b => k.setBerth b { k.berth b with compat := s.compatOf c b }) k
  let held := s.pl.offers
  let moved := held.filter (s.retargets old)
  let s : State := { s with pl := { s.pl with offers := held.filter fun o => !moved.contains o } }
  moved.foldl (fun s o =>
    match o.src with
    | .ingress =>
      match s.pl.current.bind fun d => s.portTarget o.id.toNat (((d.beats.headD 0).toNat / 256) % 256) with
      | some c =>
        let o := { o with core := c, terms := evTerms s.pilotPlan o.id.toNat }
        { s with pl := { s.pl with offers := addOffer s.pl.offers o } }
      | none => s
    | src => s.offerEvent o.id.toNat src) s

-- Acceptance of a request (R59, R62, R339) -----------------------------------------------------------------------------------------

/-- The ring of a region entry that is replaced is published. The appends that it has open or that wait end under the old entry
(R62): it keeps its view under a number of its own until they are done. Otherwise it is forgotten, and read again at the next
append to its region (R231). -/
def State.retireRing (s : State) (r : Nat) : State :=
  let s := s.publishRing r
  let busy := s.dk.appends.any (·.2 == r) ||
    (match aget r s.qy.rings with | some o => !(s.openAppends o).isEmpty | none => false)
  let others := adel r s.qy.rings
  if !busy then { s with qy := { s.qy with rings := others } }
  else
    let key := 4096 * (1 + s.qy.nextId) + r
    let rings := match aget r s.qy.rings with | some o => aput key o others | none => others
    { s with
      qy := { s.qy with rings := rings, nextId := s.qy.nextId + 1 }
      dk := { s.dk with appends := s.dk.appends.map fun a => if a.2 = r then (a.1, key) else a } }

/-- The rings whose region entry is replaced. -/
def State.dropRings (s : State) : State :=
  let keys := (s.qy.rings.map (·.1) ++ s.dk.appends.map (·.2)).eraseDups
  (keys.filter fun r => r < 4096 && s.replaces secRegion r).foldl State.retireRing s

/-- A queue with a descriptor in progress keeps its entry of a replaced QUEUE_PLAN until it completes (Table 9). -/
def State.keepEntries (s : State) : State :=
  if (s.pendSect secQueue).isNone then s
  else
    let p := s.queuePlan
    let keep (x : Nat × DQueue) : Nat × DQueue :=
      if x.2.old.isNone && !(x.2.fetched.isNone && x.2.started.isEmpty) then
        (x.1, { x.2 with old := some (BitVec.ofNat 128 (p.slice (16 * x.1) 16).bits) })
      else x
    let qs := s.dk.queues.map keep
    { s with dk := { s.dk with queues := qs } }

/-- The pending sections of a unit become active. -/
def State.activate (s : State) (u : EnUnit) : State :=
  let ids := s.pendingOf u
  let plain := ids.filter fun id => id != secCodes && id != secCurves
  let codes := s.composedCodes
  let curves := s.composedCurves
  let bodies := plain.map fun id => (id, (s.composed id).getD Blob.empty)
  let act := bodies.foldl (fun a x => aput x.1 x.2 a) s.si.active
  let left := s.si.pend.filter fun x => !ids.contains x.1
  let bad := s.si.parity.filter fun id => !ids.contains id
  s.mapSi fun i => { i with
    active := act, pend := left, parity := bad,
    codes := if ids.contains secCodes then codes else i.codes,
    curves := if ids.contains secCurves then curves else i.curves }

/-- A refused request discards the unit's pending sections (R59, R64). -/
def State.discardPending (s : State) (u : EnUnit) : State :=
  let ids := s.pendingOf u
  let left := s.si.pend.filter fun x => !ids.contains x.1
  s.mapSi fun i => { i with pend := left }

/-- Cause 0x6 and the marks that clear (R339): `old` is the plan last active before the request, none where none was. -/
def State.spares (s : State) (u : EnUnit) (old : Option Blob) : State :=
  match u with
  | .core _ =>
    let p := s.sect secCore
    let marks := (List.range 16).foldl (fun m n => if planPresent p n then m else setBit m n false) s.bw.markCore
    let s := s.mapBw fun b => { b with markCore := marks }
    match old with
    | some q => if (List.range 16).any (fun n => planSpare q n && planPresent p n) then s.raiseCause 6 else s
    | none => s
  | .link =>
    let p := s.sect secLink
    let marks := (List.range 48).foldl (fun m n => if linkRole p n = 2 then setBit m n false else m) s.bw.markLink
    let s := s.mapBw fun b => { b with markLink := marks }
    match old with
    | some q => if (List.range 48).any (fun n => linkRole q n == 2 && linkRole p n != 2) then s.raiseCause 6 else s
    | none => s
  | _ => s

/-- What a unit does when it is enabled from disabled. -/
def State.startUnit (s : State) (u : EnUnit) : State :=
  match u with
  | .clock =>
    if s.clusterMode && s.ck.source == .refLocal then
      match s.altRef with
      | some n => s.changeSource (.link n)
      | none => s
    else s
  | .l2 => s.l2EnableInvalidate
  | .link =>
    let m := s.sleepBody
    allLinks.foldl (fun s n =>
      if (s.link n).lpUp then s.startBringUp n
      else s.setLink n { s.link n with state := .down, machine := m, slState := smAwake m }) s
  | .hawser =>
    let kept := s.hw.chains.map fun c => (c.1, { HwChain.empty with sat := c.2.sat, err := c.2.err })
    { s with hw := { s.hw with chains := kept.filter fun c => c.2 != HwChain.empty } }
  | .dock =>
    let ofDock (o : Offer) : Bool :=
      match o.src with
      | .dock _ => true
      | _ => false
    let kept := s.pl.offers.filter fun o => !ofDock o
    let dk := { s.dk with queues := [], ctrs := [], watches := [] }
    { s with dk := dk, qy := { s.qy with rings := [] }, pl := { s.pl with offers := kept } }
  | .pilot => s.startPilot
  | .core n => s.startCore n
  | .memory | .quay | .epilogue | .safety => s

/-- The check accepts (R59): the pending sections become active, and the bit is set or stays set. -/
def State.accept (s : State) (u : EnUnit) : State :=
  let was := s.enabled u
  let oldPlan := match u with
    | .core _ => aget secCore s.si.active
    | .link => aget secLink s.si.active
    | _ => none
  let oldPilot := s.pilotPlan
  let s := if u = .dock then s.dropRings.keepEntries else s
  let s := (s.activate u).spares u oldPlan
  let s := if u = .safety then s.applyMarks else s
  let s := s.mapSi fun i => { i with enable := setBit i.enable u.bit true }
  let s := if was then s else s.startUnit u
  if u = .pilot then s.retarget oldPilot else s

-- Release (R60) -------------------------------------------------------------------------------------------------------------------------

/-- The unit's outputs return to their reset states: a released LINK takes every link down but for those that are retired, which stay
so until LINK is requested again (R289); a released core keeps what others hold for it; TP_CMD of a released PILOT is zero (R16). -/
def State.releaseUnit (s : State) (u : EnUnit) : State :=
  let s := s.mapSi fun i => { i with enable := setBit i.enable u.bit false }
  match u with
  | .link =>
    let s : State := { s with pins := { s.pins with lpTx := 0 } }
    s.mapLinks fun _ k =>
      { Link.reset with
        state := if k.state = .retired then LinkState.retired else LinkState.down, lpUp := k.lpUp, replays := k.replays, crcFail := k.crcFail,
        machine := k.machine }
  | .core n =>
    let s := s.setCore n (s.core n).released
    { s with pins := { s.pins with cpReq := setBit s.pins.cpReq n.val false } }
  | .pilot =>
    { s with tp := { s.tp with cmdTag := 0, cmdData := 0 }, pins := { s.pins with tpCmd := false, credit := false } }
  | .memory => { s with pins := { s.pins with mp := Pins.reset.mp } }
  | _ => s

end Sys2Proof.Machine
end

