-- ==== Sys2Proof/Machine/Harbour.lean ====
section
/-! DEFINITION. The harbour closing (R347-R351): notice, stop edge, drain, save and clean, and the return to open. -/

namespace Sys2Proof.Machine

/-- STATE of SI_HARBOUR_STATUS (Table 6 of "Operating at scale"). -/
def Harbour.code : Harbour → Nat
  | .open => 0
  | .notice => 1
  | .drain | .swept => 2
  | .closed => 3

/-- Whether a closing is in notice, drain, save or clean: SI_ENABLE then refuses (R351). -/
def Harbour.closing (h : Harbour) : Bool := h.code == 1 || h.code == 2

/-- GO in the open state (R347): STUCK, ELAPSED and INCOMPLETE clear, and event 0x006 is offered. -/
def State.startNotice (s : State) : State :=
  let t := s.mapSi fun i =>
    { i with harbour := .notice, stuck := 0, elapsed := 0, incomplete := 0, goTime := s.time, cut := Cut.empty }
  t.offerEvent 0x006 .latch

/-- REOPEN in the closed state (R351): the stuck cores continue at their abandoned instructions. -/
def State.reopen (s : State) : State :=
  let s := s.mapSi fun i => { i with harbour := .open }
  let stuck := allCores.filter fun c => (s.core c).stuck
  let s := s.mapCores fun _ k => { k with stuck := false }
  stuck.foldl State.settle s

/-- Whether a core is closed (R347): every used berth and berth 0 WAITING, with no deliverable entry and no pending late bus
error. A halted core is not closed (R45). -/
def State.coreClosed (s : State) (c : CoreId) : Bool :=
  let k := s.core c
  !k.halted && allBerths.all fun b =>
    let y := k.berth b
    !berthUsed s.pilotPlan c.val b.val ||
      (y.waiting && !y.halted && !y.lbePending && !(k.pend.any fun e => e.berth == b && s.deliverable c e))

/-- The enabled cores that are not closed. -/
def State.openCores (s : State) : List CoreId := allCores.filter fun c => s.enabled (.core c) && !s.coreClosed c

/-- A number of 10 us in TIME ticks. -/
def noticeTicks (n : BitVec 10) : Nat := 1000 * n.toNat

/-- The work present at the stop edge (R349). -/
def State.cutNow (s : State) : Cut :=
  let descs := s.dk.queues.map fun (x : Nat × DQueue) => x.2.started.map fun d => (x.1, d.n)
  let isDispatch (o : RemoteOp) : Bool :=
    match o.owner with
    | .dispatch _ _ => true
    | .queue _ _ => false
  let chains := (s.hw.chains.filter fun (x : Nat × HwChain) => x.2.frame != 0).map fun x => (x.1, x.2.runs)
  { descs := descs.foldl (fun a l => a ++ l) [], dispatch := (s.dk.ops.filter isDispatch).map (·.id),
    launches := s.qy.launches.map (·.id), served := s.dk.serving.map (·.id), chains := chains }

/-- NOTICE_END (R347): every enabled core is closed, or the notice limit has passed. The cores that are not closed stop at an
instruction boundary, with STUCK. -/
def execNoticeEnd (s : State) : Host.Outcome State Fault Refusal :=
  let l := s.openCores
  if s.live && s.si.harbour == .notice && (l.isEmpty || noticeTicks s.si.notice ≤ s.time.toNat - s.si.goTime.toNat) then
    let s := l.foldl (fun s c => s.setCore c { s.core c with stuck := true }) s
    let cut := s.cutNow
    .next (s.mapSi fun i =>
      { i with
        harbour := .drain, cut := cut, stopTime := s.time,
        stuck := l.foldl (fun v c => setBit v c.val true) 0, incomplete := setBit i.incomplete 0 (!l.isEmpty) })
  else .next s

/-- DOCK_OPEN: a descriptor of the cut, or a dispatch write with its overflow record, is unfinished. -/
def State.dockOpen (s : State) : Bool :=
  let isDispatch (o : RemoteOp) : Bool :=
    match o.owner with
    | .dispatch _ _ => true
    | .queue _ _ => false
  (s.si.cut.descs.any fun (d : Nat × BitVec 32) => (s.dq d.1).started.any (·.n == d.2)) || s.dk.ops.any isDispatch ||
    s.cores.toList.any fun k => !k.handoffs.isEmpty || !k.overflow.isEmpty

/-- QUAY_OPEN: a launch of the cut, or an operation of the cut with updates or appends, is unfinished. -/
def State.quayOpen (s : State) : Bool :=
  (s.qy.launches.any fun l => s.si.cut.launches.contains l.id) ||
    s.dk.serving.any fun v => s.si.cut.served.contains v.id

/-- HAWSER_OPEN: a run that was in progress at an own position at the stop edge is unfinished. -/
def State.hawserOpen (s : State) : Bool := s.si.cut.chains.any fun (x : Nat × BitVec 32) => (s.chain x.1).runs == x.2

/-- Whether a tile queue holds an instruction, or a drain is in progress. -/
def State.tilesOpen (s : State) : Bool := s.cores.toList.any fun k => !k.tile.queue.isEmpty || k.tile.drain.isSome

/-- The save of one core's owner after the drain (R350): POCKET_ERR where it fails, at once or at an acknowledgement of a memory port.
After an F-class fault, which closes, no save follows. -/
def State.harbourSave (s : State) (c : CoreId) : State :=
  match s.si.harbour, (s.tile c).owner with
  | .swept, some b =>
    let t := s.saveOwner c
    if (t.berth c b).townSaved || (t.core c).saving then t else t.mapSi fun i => { i with incomplete := setBit i.incomplete 6 true }
  | _, _ => s

/-- Ticks of the drain limit: 2^24 fabric cycles (R349). -/
def drainTicks : Nat := 1048576

/-- DRAIN_END (R349, R350): everything waited for is done, or the drain limit has passed. The owner of every tile unit is
saved, once no slice holds a line of its pocket (R208). -/
def execDrainEnd (s : State) : Host.Outcome State Fault Refusal :=
  let dock := s.dockOpen
  let quay := s.quayOpen
  let hawser := s.hawserOpen
  let done := !(dock || quay || hawser || s.tilesOpen)
  let held := allCores.any fun c => s.pocketHeld c (s.tile c).owner
  if s.live && s.si.harbour == .drain && !held && (done || drainTicks ≤ s.time.toNat - s.si.stopTime.toNat) then
    let s := s.mapSi fun i =>
      let v := setBit (setBit (setBit i.incomplete 1 dock) 2 quay) 3 hawser
      { i with harbour := .swept, incomplete := setBit v 5 i.untested, untested := false }
    .next (allCores.foldl State.harbourSave s)
  else .next s

/-- HARBOUR_CLOSED (R350): every save is acknowledged, the clean of every slice ends, STATE becomes closed, and cause 0x9 is raised. -/
def execHarbourClosed (s : State) : Host.Outcome State Fault Refusal :=
  if s.live && s.si.harbour == .swept && !(s.cores.toList.any Core.saving) then
    let s := s.cleanAll
    let ticks := Nat.min (2 ^ 32 - 1) (s.time.toNat - s.si.goTime.toNat)
    .next ((s.mapSi fun i => { i with harbour := .closed, elapsed := BitVec.ofNat 32 ticks }).raiseCause 0x9)
  else .next s

end Sys2Proof.Machine
end

