-- ==== Sys2Proof/Machine/Integer.lean ====
section
/-! DEFINITION. The integer, predicate, bit and CRC instructions (R72-R74, R88, R89; Table 3 of "Gregon instruction
set"), and the raising of illegal opcode. -/

namespace Sys2Proof.Machine

/-- rd := f(ra, rb). -/
def State.aluRR (s : State) (i : Instr) (x : Issue) (rd ra rb : Reg) (f : Word → Word → Word) : State :=
  s.regInstruction i x true fun y => y.setReg rd (f (y.reg ra) (y.reg rb))

/-- rd := f(ra). -/
def State.aluR (s : State) (i : Instr) (x : Issue) (rd ra : Reg) (f : Word → Word) : State :=
  s.regInstruction i x true fun y => y.setReg rd (f (y.reg ra))

/-- A predicate write; naming p0 is illegal (R71). -/
def State.predWrite (s : State) (i : Instr) (x : Issue) (pd : PReg) (f : Berth → Bool) : State :=
  s.regInstruction i x (s.legal i) fun y => y.setPred pd (f y)

/-- UNASSIGNED_MAJOR (R72): a word that is no instruction, or a reserved or illegal encoding of one, raises illegal opcode
whatever its predicate. A legal instruction is not this command, and changes nothing. -/
def execUnassignedMajor (core : CoreId) (word : BitVec 32) (s : State) : Host.Outcome State Fault Refusal :=
  if s.wordIllegal core word then
    .next (s.instruction (.unassignedMajor core word) { core := core, sense := false, pred := 0 } false 0 fun s _ _ => some s)
  else .next s

/-- ADD: rd := ra + rb. -/
def execAdd (x : Issue) (rd ra rb : Reg) (s : State) : Host.Outcome State Fault Refusal :=
  .next (s.aluRR (.add x rd ra rb) x rd ra rb fun a b => a + b)

/-- SUB: rd := ra - rb. -/
def execSub (x : Issue) (rd ra rb : Reg) (s : State) : Host.Outcome State Fault Refusal :=
  .next (s.aluRR (.sub x rd ra rb) x rd ra rb fun a b => a - b)

/-- AND: rd := ra & rb. -/
def execAnd (x : Issue) (rd ra rb : Reg) (s : State) : Host.Outcome State Fault Refusal :=
  .next (s.aluRR (.and x rd ra rb) x rd ra rb fun a b => a &&& b)

/-- OR: rd := ra | rb. -/
def execOr (x : Issue) (rd ra rb : Reg) (s : State) : Host.Outcome State Fault Refusal :=
  .next (s.aluRR (.or x rd ra rb) x rd ra rb fun a b => a ||| b)

/-- XOR: rd := ra ^ rb. -/
def execXor (x : Issue) (rd ra rb : Reg) (s : State) : Host.Outcome State Fault Refusal :=
  .next (s.aluRR (.xor x rd ra rb) x rd ra rb fun a b => a ^^^ b)

/-- ANDN: rd := ra & ~rb. -/
def execAndn (x : Issue) (rd ra rb : Reg) (s : State) : Host.Outcome State Fault Refusal :=
  .next (s.aluRR (.andn x rd ra rb) x rd ra rb fun a b => a &&& ~~~b)

/-- SLL: logical left. -/
def execSll (x : Issue) (rd ra rb : Reg) (s : State) : Host.Outcome State Fault Refusal :=
  .next (s.aluRR (.sll x rd ra rb) x rd ra rb fun a b => a <<< shiftCount b)

/-- SRL: logical right. -/
def execSrl (x : Issue) (rd ra rb : Reg) (s : State) : Host.Outcome State Fault Refusal :=
  .next (s.aluRR (.srl x rd ra rb) x rd ra rb fun a b => a >>> shiftCount b)

/-- SRA: arithmetic right. -/
def execSra (x : Issue) (rd ra rb : Reg) (s : State) : Host.Outcome State Fault Refusal :=
  .next (s.aluRR (.sra x rd ra rb) x rd ra rb fun a b => a.sshiftRight (shiftCount b))

/-- ROR: rotate right. -/
def execRor (x : Issue) (rd ra rb : Reg) (s : State) : Host.Outcome State Fault Refusal :=
  .next (s.aluRR (.ror x rd ra rb) x rd ra rb fun a b => a.rotateRight (shiftCount b))

/-- MIN: signed minimum. -/
def execMin (x : Issue) (rd ra rb : Reg) (s : State) : Host.Outcome State Fault Refusal :=
  .next (s.aluRR (.min x rd ra rb) x rd ra rb fun a b => sminWord a b)

/-- MAX: signed maximum. -/
def execMax (x : Issue) (rd ra rb : Reg) (s : State) : Host.Outcome State Fault Refusal :=
  .next (s.aluRR (.max x rd ra rb) x rd ra rb fun a b => smaxWord a b)

/-- MINU: unsigned minimum. -/
def execMinu (x : Issue) (rd ra rb : Reg) (s : State) : Host.Outcome State Fault Refusal :=
  .next (s.aluRR (.minu x rd ra rb) x rd ra rb fun a b => uminWord a b)

/-- MAXU: unsigned maximum. -/
def execMaxu (x : Issue) (rd ra rb : Reg) (s : State) : Host.Outcome State Fault Refusal :=
  .next (s.aluRR (.maxu x rd ra rb) x rd ra rb fun a b => umaxWord a b)

/-- ADDW: 32-bit sum. -/
def execAddw (x : Issue) (rd ra rb : Reg) (s : State) : Host.Outcome State Fault Refusal :=
  .next (s.aluRR (.addw x rd ra rb) x rd ra rb fun a b => wResult (low32 a + low32 b))

/-- SUBW: 32-bit difference. -/
def execSubw (x : Issue) (rd ra rb : Reg) (s : State) : Host.Outcome State Fault Refusal :=
  .next (s.aluRR (.subw x rd ra rb) x rd ra rb fun a b => wResult (low32 a - low32 b))

/-- SLLW: 32-bit logical left. -/
def execSllw (x : Issue) (rd ra rb : Reg) (s : State) : Host.Outcome State Fault Refusal :=
  .next (s.aluRR (.sllw x rd ra rb) x rd ra rb fun a b => wResult (low32 a <<< shiftCountW b))

/-- SRLW: 32-bit logical right. -/
def execSrlw (x : Issue) (rd ra rb : Reg) (s : State) : Host.Outcome State Fault Refusal :=
  .next (s.aluRR (.srlw x rd ra rb) x rd ra rb fun a b => wResult (low32 a >>> shiftCountW b))

/-- SRAW: 32-bit arithmetic right. -/
def execSraw (x : Issue) (rd ra rb : Reg) (s : State) : Host.Outcome State Fault Refusal :=
  .next (s.aluRR (.sraw x rd ra rb) x rd ra rb fun a b => wResult ((low32 a).sshiftRight (shiftCountW b)))

/-- MUL: low half of the product. -/
def execMul (x : Issue) (rd ra rb : Reg) (s : State) : Host.Outcome State Fault Refusal :=
  .next (s.aluRR (.mul x rd ra rb) x rd ra rb fun a b => a * b)

/-- MULH: high half of the signed product. -/
def execMulh (x : Issue) (rd ra rb : Reg) (s : State) : Host.Outcome State Fault Refusal :=
  .next (s.aluRR (.mulh x rd ra rb) x rd ra rb fun a b => mulHigh a b)

/-- MULHU: high half of the unsigned product. -/
def execMulhu (x : Issue) (rd ra rb : Reg) (s : State) : Host.Outcome State Fault Refusal :=
  .next (s.aluRR (.mulhu x rd ra rb) x rd ra rb fun a b => mulHighU a b)

/-- MULW: 32-bit product. -/
def execMulw (x : Issue) (rd ra rb : Reg) (s : State) : Host.Outcome State Fault Refusal :=
  .next (s.aluRR (.mulw x rd ra rb) x rd ra rb fun a b => wResult (low32 a * low32 b))

/-- DIV: signed quotient. -/
def execDiv (x : Issue) (rd ra rb : Reg) (s : State) : Host.Outcome State Fault Refusal :=
  .next (s.aluRR (.div x rd ra rb) x rd ra rb fun a b => divSigned a b)

/-- DIVU: unsigned quotient. -/
def execDivu (x : Issue) (rd ra rb : Reg) (s : State) : Host.Outcome State Fault Refusal :=
  .next (s.aluRR (.divu x rd ra rb) x rd ra rb fun a b => divUnsigned a b)

/-- REM: signed remainder. -/
def execRem (x : Issue) (rd ra rb : Reg) (s : State) : Host.Outcome State Fault Refusal :=
  .next (s.aluRR (.rem x rd ra rb) x rd ra rb fun a b => remSigned a b)

/-- REMU: unsigned remainder. -/
def execRemu (x : Issue) (rd ra rb : Reg) (s : State) : Host.Outcome State Fault Refusal :=
  .next (s.aluRR (.remu x rd ra rb) x rd ra rb fun a b => remUnsigned a b)

/-- DIVW: 32-bit signed quotient. -/
def execDivw (x : Issue) (rd ra rb : Reg) (s : State) : Host.Outcome State Fault Refusal :=
  .next (s.aluRR (.divw x rd ra rb) x rd ra rb fun a b => wResult (divSigned (low32 a) (low32 b)))

/-- DIVUW: 32-bit unsigned quotient. -/
def execDivuw (x : Issue) (rd ra rb : Reg) (s : State) : Host.Outcome State Fault Refusal :=
  .next (s.aluRR (.divuw x rd ra rb) x rd ra rb fun a b => wResult (divUnsigned (low32 a) (low32 b)))

/-- REMW: 32-bit signed remainder. -/
def execRemw (x : Issue) (rd ra rb : Reg) (s : State) : Host.Outcome State Fault Refusal :=
  .next (s.aluRR (.remw x rd ra rb) x rd ra rb fun a b => wResult (remSigned (low32 a) (low32 b)))

/-- REMUW: 32-bit unsigned remainder. -/
def execRemuw (x : Issue) (rd ra rb : Reg) (s : State) : Host.Outcome State Fault Refusal :=
  .next (s.aluRR (.remuw x rd ra rb) x rd ra rb fun a b => wResult (remUnsigned (low32 a) (low32 b)))

/-- ADDI: rd := ra + sext(imm12). -/
def execAddi (x : Issue) (rd ra : Reg) (imm : BitVec 12) (s : State) : Host.Outcome State Fault Refusal :=
  .next (s.aluR (.addi x rd ra imm) x rd ra fun a => a + imm.signExtend 64)

/-- ANDI: rd := ra & zext(imm12). -/
def execAndi (x : Issue) (rd ra : Reg) (imm : BitVec 12) (s : State) : Host.Outcome State Fault Refusal :=
  .next (s.aluR (.andi x rd ra imm) x rd ra fun a => a &&& imm.setWidth 64)

/-- ORI: rd := ra | zext(imm12). -/
def execOri (x : Issue) (rd ra : Reg) (imm : BitVec 12) (s : State) : Host.Outcome State Fault Refusal :=
  .next (s.aluR (.ori x rd ra imm) x rd ra fun a => a ||| imm.setWidth 64)

/-- XORI: rd := ra ^ zext(imm12). -/
def execXori (x : Issue) (rd ra : Reg) (imm : BitVec 12) (s : State) : Host.Outcome State Fault Refusal :=
  .next (s.aluR (.xori x rd ra imm) x rd ra fun a => a ^^^ imm.setWidth 64)

/-- SLLI: shift ra by sh. -/
def execSlli (x : Issue) (rd ra : Reg) (sh : BitVec 6) (s : State) : Host.Outcome State Fault Refusal :=
  .next (s.aluR (.slli x rd ra sh) x rd ra fun a => a <<< sh.toNat)

/-- SRLI: shift ra by sh. -/
def execSrli (x : Issue) (rd ra : Reg) (sh : BitVec 6) (s : State) : Host.Outcome State Fault Refusal :=
  .next (s.aluR (.srli x rd ra sh) x rd ra fun a => a >>> sh.toNat)

/-- SRAI: shift ra by sh. -/
def execSrai (x : Issue) (rd ra : Reg) (sh : BitVec 6) (s : State) : Host.Outcome State Fault Refusal :=
  .next (s.aluR (.srai x rd ra sh) x rd ra fun a => a.sshiftRight sh.toNat)

/-- RORI: shift ra by sh. -/
def execRori (x : Issue) (rd ra : Reg) (sh : BitVec 6) (s : State) : Host.Outcome State Fault Refusal :=
  .next (s.aluR (.rori x rd ra sh) x rd ra fun a => a.rotateRight sh.toNat)

/-- MOVI: rd := sext(imm17). -/
def execMovi (x : Issue) (rd : Reg) (imm : BitVec 17) (s : State) : Host.Outcome State Fault Refusal :=
  .next (s.regInstruction (.movi x rd imm) x true fun y => y.setReg rd (imm.signExtend 64))

/-- ORSH: rd := (rd << 16) | imm16. -/
def execOrsh (x : Issue) (rd : Reg) (imm : BitVec 16) (s : State) : Host.Outcome State Fault Refusal :=
  .next (s.aluR (.orsh x rd imm) x rd rd fun a => (a <<< 16) ||| imm.setWidth 64)

/-- CMP: pd := ra compared with rb. -/
def execCmp (x : Issue) (pd : PReg) (ra rb : Reg) (cond : Cond) (s : State) : Host.Outcome State Fault Refusal :=
  .next (s.predWrite (.cmp x pd ra rb cond) x pd fun y => condHolds cond (y.reg ra) (y.reg rb))

/-- CMPI: pd := ra compared with sext(imm10). -/
def execCmpi (x : Issue) (pd : PReg) (ra : Reg) (imm : BitVec 10) (cond : Cond) (s : State) :
    Host.Outcome State Fault Refusal :=
  .next (s.predWrite (.cmpi x pd ra imm cond) x pd fun y => condHolds cond (y.reg ra) (imm.signExtend 64))

/-- PAND: pd := pa op pb. -/
def execPand (x : Issue) (pd pa pb : PReg) (s : State) : Host.Outcome State Fault Refusal :=
  .next (s.predWrite (.pand x pd pa pb) x pd fun y => y.pred pa && y.pred pb)

/-- POR: pd := pa op pb. -/
def execPor (x : Issue) (pd pa pb : PReg) (s : State) : Host.Outcome State Fault Refusal :=
  .next (s.predWrite (.por x pd pa pb) x pd fun y => y.pred pa || y.pred pb)

/-- PXOR: pd := pa op pb. -/
def execPxor (x : Issue) (pd pa pb : PReg) (s : State) : Host.Outcome State Fault Refusal :=
  .next (s.predWrite (.pxor x pd pa pb) x pd fun y => y.pred pa != y.pred pb)

/-- PANDN: pd := pa op pb. -/
def execPandn (x : Issue) (pd pa pb : PReg) (s : State) : Host.Outcome State Fault Refusal :=
  .next (s.predWrite (.pandn x pd pa pb) x pd fun y => y.pred pa && !y.pred pb)

/-- PNOT: pd := ~pa. -/
def execPnot (x : Issue) (pd pa : PReg) (s : State) : Host.Outcome State Fault Refusal :=
  .next (s.predWrite (.pnot x pd pa) x pd fun y => !y.pred pa)

/-- CLZ: leading zeros of ra, 64 for zero. -/
def execClz (x : Issue) (rd ra : Reg) (s : State) : Host.Outcome State Fault Refusal :=
  .next (s.aluR (.clz x rd ra) x rd ra fun a => BitVec.ofNat 64 (clzNat a.toNat 64))

/-- CTZ: trailing zeros of ra, 64 for zero. -/
def execCtz (x : Issue) (rd ra : Reg) (s : State) : Host.Outcome State Fault Refusal :=
  .next (s.aluR (.ctz x rd ra) x rd ra fun a => BitVec.ofNat 64 (ctzNat a.toNat 64))

/-- POPC: one bits of ra. -/
def execPopc (x : Issue) (rd ra : Reg) (s : State) : Host.Outcome State Fault Refusal :=
  .next (s.aluR (.popc x rd ra) x rd ra fun a => BitVec.ofNat 64 (popNat a.toNat 64))

/-- BSWAP: bytes of ra reversed. -/
def execBswap (x : Issue) (rd ra : Reg) (s : State) : Host.Outcome State Fault Refusal :=
  .next (s.aluR (.bswap x rd ra) x rd ra fun a => BitVec.ofNat 64 (revBytes a.toNat 8))

/-- SEXTB: sign extension from bit 7. -/
def execSextb (x : Issue) (rd ra : Reg) (s : State) : Host.Outcome State Fault Refusal :=
  .next (s.aluR (.sextb x rd ra) x rd ra fun a => (a.setWidth 8).signExtend 64)

/-- SEXTH: sign extension from bit 15. -/
def execSexth (x : Issue) (rd ra : Reg) (s : State) : Host.Outcome State Fault Refusal :=
  .next (s.aluR (.sexth x rd ra) x rd ra fun a => (a.setWidth 16).signExtend 64)

/-- SEXTW: sign extension from bit 31. -/
def execSextw (x : Issue) (rd ra : Reg) (s : State) : Host.Outcome State Fault Refusal :=
  .next (s.aluR (.sextw x rd ra) x rd ra fun a => (a.setWidth 32).signExtend 64)

/-- ZEXTW: zero extension from bit 31. -/
def execZextw (x : Issue) (rd ra : Reg) (s : State) : Host.Outcome State Fault Refusal :=
  .next (s.aluR (.zextw x rd ra) x rd ra fun a => (a.setWidth 32).setWidth 64)

/-- PAR: XOR of all bits of ra. -/
def execPar (x : Issue) (rd ra : Reg) (s : State) : Host.Outcome State Fault Refusal :=
  .next (s.aluR (.par x rd ra) x rd ra fun a => BitVec.ofNat 64 (popNat a.toNat 64 % 2))

/-- PARB: bit i is the XOR of byte i of ra. -/
def execParb (x : Issue) (rd ra : Reg) (s : State) : Host.Outcome State Fault Refusal :=
  .next (s.aluR (.parb x rd ra) x rd ra fun a => BitVec.ofNat 64 (byteParities a.toNat 8))

/-- BREV: bits of ra reversed. -/
def execBrev (x : Issue) (rd ra : Reg) (s : State) : Host.Outcome State Fault Refusal :=
  .next (s.aluR (.brev x rd ra) x rd ra fun a => BitVec.ofNat 64 (revBits a.toNat 64))

/-- BREVB: bits within each byte of ra reversed. -/
def execBrevb (x : Issue) (rd ra : Reg) (s : State) : Host.Outcome State Fault Refusal :=
  .next (s.aluR (.brevb x rd ra) x rd ra fun a => BitVec.ofNat 64 (revInBytes a.toNat 8))

/-- BREVW: the low 32 bits of ra reversed. -/
def execBrevw (x : Issue) (rd ra : Reg) (s : State) : Host.Outcome State Fault Refusal :=
  .next (s.aluR (.brevw x rd ra) x rd ra fun a => BitVec.ofNat 64 (revBits (a.toNat % 2 ^ 32) 32))

/-- SEL: rd := ps ? ra : rb. -/
def execSel (x : Issue) (rd ra rb : Reg) (ps : PReg) (s : State) : Host.Outcome State Fault Refusal :=
  .next (s.regInstruction (.sel x rd ra rb ps) x true fun y => y.setReg rd (if y.pred ps then y.reg ra else y.reg rb))

/-- CRCS (R88): the step of a reflected CRC over the low bytes of rb. -/
def execCrcs (x : Issue) (rd ra rb : Reg) (size : Size) (poly : Poly) (s : State) : Host.Outcome State Fault Refusal :=
  .next (s.aluRR (.crcs x rd ra rb size poly) x rd ra rb fun a b =>
    BitVec.ofNat 64 (crcBits (crcPoly poly) (8 * sizeBytes size) (a.toNat % 2 ^ 32) b.toNat))

end Sys2Proof.Machine
end

