-- ==== Sys2Proof/Machine/Strings.lean ====
section
/-! DEFINITION. The string instructions and REP (R83-R87). -/

namespace Sys2Proof.Machine

-- Strings -----------------------------------------------------------------------------------------------------------

/-- How one element of a string instruction ends: the instruction goes on, has ended, or an exception was raised. -/
inductive Progress where
  | again | ended | raised
deriving DecidableEq, Repr

/-- Whether the pilot would interrupt berth `b`, which runs: it selects another berth, or an entry of `b` is deliverable (R113). -/
def State.interrupts (s : State) (c : CoreId) (b : BerthId) : Bool :=
  s.pilotRuns && match s.choice c with
    | some a => a != b || (s.bestEntry c b).isSome
    | none => false

/-- How many elements or iterations a string instruction or REP runs at a stretch: the limit of a debugger's STEP, one where the
pilot interrupts at the next boundary (R85, R87), and otherwise all `n` (log entry 18). -/
def State.stretch (s : State) (c : CoreId) (b : BerthId) (limit : Option Nat) (n : Nat) : Nat :=
  match limit with
  | some m => m
  | none => if s.interrupts c b then 1 else Nat.max 1 n

/-- A string instruction or REP stands at a boundary within it: it is the oldest instruction of the core and goes on from there,
unless an entry, a switch or a halt abandons it (R85, R87). -/
def State.pause (s : State) (c : CoreId) (b : BerthId) (i : Instr) : State :=
  (s.mapBerth c b fun y => { y with midway := true }).stall c i

/-- At most `n` elements of a string instruction (R84, R85); it pauses at the boundary after them, where the core stops, or where
the line of a buffered store is held at its slice (R208). -/
def stringRun (c : CoreId) (b : BerthId) (i : Instr) (elem : State → State × Progress) : Nat → State → State
  | 0, s => s.pause c b i
  | n + 1, s =>
    if s.sbHeld c then s.pause c b i
    else match elem s with
    | (t, .again) => if t.runner c = some b then stringRun c b i elem n t else t.pause c b i
    | (t, _) => t

/-- The count of a string instruction or REP against the MODE shadow (R82): one for the whole of it. -/
def Berth.countOnce (x : Berth) : Berth := if x.midway then { x with midway := false } else x.countMode

/-- Load one element; a failed access raises its exception. -/
def State.elemLoad (s : State) (c : CoreId) (b : BerthId) (a : Word) (size : Size) : State × Option Word :=
  if !canonical a then (s.raise c b 4 (infoAddr a), none)
  else match s.coreLoad c a.toNat size with
    | (t, .ok v) => (t, some (extendLoaded v size false))
    | (t, .busError) => (t.raise c b 4 (infoAddr a), none)
    | (t, .poisoned) => (t.raise c b 7 (infoAddr a), none)

/-- The step of a pointer. -/
def strideOf (size : Size) : Word := BitVec.ofNat 64 (sizeBytes size)

/-- After an element: the new registers, and whether the count has run out; `fin` makes the writes of the end. -/
def State.elemDone (s : State) (c : CoreId) (b : BerthId) (left : Word) (f fin : Berth → Berth) : State × Progress :=
  if left = 0 then (s.mapBerth c b fun y => (fin (f y)).next, .ended) else (s.mapBerth c b f, .again)

/-- One element of SMOV. -/
def smovElem (c : CoreId) (b : BerthId) (rd ra rb : Reg) (size : Size) (s : State) : State × Progress :=
  let y := s.berth c b
  let (d, a, n) := (y.reg rd, y.reg ra, y.reg rb)
  if n = 0 then (s.mapBerth c b Berth.next, .ended)
  else if !alignedTo a size then (s.raise c b 3 (infoAddr a), .raised)
  else if !alignedTo d size then (s.raise c b 3 (infoAddr d), .raised)
  else match s.elemLoad c b a size with
    | (t, none) => (t, .raised)
    | (t, some v) =>
      if !canonical d then (t.raise c b 4 (infoAddr d), .raised)
      else (t.coreStore c b d.toNat v size).elemDone c b (n - 1)
        (fun z => ((z.setReg rd (d + strideOf size)).setReg ra (a + strideOf size)).setReg rb (n - 1)) id

/-- One element of SSET. -/
def ssetElem (c : CoreId) (b : BerthId) (rd ra rb : Reg) (size : Size) (s : State) : State × Progress :=
  let y := s.berth c b
  let (d, v, n) := (y.reg rd, y.reg ra, y.reg rb)
  if n = 0 then (s.mapBerth c b Berth.next, .ended)
  else if !alignedTo d size then (s.raise c b 3 (infoAddr d), .raised)
  else if !canonical d then (s.raise c b 4 (infoAddr d), .raised)
  else (s.coreStore c b d.toNat v size).elemDone c b (n - 1)
    (fun z => (z.setReg rd (d + strideOf size)).setReg rb (n - 1)) id

/-- One element of SCMP. -/
def scmpElem (c : CoreId) (b : BerthId) (rd ra rb : Reg) (size : Size) (pd : PReg) (s : State) : State × Progress :=
  let y := s.berth c b
  let (p, q, n) := (y.reg rd, y.reg ra, y.reg rb)
  if n = 0 then (s.mapBerth c b fun z => (z.setPred pd true).next, .ended)
  else if !alignedTo p size then (s.raise c b 3 (infoAddr p), .raised)
  else if !alignedTo q size then (s.raise c b 3 (infoAddr q), .raised)
  else match s.elemLoad c b p size with
    | (t, none) => (t, .raised)
    | (t, some u) =>
      match t.elemLoad c b q size with
      | (t, none) => (t, .raised)
      | (t, some v) =>
        if u = v then
          t.elemDone c b (n - 1)
            (fun z => ((z.setReg rd (p + strideOf size)).setReg ra (q + strideOf size)).setReg rb (n - 1))
            fun z => z.setPred pd true
        else (t.mapBerth c b fun z => (z.setPred pd false).next, .ended)

/-- One element of SSCAN; the value's low bytes are compared. -/
def sscanElem (c : CoreId) (b : BerthId) (rd ra rb : Reg) (size : Size) (pd : PReg) (s : State) : State × Progress :=
  let y := s.berth c b
  let (p, v, n) := (y.reg rd, extendLoaded (y.reg ra) size false, y.reg rb)
  if n = 0 then (s.mapBerth c b fun z => (z.setPred pd false).next, .ended)
  else if !alignedTo p size then (s.raise c b 3 (infoAddr p), .raised)
  else match s.elemLoad c b p size with
    | (t, none) => (t, .raised)
    | (t, some u) =>
      if u = v then (t.mapBerth c b fun z => (z.setPred pd true).next, .ended)
      else t.elemDone c b (n - 1) (fun z => (z.setReg rd (p + strideOf size)).setReg rb (n - 1))
        fun z => z.setPred pd false

/-- The frame of a string instruction: at most `limit` elements, all of them where it is none. -/
def State.string (s : State) (i : Instr) (x : Issue) (rb : Reg) (limit : Option Nat)
    (elem : CoreId → BerthId → State → State × Progress) : State :=
  s.instructionBy i x (s.legal i) 0 Berth.countOnce (fun s _ _ => s) fun s c b =>
    some (stringRun c b i (elem c b) (s.stretch c b limit ((s.berth c b).reg rb).toNat) s)

/-- SMOV with an element limit. -/
def State.smov (s : State) (i : Instr) (x : Issue) (rd ra rb : Reg) (size : Size) (limit : Option Nat) : State :=
  s.string i x rb limit fun c b => smovElem c b rd ra rb size

/-- SSET with an element limit; its value may be g0. -/
def State.sset (s : State) (i : Instr) (x : Issue) (rd ra rb : Reg) (size : Size) (limit : Option Nat) : State :=
  s.string i x rb limit fun c b => ssetElem c b rd ra rb size

/-- SCMP with an element limit. -/
def State.scmp (s : State) (i : Instr) (x : Issue) (rd ra rb : Reg) (size : Size) (pd : PReg) (limit : Option Nat) : State :=
  s.string i x rb limit fun c b => scmpElem c b rd ra rb size pd

/-- SSCAN with an element limit; its value may be g0. -/
def State.sscan (s : State) (i : Instr) (x : Issue) (rd ra rb : Reg) (size : Size) (pd : PReg) (limit : Option Nat) : State :=
  s.string i x rb limit fun c b => sscanElem c b rd ra rb size pd

/-- SMOV. -/
def execSmov (x : Issue) (rd ra rb : Reg) (size : Size) (s : State) : Host.Outcome State Fault Refusal :=
  .next (s.smov (.smov x rd ra rb size) x rd ra rb size none)

/-- SSET. -/
def execSset (x : Issue) (rd ra rb : Reg) (size : Size) (s : State) : Host.Outcome State Fault Refusal :=
  .next (s.sset (.sset x rd ra rb size) x rd ra rb size none)

/-- SCMP. -/
def execScmp (x : Issue) (rd ra rb : Reg) (size : Size) (pd : PReg) (s : State) : Host.Outcome State Fault Refusal :=
  .next (s.scmp (.scmp x rd ra rb size pd) x rd ra rb size pd none)

/-- SSCAN. -/
def execSscan (x : Issue) (rd ra rb : Reg) (size : Size) (pd : PReg) (s : State) : Host.Outcome State Fault Refusal :=
  .next (s.sscan (.sscan x rd ra rb size pd) x rd ra rb size pd none)

-- REP (R86, R87) ------------------------------------------------------------------------------------------------------

/-- The next state of an outcome, or the state before. -/
def nextOr (o : Host.Outcome State Fault Refusal) (s : State) : State := match o with | .next t => t | _ => s

/-- Run an instruction that may be the body of a REP: majors 0x00-0x0E, 0x10-0x14, 0x25 and 0x26. -/
def runBody (i : Instr) (s : State) : State :=
  match i with
  | .add x rd ra rb => nextOr (execAdd x rd ra rb s) s
  | .sub x rd ra rb => nextOr (execSub x rd ra rb s) s
  | .and x rd ra rb => nextOr (execAnd x rd ra rb s) s
  | .or x rd ra rb => nextOr (execOr x rd ra rb s) s
  | .xor x rd ra rb => nextOr (execXor x rd ra rb s) s
  | .andn x rd ra rb => nextOr (execAndn x rd ra rb s) s
  | .sll x rd ra rb => nextOr (execSll x rd ra rb s) s
  | .srl x rd ra rb => nextOr (execSrl x rd ra rb s) s
  | .sra x rd ra rb => nextOr (execSra x rd ra rb s) s
  | .ror x rd ra rb => nextOr (execRor x rd ra rb s) s
  | .min x rd ra rb => nextOr (execMin x rd ra rb s) s
  | .max x rd ra rb => nextOr (execMax x rd ra rb s) s
  | .minu x rd ra rb => nextOr (execMinu x rd ra rb s) s
  | .maxu x rd ra rb => nextOr (execMaxu x rd ra rb s) s
  | .addw x rd ra rb => nextOr (execAddw x rd ra rb s) s
  | .subw x rd ra rb => nextOr (execSubw x rd ra rb s) s
  | .sllw x rd ra rb => nextOr (execSllw x rd ra rb s) s
  | .srlw x rd ra rb => nextOr (execSrlw x rd ra rb s) s
  | .sraw x rd ra rb => nextOr (execSraw x rd ra rb s) s
  | .mul x rd ra rb => nextOr (execMul x rd ra rb s) s
  | .mulh x rd ra rb => nextOr (execMulh x rd ra rb s) s
  | .mulhu x rd ra rb => nextOr (execMulhu x rd ra rb s) s
  | .mulw x rd ra rb => nextOr (execMulw x rd ra rb s) s
  | .div x rd ra rb => nextOr (execDiv x rd ra rb s) s
  | .divu x rd ra rb => nextOr (execDivu x rd ra rb s) s
  | .rem x rd ra rb => nextOr (execRem x rd ra rb s) s
  | .remu x rd ra rb => nextOr (execRemu x rd ra rb s) s
  | .divw x rd ra rb => nextOr (execDivw x rd ra rb s) s
  | .divuw x rd ra rb => nextOr (execDivuw x rd ra rb s) s
  | .remw x rd ra rb => nextOr (execRemw x rd ra rb s) s
  | .remuw x rd ra rb => nextOr (execRemuw x rd ra rb s) s
  | .addi x rd ra imm => nextOr (execAddi x rd ra imm s) s
  | .andi x rd ra imm => nextOr (execAndi x rd ra imm s) s
  | .ori x rd ra imm => nextOr (execOri x rd ra imm s) s
  | .xori x rd ra imm => nextOr (execXori x rd ra imm s) s
  | .slli x rd ra sh => nextOr (execSlli x rd ra sh s) s
  | .srli x rd ra sh => nextOr (execSrli x rd ra sh s) s
  | .srai x rd ra sh => nextOr (execSrai x rd ra sh s) s
  | .rori x rd ra sh => nextOr (execRori x rd ra sh s) s
  | .movi x rd imm => nextOr (execMovi x rd imm s) s
  | .orsh x rd imm => nextOr (execOrsh x rd imm s) s
  | .cmp x pd ra rb cond => nextOr (execCmp x pd ra rb cond s) s
  | .cmpi x pd ra imm cond => nextOr (execCmpi x pd ra imm cond s) s
  | .pand x pd pa pb => nextOr (execPand x pd pa pb s) s
  | .por x pd pa pb => nextOr (execPor x pd pa pb s) s
  | .pxor x pd pa pb => nextOr (execPxor x pd pa pb s) s
  | .pandn x pd pa pb => nextOr (execPandn x pd pa pb s) s
  | .pnot x pd pa => nextOr (execPnot x pd pa s) s
  | .clz x rd ra => nextOr (execClz x rd ra s) s
  | .ctz x rd ra => nextOr (execCtz x rd ra s) s
  | .popc x rd ra => nextOr (execPopc x rd ra s) s
  | .bswap x rd ra => nextOr (execBswap x rd ra s) s
  | .sextb x rd ra => nextOr (execSextb x rd ra s) s
  | .sexth x rd ra => nextOr (execSexth x rd ra s) s
  | .sextw x rd ra => nextOr (execSextw x rd ra s) s
  | .zextw x rd ra => nextOr (execZextw x rd ra s) s
  | .par x rd ra => nextOr (execPar x rd ra s) s
  | .parb x rd ra => nextOr (execParb x rd ra s) s
  | .brev x rd ra => nextOr (execBrev x rd ra s) s
  | .brevb x rd ra => nextOr (execBrevb x rd ra s) s
  | .brevw x rd ra => nextOr (execBrevw x rd ra s) s
  | .sel x rd ra rb ps => nextOr (execSel x rd ra rb ps s) s
  | .crcs x rd ra rb size poly => nextOr (execCrcs x rd ra rb size poly s) s
  | .ldu .. | .lds .. | .lsxLoad .. | .lsxLoadPostinc .. => s.loadInstr true i
  | .st x rd ra size imm => nextOr (execSt x rd ra size imm s) s
  | .lsxStore x rd ra rb size signed => nextOr (execLsxStore x rd ra rb size signed s) s
  | .lsxStorePostinc x rd ra rb size signed => nextOr (execLsxStorePostinc x rd ra rb size signed s) s
  | .swap x rd ra rb wide => nextOr (execSwap x rd ra rb wide s) s
  | .amoAdd x rd ra rb wide => nextOr (execAmoAdd x rd ra rb wide s) s
  | .amoAnd x rd ra rb wide => nextOr (execAmoAnd x rd ra rb wide s) s
  | .amoOr x rd ra rb wide => nextOr (execAmoOr x rd ra rb wide s) s
  | .amoXor x rd ra rb wide => nextOr (execAmoXor x rd ra rb wide s) s
  | .amoMin x rd ra rb wide => nextOr (execAmoMin x rd ra rb wide s) s
  | .amoMax x rd ra rb wide => nextOr (execAmoMax x rd ra rb wide s) s
  | .cas x rd ra rb wide => nextOr (execCas x rd ra rb wide s) s
  | .unassignedMajor c word => nextOr (execUnassignedMajor c word s) s
  | _ => s

/-- At most `n` iterations of a body. While it runs, bit 0 of pc marks the berth: a body that completes leaves the
mark, an exception has put the handler's address in its place (addresses of instructions are multiples of 4), and ERA
then is the REP's address. With iterations left, or where the core stops, the REP pauses at the boundary. -/
def repRun (c : CoreId) (b : BerthId) (i : Instr) (rc : Reg) (run : State → State) (pc : Word) : Nat → State → State
  | 0, s => s.pause c b i
  | n + 1, s =>
    if (s.berth c b).reg rc = 0 then s.mapBerth c b fun y => { y with pc := pc + 8 }
    else if s.runner c ≠ some b then s.pause c b i
    else
      let t := run (s.mapBerth c b fun y => { y with pc := pc ||| 1 })
      let y := t.berth c b
      if (t.core c).stalled.isSome then s.pause c b i
      else if y.halted then t.setBerth c b { y with pc := pc }
      else if y.pc.toNat % 4 = 0 then t.setBerth c b { y with era := y.era &&& ~~~1#48 }
      else
        let left := y.reg rc - 1
        let z := y.setReg rc left
        if left = 0 then t.setBerth c b { z with pc := pc + 8 }
        else repRun c b i rc run pc n (t.setBerth c b { z with pc := pc })

/-- REP with an iteration limit. A predicated-off REP skips its body too; a body that is no instruction raises illegal opcode. -/
def State.rep (s : State) (i : Instr) (x : Issue) (rc : Reg) (body : BitVec 32) (limit : Option Nat) : State :=
  let inner : Instr := match decodeGregon x.core body 0 with | some j => j | none => .unassignedMajor x.core body
  let off := match s.runner x.core with
    | some b => !(x.sense && x.pred == 0) && s.legal i && (s.berth x.core b).pred x.pred == x.sense && !s.mustWait x.core
    | none => false
  let t := s.instructionBy i x (s.legal i) 0 Berth.countOnce (fun s _ _ => s) fun s c b =>
    some (repRun c b i rc (runBody inner) (s.berth c b).pc (s.stretch c b limit ((s.berth c b).reg rc).toNat) s)
  if off then
    match t.runner x.core with
    | some b => t.mapBerth x.core b Berth.next
    | none => t
  else t

/-- REP. -/
def execRep (x : Issue) (rc : Reg) (body : BitVec 32) (s : State) : Host.Outcome State Fault Refusal :=
  .next (s.rep (.rep x rc body) x rc body none)

end Sys2Proof.Machine
end

