-- ==== Sys2Proof/Machine/Debug.lean ====
section
/-! DEFINITION. A debugger's single step and resume (R45), and the trace port (R48). -/

namespace Sys2Proof.Machine

/-- What an instruction fetch returns. -/
inductive Fetched where
  | word (w : BitVec 32)
  | busError
  | poisoned
deriving DecidableEq, Repr

/-- Fetch the word at an address (R92, R203, R214, R216): from the line buffer, else from the L1I while lookups are on, whose line
also fills the older entry of the line buffer, else through the L2. -/
def State.fetchWord (s : State) (c : CoreId) (a : Nat) : State × Fetched :=
  let pick (d : Line) : Fetched := .word (BitVec.ofNat 32 (d.toNat >>> (8 * (a % 64))))
  if 2 ^ 48 ≤ a || s.inWindow a || !s.mapped a then (s, .busError)
  else match (s.core c).lineBuf.find? (·.line == a / 64) with
  | some l => (s, pick l.data)
  | none =>
    match (if bitAt s.l2.ien c.val then (s.core c).l1i.find (a / 64) else none) with
    | some l => (s.setCore c ((s.core c).buffer l.line l.data), pick l.data)
    | none =>
      let s := s.fillL1i c (a / 64)
      let (d, p) := s.sliceRead (a / 64)
      if bitAt p (a / 8 % 8) then (s, .poisoned) else (s, pick d)

/-- Run one instruction in full; a load does not wait for its line. -/
def State.runWhole (s : State) (i : Instr) : State :=
  match i with
  | .smov x rd ra rb size => nextOr (execSmov x rd ra rb size s) s
  | .sset x rd ra rb size => nextOr (execSset x rd ra rb size s) s
  | .scmp x rd ra rb size pd => nextOr (execScmp x rd ra rb size pd s) s
  | .sscan x rd ra rb size pd => nextOr (execSscan x rd ra rb size pd s) s
  | .rep x rc body => nextOr (execRep x rc body s) s
  | .prefL1d x ra imm => nextOr (execPrefL1d x ra imm s) s
  | .prefL2 x ra imm => nextOr (execPrefL2 x ra imm s) s
  | .prefStreamStart x ra imm => nextOr (execPrefStreamStart x ra imm s) s
  | .prefStreamEnd x ra imm => nextOr (execPrefStreamEnd x ra imm s) s
  | .icInvA x ra => nextOr (execIcInvA x ra s) s
  | .dcInvA x ra => nextOr (execDcInvA x ra s) s
  | .l2ClnA x ra => nextOr (execL2ClnA x ra s) s
  | .l2InvA x ra => nextOr (execL2InvA x ra s) s
  | .l2CiA x ra => nextOr (execL2CiA x ra s) s
  | .icInvSw x ra => nextOr (execIcInvSw x ra s) s
  | .dcInvSw x ra => nextOr (execDcInvSw x ra s) s
  | .l2ClnSw x ra => nextOr (execL2ClnSw x ra s) s
  | .l2InvSw x ra => nextOr (execL2InvSw x ra s) s
  | .l2CiSw x ra => nextOr (execL2CiSw x ra s) s
  | .fence x => nextOr (execFence x s) s
  | .fenceSt x => nextOr (execFenceSt x s) s
  | .fenceI x => nextOr (execFenceI x s) s
  | .fenceT x => nextOr (execFenceT x s) s
  | .br x disp => nextOr (execBr x disp s) s
  | .call x disp => nextOr (execCall x disp s) s
  | .jr x ra => nextOr (execJr x ra s) s
  | .jalr x rd ra => nextOr (execJalr x rd ra s) s
  | .dbnz x ra disp => nextOr (execDbnz x ra disp s) s
  | .crrd x g crn => nextOr (execCrrd x g crn s) s
  | .crwr x g crn => nextOr (execCrwr x g crn s) s
  | .crset x g crn => nextOr (execCrset x g crn s) s
  | .crclr x g crn => nextOr (execCrclr x g crn s) s
  | .nop x => nextOr (execNop x s) s
  | .trap x imm => nextOr (execTrap x imm s) s
  | .eret x => nextOr (execEret x s) s
  | .wait x => nextOr (execWait x s) s
  | .brk x => nextOr (execBrk x s) s
  | .saveC x => nextOr (execSaveC x s) s
  | .saveH x => nextOr (execSaveH x s) s
  | .loadC x => nextOr (execLoadC x s) s
  | .loadH x => nextOr (execLoadH x s) s
  | .tld x td ra rb rows hint => nextOr (execTld x td ra rb rows hint s) s
  | .tst x ts ra rb rows => nextOr (execTst x ts ra rb rows s) s
  | .tmma x ad ta tb fmt z => nextOr (execTmma x ad ta tb fmt z s) s
  | .tswap x n => nextOr (execTswap x n s) s
  | .tdrn x l td => nextOr (execTdrn x l td s) s
  | .tclra x n => nextOr (execTclra x n s) s
  | .tclrt x t => nextOr (execTclrt x t s) s
  | .tlda x n ra => nextOr (execTlda x n ra s) s
  | .tsta x n ra => nextOr (execTsta x n ra s) s
  | .custw0 x rd ra rb func => nextOr (execCustw0 x rd ra rb func s) s
  | .custw1 x rd ra rb func => nextOr (execCustw1 x rd ra rb func s) s
  | .cust0 x rd ra rb func => nextOr (execCust0 x rd ra rb func s) s
  | .cust1 x rd ra rb func => nextOr (execCust1 x rd ra rb func s) s
  | i => runBody i s

/-- Run one instruction for a debugger's STEP (R45): a string instruction runs one element and a REP one iteration. -/
def State.runOne (s : State) (i : Instr) : State :=
  match i with
  | .smov x rd ra rb size => s.smov i x rd ra rb size (some 1)
  | .sset x rd ra rb size => s.sset i x rd ra rb size (some 1)
  | .scmp x rd ra rb size pd => s.scmp i x rd ra rb size pd (some 1)
  | .sscan x rd ra rb size pd => s.sscan i x rd ra rb size pd (some 1)
  | .rep x rc body => s.rep i x rc body (some 1)
  | _ => s.runWhole i

/-- Run an instruction that has waited: a load goes on waiting for the fill that it has asked for. -/
def State.runHeld (s : State) (i : Instr) : State :=
  match i with
  | .ldu .. | .lds .. | .lsxLoad .. | .lsxLoadPostinc .. => s.loadInstr false i
  | _ => s.runWhole i

/-- Whether a REP at the PC would execute its body: its word is legal, its predicate is on and its count is not zero (R86, R216). -/
def State.repEnters (s : State) (c : CoreId) (b : BerthId) (w : BitVec 32) : Bool :=
  let y := s.berth c b
  let rc : Reg := Fin.ofNat 32 (wordField w 21 17)
  !s.wordIllegal c w && y.pred (Fin.ofNat 8 (wordField w 30 28)) != (wordField w 31 31 == 1) && y.reg rc != 0

/-- Execute the instruction at the PC of the berth that runs: a failed fetch raises vector 4 or 7, a word that is no
instruction raises illegal opcode. A body of a REP that cannot be fetched raises nothing where the REP would not execute it. -/
def State.runNext (s : State) (c : CoreId) (b : BerthId) : State :=
  let pc := (s.berth c b).pc.toNat
  match s.fetchWord c pc with
  | (s, .word w) =>
    let isRep := wordField w 27 22 == 0x24
    let (t, got) := if isRep then s.fetchWord c (pc + 4) else (s, .word 0)
    let enters := s.repEnters c b w
    match t, (match got with | .word body => Fetched.word body | e => if enters then e else Fetched.word 0) with
    | s, Fetched.word body =>
      match decodeGregon c w body with
      | some i => s.runOne i
      | none => nextOr (execUnassignedMajor c w s) s
    | s, .busError => s.raise c b 4 ((pc + 4) % 2 ^ 48)
    | s, .poisoned => s.raise c b 7 ((pc + 4) % 2 ^ 48)
  | (s, .busError) => s.raise c b 4 (pc % 2 ^ 48)
  | (s, .poisoned) => s.raise c b 7 (pc % 2 ^ 48)

/-- The exceptions that wait for the RUNNING berth are taken first (R125). -/
def State.takeWaiting (s : State) (c : CoreId) : State :=
  match (s.core c).running with
  | some b => if (s.berth c b).lbePending then s.takeLateBusError c b else s.settle c
  | none => s

/-- STEP of a halted core (R45): one instruction, one REP iteration or one string element, then halted again with REASON STEP
done, or BRK where that instruction is a BRK. A core with nothing that can execute stays as it is. -/
def State.stepCore (s : State) (c : CoreId) : State :=
  let free := s.setCore c { s.core c with halted := false }
  let ready := free.takeWaiting c
  match ready.runner c with
  | some b =>
    let t := ready.runNext c b
    let waits := (t.core c).stalled.isSome && !(t.berth c b).midway
    if (t.core c).halted then t
    else if waits then t.setCore c { t.core c with haltDue := some 3 }
    else t.haltCore c 3
  | none => s

/-- The oldest instruction that waits in a core's reorder buffer tries again (R95); a halt that waited for it then takes place. -/
def State.retry (s : State) (c : CoreId) : State :=
  let t := match (s.core c).stalled, s.runner c with
    | some _, some _ => s.attempt c fun i s => s.runHeld i
    | _, _ => s
  t.haltIfDue c

/-- What the block does while no command waits (log entries 1, 89): TIME advances by one tick, each core's oldest instruction that
waits tries again, and a VC0 flit that waited for room at an engine leaves its receive buffer (R268). -/
def State.idle (s : State) : State :=
  if s.rootRuns then allLinks.foldl (fun s n => s.drainRx n 128) (allCores.foldl State.retry s.tick) else s

/-- RESUME of a halted core (R45). -/
def State.resumeCore (s : State) (c : CoreId) : State := (s.setCore c { s.core c with halted := false, reason := 0 }).settle c

/-- TRACE_SEND (R48): the oldest trace record leaves on DBG_TRACE, while the DEBUG gate is open. -/
def execTraceSend (s : State) : Host.Outcome State Fault Refusal :=
  match s.dbg.trace with
  | w :: rest =>
    .next (if s.live && bitAt s.ck.gates 20 then { s with dbg := { s.dbg with trace := rest, sent := w } } else s)
  | [] => .next s

end Sys2Proof.Machine
end

