-- ==== Sys2Proof/Machine/DispatchUnit.lean ====
section
/-! DEFINITION. The dispatch unit (R194-R198): slot headers, dispatch writes and the overflow list. -/

namespace Sys2Proof.Machine

/-- A descriptor of a hand-off as bytes. -/
def Handoff.bytes (h : Handoff) : Blob := { len := 128, bits := h.desc.toNat }

/-- TOKEN of a row (Table 9). -/
def Handoff.token (h : Handoff) : Nat := (dTokenBase h.bytes + h.row) % 2 ^ 32
/-- RET of a row. -/
def Handoff.ret (h : Handoff) : Nat := wrap48 (dRetBase h.bytes) (h.row * dRetStride h.bytes : Nat)
/-- The address of a row's token vector. -/
def Handoff.tokSrc (h : Handoff) : Nat := wrap48 (dTokAddr h.bytes) (h.row * dTokStride h.bytes)

/-- The slot header of an entry (Table 9). -/
def Handoff.header (h : Handoff) (rank : Nat) (e : TopEntry) (src : BitVec 15) : Nat :=
  h.token + e.pos.toNat * 2 ^ 32 + rank * 2 ^ 48 + h.entries.length * 2 ^ 56 + e.val.toNat * 2 ^ 64 + h.m.toNat * 2 ^ 96 +
    h.s.toNat * 2 ^ 128 + src.toNat * 2 ^ 160 + h.ret * 2 ^ 192 + (64 * dTokLen h.bytes) * 2 ^ 256

/-- The replica that a dispatch entry gives a token (R196), and its node and ring. -/
def Handoff.home (h : Handoff) (entry : BitVec 128) : BitVec 15 × Nat :=
  let b : Blob := { len := 16, bits := entry.toNat }
  let i := (dTokenBase h.bytes + h.row) % diReplicas b 0
  (BitVec.ofNat 15 (diNode b 0 i), diRing b 0)

/-- The overflow record of an entry (Table 10). -/
def Handoff.overflowRecord (h : Handoff) (core : CoreId) (rank : Nat) (e : TopEntry) (node : BitVec 15) (status : Nat) :
    OvRecord :=
  { base := BitVec.ofNat 48 (dOvlBase h.bytes), log2 := dOvlLog2 h.bytes, done := dDoneCtr h.bytes,
    data := BitVec.ofNat 256 (h.token + e.pos.toNat * 2 ^ 32 + node.toNat * 2 ^ 48 + e.val.toNat * 2 ^ 64 + rank * 2 ^ 96 +
      core.val * 2 ^ 100 + status * 2 ^ 104 + h.tokSrc * 2 ^ 128 + h.ret * 2 ^ 192) }

/-- Replace STATUS of an overflow record. -/
def OvRecord.withStatus (r : OvRecord) (status : Nat) : OvRecord :=
  { r with data := (r.data &&& ~~~(0xFF#256 <<< 104)) ||| BitVec.ofNat 256 (status * 2 ^ 104) }

/-- A write of a core is listed (R198). -/
def State.listOverflow (s : State) (c : CoreId) (r : OvRecord) : State :=
  s.setCore c { s.core c with overflow := (s.core c).overflow ++ [r] }

/-- The next entry of a core's oldest hand-off has been dealt with. -/
def State.entryDone (s : State) (c : CoreId) : State :=
  let k := s.core c
  match k.handoffs with
  | h :: rest =>
    let left := if h.next + 1 < h.entries.length then { h with next := h.next + 1 } :: rest else rest
    { s.setCore c { k with handoffs := left } with dk := { s.dk with lastCore := c.val } }
  | [] => s

/-- Start the next write of a core (R196): none while it has nothing to start, a held record, a token line that a slice holds (R208), or
the limit is full. A
position without an entry, a failed token read and a home without a route are listed. -/
def State.startDispatch (s : State) (c : CoreId) : Option State :=
  let k := s.core c
  match k.handoffs with
  | h :: _ =>
    match h.entries[h.next]? with
    | none => none
    | some e =>
      if !k.overflow.isEmpty || s.rangeHeld h.tokSrc (64 * dTokLen h.bytes) then none
      else
        match (h.table[h.next]?).join with
        | none => some ((s.entryDone c).listOverflow c (h.overflowRecord c h.next e 0 5))
        | some entry =>
          let (node, ring) := h.home entry
          let n := 64 * dTokLen h.bytes
          let payload := if n = 0 then some (Blob.empty, false) else s.engineBytes h.tokSrc n
          match payload with
          | some (data, false) =>
            if (s.leaves none node 0).isNone then
              some ((s.entryDone c).listOverflow c (h.overflowRecord c h.next e node 4))
            else
              match s.pickTag none node false with
              | none => none
              | some (tag, route, rank) =>
                let whole : Blob := { len := 64, bits := h.header h.next e s.si.nodeId }
                let whole := whole.append data
                let op : RemoteOp :=
                  { id := s.dk.nextId, kind := .append, route := route, tag := BitVec.ofNat 16 tag,
                    dest := node,
                    owner := .dispatch c (h.overflowRecord c h.next e node 0), local_ := BitVec.ofNat 48 h.tokSrc,
                    len := whole.len, answer := none, stored := none }
                some ((s.entryDone c).sendOp op rank ring false 0 whole)
          | _ =>
            let t := (s.entryDone c).listOverflow c (h.overflowRecord c h.next e node 2)
            some (t.detect { plainFault 0x26 0 with access := 1, master := dockMaster c.val,
                                                    addr := BitVec.ofNat 48 h.tokSrc })
  | [] => none

/-- DISPATCH_WRITE_START (R196): the first core in rotation, after the one served last, that can start a write. -/
def execDispatchWriteStart (s : State) : Host.Outcome State Fault Refusal :=
  if s.dockRuns && !s.bw.fStop && s.enabled .dock then
    let order := (List.range 16).map fun i => (Fin.ofNat 16 (s.dk.lastCore + 1 + i) : CoreId)
    match order.findSome? s.startDispatch with
    | some t => .next t
    | none => .next s
  else .next s

/-- STATUS of Table 10 for a CAUSE other than 0: ring full, lost or never routed, refused by the home node. -/
def overflowStatus (cause : Nat) : Nat :=
  if cause = 9 then 1 else if cause = 0x0B ∨ cause = 0x0C ∨ cause = 4 then 4 else 3

/-- DISPATCH_OUTCOME (R197): a dispatch write whose answer is known leaves; appended raises DONE_CTR, any other outcome is
listed. -/
def execDispatchOutcome (index : Nat) (s : State) : Host.Outcome State Fault Refusal :=
  match (s.dk.ops.filter (·.answer.isSome))[index]? with
  | some op =>
    match op.owner, op.answer with
    | .dispatch c r, some (cause, _) =>
      if !s.dockRuns then .next s
      else
        let s := { s with dk := { s.dk with ops := s.dk.ops.filter (·.id != op.id) } }
        if cause = 0 then .next (s.raiseCtr r.done)
        else
          let s := (s.noteRingFull cause.toNat).noteLost cause.toNat
          .next (s.listOverflow c (r.withStatus (overflowStatus cause.toNat)))
    | _, _ => .next s
  | none => .next s

/-- Write the oldest held record of a core into its list when it fits, then PUT, and raise DONE_CTR (R197, R198). PUT and
TAKE are those of the control slot (log entry 36). -/
def State.overflowWrite (s : State) (c : CoreId) : State :=
  let k := s.core c
  match k.overflow with
  | r :: rest =>
    let base := r.base.toNat
    let n := 16 * 2 ^ r.log2
    let put := (s.engineWord base).getD 0
    let take := (s.engineWord (base + 8)).getD 0
    let a := base + 64 + 32 * (put % n)
    if !s.dockRuns || n < (put + 1 + 2 ^ 64 - take) % 2 ^ 64 || s.rangeHeld a 32 || s.lineHeld (base / 64) then s
    else
      let s := s.setCore c { k with overflow := rest }
      let s := if s.mappedAll a 32 then s.engineStore a { len := 32, bits := r.data.toNat } else s
      let s := if s.mapped base then s.engineWordPut base (put + 1) else s
      s.raiseCtr r.done
  | [] => s

/-- OVERFLOW_RECORD_WRITE (R198). -/
def execOverflowRecordWrite (core : CoreId) (s : State) : Host.Outcome State Fault Refusal := .next (s.overflowWrite core)

/-- OVERFLOW_TAKE_REREAD (R198): TAKE is read again, and the held record is written when it now fits. -/
def execOverflowTakeReread (core : CoreId) (s : State) : Host.Outcome State Fault Refusal := .next (s.overflowWrite core)

end Sys2Proof.Machine
end

