-- ==== Sys2Proof/Machine/HostPort.lean ====
section
/-! DEFINITION. The host register map (R44, R45), the values that its registers read as, the effect of their writes, and the
order of the answers that a request can meet (R11, R30, R45, R61, R64). -/

namespace Sys2Proof.Machine

-- The register map (R44; Tables 14 and 15 of "Block boundary and ports") --------------------------------------------------------

/-- The registers of the host window. -/
inductive HReg where
  | siEnable | siCommit | siCommitStatus | siHarbour | siHarbourStatus | staging (off : Nat)
  | bwStatus | bwAttn | bwPend (k : Fin 3) | bwOutctl | bwKeep | capInfo (k : Fin 3) | capAddr (k : Fin 3)
  | capTime (k : Fin 3) | mark0 | mark1 | inject | logctl | logstat
  | ckStatus | ckGate | ckDrift | ckCtl
  | doorbell | tsave
  | l1ctl | maint | tide | l2Atest | pfskip (n : SliceId) | poison (n : SliceId)
  | qyStatus (n : SliceId) | qyScrub (n : SliceId) | qyLerr (n : SliceId) | qyXflag (n : SliceId) (w : Fin 256)
  | dkStatus | hwChain (i : ChainId) | lkStatus (n : LinkId) | lkCal (n : LinkId) | lkErr (n : LinkId)
  | dbgCtl (n : CoreId) | dbgStat (n : CoreId) | dbgAtest (n : CoreId)
  | dbgG (n : CoreId) (r : Reg) | dbgP (n : CoreId) | dbgPc (n : CoreId) | dbgCr (n : CoreId) (r : Cr)
deriving DecidableEq, Repr

/-- The registers of the breakwater window at an offset. -/
def bwRegAt (o : Nat) : Option HReg :=
  if 0x40 ≤ o && o < 0xA0 then
    let k : Fin 3 := Fin.ofNat 3 ((o - 0x40) / 0x20)
    match (o - 0x40) % 0x20 with
    | 0x00 => some (.capInfo k)
    | 0x08 => some (.capAddr k)
    | 0x10 => some (.capTime k)
    | _ => none
  else
    match o with
    | 0x000 => some .bwStatus | 0x008 => some .bwAttn | 0x010 => some (.bwPend 0) | 0x018 => some (.bwPend 1)
    | 0x020 => some (.bwPend 2) | 0x028 => some .bwOutctl | 0x030 => some .bwKeep | 0x100 => some .mark0
    | 0x108 => some .mark1 | 0x200 => some .inject | 0x300 => some .logctl | 0x308 => some .logstat
    | _ => none

/-- The registers of the L2 window at an offset. -/
def l2RegAt (o : Nat) : Option HReg :=
  if 0x100 ≤ o && o < 0x180 then some (.pfskip (Fin.ofNat 16 ((o - 0x100) / 8)))
  else if 0x200 ≤ o && o < 0x280 then some (.poison (Fin.ofNat 16 ((o - 0x200) / 8)))
  else
    match o with
    | 0x00 => some .l1ctl | 0x08 => some .maint | 0x10 => some .tide | 0x18 => some .l2Atest
    | _ => none

/-- The registers of a quay engine's block at an offset. -/
def qyRegAt (n : SliceId) (o : Nat) : Option HReg :=
  if 0x800 ≤ o then some (.qyXflag n (Fin.ofNat 256 ((o - 0x800) / 8)))
  else
    match o with
    | 0x00 => some (.qyStatus n) | 0x08 => some (.qyScrub n) | 0x10 => some (.qyLerr n)
    | _ => none

/-- The registers of a link's block at an offset. -/
def lkRegAt (o : Nat) : Option HReg :=
  if 48 ≤ o / 0x400 then none
  else
    let n : LinkId := Fin.ofNat 48 (o / 0x400)
    match o % 0x400 with
    | 0x00 => some (.lkStatus n) | 0x08 => some (.lkCal n) | 0x10 => some (.lkErr n)
    | _ => none

/-- The registers of a core's debug window at an offset (Table 15). -/
def dbgRegAt (n : CoreId) (o : Nat) : Option HReg :=
  if 0x100 ≤ o && o < 0x200 then some (.dbgG n (Fin.ofNat 32 ((o - 0x100) / 8)))
  else if 0x400 ≤ o then
    if o < 0x8400 then (crOf (BitVec.ofNat 12 ((o - 0x400) / 8))).map (.dbgCr n) else none
  else
    match o with
    | 0x000 => some (.dbgCtl n) | 0x008 => some (.dbgStat n) | 0x010 => some (.dbgAtest n)
    | 0x200 => some (.dbgP n) | 0x208 => some (.dbgPc n)
    | _ => none

/-- The register at an 8-byte-aligned address of the host window. -/
def regAt (a : Nat) : Option HReg :=
  let o := a % 0x10000
  if 0x400000 ≤ a then (if a < 0xC00000 then some (.staging (a - 0x400000)) else none)
  else if 0x100000 ≤ a then (if a < 0x200000 then dbgRegAt (Fin.ofNat 16 (a / 0x10000)) o else none)
  else
    match a / 0x10000 with
    | 0 =>
      match o with
      | 0x08 => some .siEnable | 0x10 => some .siCommit | 0x18 => some .siCommitStatus
      | 0x20 => some .siHarbour | 0x28 => some .siHarbourStatus
      | _ => none
    | 1 => bwRegAt o
    | 2 =>
      match o with
      | 0x00 => some .ckStatus | 0x08 => some .ckGate | 0x10 => some .ckDrift | 0x18 => some .ckCtl
      | _ => none
    | 3 =>
      match o with
      | 0x00 => some .doorbell | 0x08 => some .tsave
      | _ => none
    | 4 => l2RegAt o
    | 5 => qyRegAt (Fin.ofNat 16 (o / 0x1000)) (o % 0x1000)
    | 6 => if o = 0 then some .dkStatus else none
    | 7 => if o < 0x2000 then some (.hwChain (Fin.ofNat 1024 (o / 8))) else none
    | 8 => lkRegAt o
    | _ => none

/-- The unit window of an address (R32): a row of Table 14, a debug window (16 + n), or the chart store (32). An address
that no row covers shares a window with none: `256 + id`. -/
def windowOf (a : Nat) (id : HostId) : Nat :=
  if 0x400000 ≤ a then 32
  else if 0x200000 ≤ a then 256 + id.val
  else if 0x100000 ≤ a then 16 + (a / 0x10000) % 16
  else if a / 0x10000 ≤ 8 then a / 0x10000 else 256 + id.val

/-- The unit whose registers a window holds (R61). -/
def windowUnit (w : Nat) : Option EnUnit :=
  match w with
  | 1 => some .safety | 2 => some .clock | 3 => some .pilot | 4 => some .l2 | 5 => some .quay | 6 => some .dock
  | 7 => some .hawser | 8 => some .link
  | _ => if 16 ≤ w ∧ w < 32 then some (.core (Fin.ofNat 16 w)) else none

/-- Bits `[hi:lo]` set. -/
def bitsMask (hi lo : Nat) : Word := BitVec.ofNat 64 (2 ^ (hi + 1) - 2 ^ lo)

/-- The reserved bits of a register (R11 and the register tables). -/
def HReg.reserved : HReg → Word
  | .siEnable => bitsMask 63 32 ||| bitsMask 15 10
  | .siCommit => bitsMask 63 9
  | .siCommitStatus => bitsMask 63 51 ||| bitsMask 7 2
  | .siHarbour => bitsMask 63 34 ||| bitsMask 31 10
  | .siHarbourStatus => bitsMask 7 2
  | .staging _ | .capTime _ | .dbgG _ _ => 0
  | .bwStatus => bitsMask 63 59 ||| bitsMask 30 18
  | .bwAttn => bitsMask 63 16 ||| 1
  | .bwPend _ => bitsMask 63 41
  | .bwOutctl => bitsMask 63 10
  | .bwKeep => bitsMask 63 1
  | .capInfo _ => bitsMask 61 56 ||| bitsMask 7 0
  | .capAddr _ => bitsMask 63 48
  | .mark0 => bitsMask 31 16
  | .mark1 => bitsMask 63 48
  | .inject => bitsMask 63 17 ||| bitsMask 7 6
  | .logctl => bitsMask 63 48 ||| bitsMask 11 5
  | .logstat => bitsMask 63 41 ||| bitsMask 31 7
  | .ckStatus => bitsMask 63 41 ||| bitsMask 34 34 ||| bitsMask 31 14 ||| bitsMask 7 6
  | .ckGate => bitsMask 63 21
  | .ckDrift => bitsMask 63 32
  | .ckCtl => bitsMask 62 42
  | .doorbell | .tsave | .l1ctl | .pfskip _ | .lkErr _ => bitsMask 63 32
  | .maint => bitsMask 63 9 ||| bitsMask 7 2
  | .tide => bitsMask 63 36 ||| bitsMask 31 18
  | .l2Atest => bitsMask 63 10 ||| bitsMask 7 1
  | .poison _ => bitsMask 63 5
  | .qyStatus _ => bitsMask 63 40 ||| bitsMask 31 24 ||| bitsMask 15 3
  | .qyScrub _ => bitsMask 63 33 ||| bitsMask 31 16
  | .qyLerr _ => bitsMask 62 52 ||| bitsMask 6 0
  | .qyXflag _ _ => 0x8888888888888888
  | .dkStatus => bitsMask 63 49 ||| bitsMask 31 26
  | .hwChain _ => bitsMask 63 35
  | .lkStatus _ => bitsMask 63 43 ||| bitsMask 31 12 ||| bitsMask 7 6 ||| bitsMask 3 2
  | .lkCal _ => bitsMask 63 48 ||| bitsMask 31 16
  | .dbgCtl _ => bitsMask 63 12 ||| bitsMask 7 4
  | .dbgStat _ => bitsMask 63 6 ||| bitsMask 3 3
  | .dbgAtest _ => bitsMask 63 1
  | .dbgP _ => bitsMask 63 8
  | .dbgPc _ => bitsMask 63 48 ||| bitsMask 1 0
  | .dbgCr _ r => r.reserved

/-- The core of a berth register, which is reached only while that core is halted (R45). -/
def HReg.berthCore : HReg → Option CoreId
  | .dbgG n _ | .dbgP n | .dbgPc n | .dbgCr n _ => some n
  | _ => none

-- Replies (R12, R13, R31; Table 11 of "Structure image, enabling and host replies") -----------------------------------------------

/-- DONE with the value read. -/
def Reply.done (v : Word) : Reply := { outcome := 0, data := 0, rdata := v }
/-- REFUSED with a reason code. -/
def Reply.refused (code : Nat) : Reply := { outcome := 1, data := BitVec.ofNat 32 code, rdata := 0 }
/-- RETRY. -/
def Reply.retry : Reply := { outcome := 2, data := 0, rdata := 0 }
/-- NOADDR. -/
def Reply.noaddr : Reply := { outcome := 3, data := 0, rdata := 0 }
/-- DENIED. -/
def Reply.denied : Reply := { outcome := 4, data := 0, rdata := 0 }
/-- DATAERR. -/
def Reply.dataerr : Reply := { outcome := 5, data := 0, rdata := 0 }
/-- WIDTH. -/
def Reply.width : Reply := { outcome := 6, data := 0, rdata := 0 }

-- Reading (R9 and the register tables) -----------------------------------------------------------------------------------------------

/-- The sum of fields, each a value and its lowest bit. -/
def fields (l : List (Nat × Nat)) : Word := BitVec.ofNat 64 (l.foldl (fun v x => v + x.1 * 2 ^ x.2) 0)

/-- A bit for each index below `n` that satisfies a test. -/
def bitsWhere (n : Nat) (f : Nat → Bool) : Nat := (List.range n).foldl (fun v i => v + b2n (f i) * 2 ^ i) 0

/-- SI_HARBOUR_STATUS (Table 6 of "Operating at scale"). -/
def Si.harbourStatus (i : Si) : Word :=
  fields [(i.harbour.code, 0), (i.incomplete.toNat, 8), (i.elapsed.toNat, 16), (i.stuck.toNat, 48)]

/-- BW_STATUS (Table 7 of "Faults, safety and the breakwater"). -/
def State.bwStatus (s : State) : Word :=
  let b := s.bw
  fields [(s.outLevels.toNat, 0), (b.lostq.toNat, 10), (b.discCnt.toNat, 31), (b2n b.stopA, 52), (b2n b.stopB, 53),
    (b2n b.stopFault, 54), (b2n b.safe, 55), (b2n b.startupOk, 56), (b2n s.testMode, 57), (b2n b.doubleF, 58)]

/-- BW_CAPk_INFO (Table 5). -/
def Capture.info (c : Capture) : Word :=
  if c.valid then
    fields [(shownInst c.ev, 8), (c.ev.master.toNat, 16), (c.ev.access.toNat, 32),
      (faultUnit c.ev.src.toNat c.ev.inst.toNat, 36), (c.ev.src.toNat, 40), (c.count.toNat, 48), (b2n c.esc, 62), (1, 63)]
  else 0

/-- CK_STATUS (Table 7 of "Clocks, reference and supply events"). -/
def State.ckStatus (s : State) : Word :=
  let k := s.ck
  let spread := sscDepth s.clockPlan != 0
  let src := match k.source with | .refLocal => 0 | .link _ => 1 | .holdover => 2
  let sel := match k.source with | .link n => n.val | _ => 0x3F
  let alt := match s.altRef with | some n => n.val | none => 0x3F
  fields [(alt, 0), (sel, 8), (src, 32), (b2n (spread && src == 0), 35), (b2n (spread && src == 1), 36),
    (b2n k.supEpisode, 37), (b2n k.noMajority, 38), (b2n k.localDev, 39), (b2n k.timeStep, 40)]

/-- The code of an effective divider (Table 10): 0 for 3, 1 for 4, 2 for 6. -/
def divCode (d : Nat) : Nat := if d = 4 then 1 else if d = 6 then 2 else 0

/-- CK_CTL: DIV is the effective divider of R313. -/
def State.ckCtl (s : State) : Word :=
  fields ((s.ck.pEst.toNat, 0) :: ((List.range 16).map fun n => (divCode (s.targetDiv n), 10 + 2 * n)))

/-- QY_STATUS of an engine (Table 14 of "Quay engines"). -/
def State.qyStatus (s : State) (n : SliceId) : Word :=
  let e := s.engine n
  fields [(b2n e.psat, 0), (b2n e.pinv, 1), (b2n e.test, 2), (e.merge.length, 16), (if n = 0 then s.qy.launches.length else 0, 32)]

/-- The operations that are still unanswered and satisfy a test. -/
def State.unanswered (s : State) (f : RemoteOp → Bool) : Nat := (s.dk.ops.filter fun o => o.answer.isNone && f o).length

/-- DK_STATUS (Table 15 of "Dock"). -/
def State.dkStatus (s : State) : Word :=
  fields [(s.unanswered fun o => o.kind != .read && o.route == .loop, 0),
    ((s.dk.queues.filter fun (x : Nat × DQueue) => x.2.state != 0).length, 13), (s.unanswered fun o => o.kind == .read, 32)]

/-- HW_CHAIN_i (Table 18 of "Hawser chains and the link layer"). -/
def State.hwStatus (s : State) (i : Nat) : Word :=
  let x := s.chain i
  fields [(x.runs.toNat, 0), (b2n (s.isArmed i), 32), (b2n x.sat, 33), (b2n x.err, 34)]

/-- STATE of LK_STATUS. -/
def LinkState.code : LinkState → Nat
  | .down => 0 | .bringUp => 1 | .up => 2 | .retired => 3

/-- LK_STATUS (Table 15). -/
def State.lkStatus (s : State) (n : LinkId) : Word :=
  let k := s.link n
  fields [(k.state.code, 0), (linkRole (s.sect secLink) n.val, 4), (k.slState.toNat, 8),
    (s.unanswered fun o => o.kind != .read && o.route == .link n, 32)]

/-- DBG_CTL (Table 16 of "Block boundary and ports"). -/
def Core.dbgCtl (k : Core) : Word := fields [(b2n k.hold, 3), (k.berthSel.val, 8), (b2n k.traceEn, 11)]

/-- DBG_STAT (Table 17). -/
def Core.dbgStat (k : Core) : Word :=
  fields [(b2n k.halted, 0), (k.reason.toNat, 1), (b2n k.atestBusy, 4), (b2n k.atestFail, 5)]

/-- The berth that a core's debug window shows. -/
def State.shownBerth (s : State) (n : CoreId) : Berth := s.berth n (s.core n).berthSel

/-- The value that a register reads as; a WO field reads zero. -/
def State.regValue (s : State) : HReg → Word
  | .siEnable => s.si.enable.setWidth 64
  | .siCommit | .bwKeep | .inject | .dbgAtest _ => 0
  | .siCommitStatus =>
    fields [(s.si.csState.toNat, 0), (s.si.csSection.toNat, 8), (s.si.csReason.toNat, 16), (s.si.pendingBits, 32)]
  | .siHarbour => s.si.notice.setWidth 64
  | .siHarbourStatus => s.si.harbourStatus
  | .staging off => BitVec.ofNat 64 (s.si.staged off 0 64)
  | .bwStatus => s.bwStatus
  | .bwAttn => s.attnBits.setWidth 64
  | .bwPend k => (s.bw.pendOf k.val).setWidth 64
  | .bwOutctl => s.bw.release.setWidth 64
  | .capInfo k => s.bw.caps[k].info
  | .capAddr k => s.bw.caps[k].ev.addr.setWidth 64
  | .capTime k => s.bw.caps[k].time
  | .mark0 => fields [(s.bw.markCore.toNat, 0), (s.bw.markSlice.toNat, 32), (s.bw.markPort.toNat, 48)]
  | .mark1 => s.bw.markLink.setWidth 64
  | .logctl => fields [(b2n s.bw.logEn, 0), (s.bw.logSize.toNat, 1), (s.bw.logBase.toNat, 12)]
  | .logstat => fields [(s.bw.logBuf.length, 0), (s.bw.logLost.toNat, 32), (b2n s.bw.logErr, 40)]
  | .ckStatus => s.ckStatus
  | .ckGate => s.ck.gates.setWidth 64
  | .ckDrift => fields [(s.ck.dAlt.toNat, 0), (s.ck.dLocal.toNat, 16)]
  | .ckCtl => s.ckCtl
  | .doorbell => fields [(bitsWhere 16 fun i => s.offered (0x10 + i) .doorbell, 16)]
  | .tsave => fields [(bitsWhere 16 fun i => (s.tile (Fin.ofNat 16 i)).save.isSome, 16)]
  | .l1ctl => fields [(s.l2.ien.toNat, 0), (s.l2.den.toNat, 16)]
  | .maint => fields [(b2n s.l2.maintBusy, 8)]
  | .tide => fields [(s.l2.order.length, 0), (s.tideLimit, 32)]
  | .l2Atest => fields [(b2n s.l2.atestBusy, 8), (b2n s.l2.atestFail, 9)]
  | .pfskip n => s.l2.skips[n].setWidth 64
  | .poison n => fields [(if s.l2.tested then (Config.testPoison n.val).toNat else (s.l2.poisonOf n.val).length, 0)]
  | .qyStatus n => s.qyStatus n
  | .qyScrub n => fields [((s.engine n).interval.toNat, 0), (b2n (s.engine n).scrubEn, 32)]
  | .qyLerr n => fields [((s.engine n).lerrA.toNat, 0), ((s.engine n).lerrC.toNat, 48), (b2n (s.engine n).lerrV, 63)]
  | .qyXflag n w => fields ((List.range 16).map fun i => ((s.xflag n.val (16 * w.val + i)).toNat, 4 * i))
  | .dkStatus => s.dkStatus
  | .hwChain i => s.hwStatus i.val
  | .lkStatus n => s.lkStatus n
  | .lkCal n => fields [((s.link n).tlink.toNat, 0), ((s.link n).rtt.toNat, 32)]
  | .lkErr n => fields [((s.link n).crcFail.toNat, 0), ((s.link n).replays.toNat, 16)]
  | .dbgCtl n => (s.core n).dbgCtl
  | .dbgStat n => (s.core n).dbgStat
  | .dbgG n r => (s.shownBerth n).reg r
  | .dbgP n => ((s.shownBerth n).p ||| 1).setWidth 64
  | .dbgPc n => (s.shownBerth n).pc &&& ~~~(HReg.dbgPc n).reserved
  | .dbgCr n r => s.crValue n (s.core n).berthSel r

/-- What a read clears (RC fields). -/
def State.afterRead (s : State) : HReg → State
  | .bwStatus => s.mapBw fun b => { b with lostq := 0 }
  | .logstat => s.mapBw fun b => { b with logLost := 0 }
  | .pfskip n => { s with l2 := { s.l2 with skips := s.l2.skips.set n 0 } }
  | .lkErr n => s.setLink n { s.link n with replays := 0, crcFail := 0 }
  | _ => s

-- Writing ------------------------------------------------------------------------------------------------------------------------------

/-- A write that took effect. -/
def took (s : State) : State × Option Reply := (s, some (.done 0))

/-- A write that changed nothing. -/
def turnAway (s : State) (r : Reply) : State × Option Reply := (s, some r)

/-- SI_ENABLE past its reserved bits (R58-R60): a request that passes starts a check and is answered when that ends. -/
def State.writeEnable (s : State) (id : HostId) (v : Word) : State × Option Reply :=
  let asks := allUnits.filter fun u => bitAt v u.bit && (!s.enabled u || (!u.isCore && !(s.pendingOf u).isEmpty))
  let drops := allUnits.filter fun u => !bitAt v u.bit && s.enabled u
  if 1 < asks.length + drops.length then turnAway s (.refused 0x0003)
  else match asks, drops with
    | u :: _, _ =>
      let busy := match s.si.commit with | some j => u.sections.contains j.sect || j.sect == secManifest | none => false
      if busy then turnAway s .retry
      else if s.si.harbour.closing then turnAway s (.refused 0x0007)
      else if !s.prereqs u then turnAway s (.refused 0x0004)
      else (s.mapSi fun i => { i with check := some (u, id) }, none)
    | [], u :: _ =>
      if s.si.harbour.closing then turnAway s (.refused 0x0007)
      else if u = .clock ∨ u = .safety then turnAway s (.refused 0x0008)
      else if s.hasDependent u then turnAway s (.refused 0x0005)
      else if s.inFlight u then turnAway s (.refused 0x0007)
      else took (s.releaseUnit u)
    | [], [] => took s

/-- SI_COMMIT while no commit is busy (Table 4, R54). -/
def State.writeCommit (s : State) (v : Word) : State × Option Reply :=
  let id := v.toNat % 256
  if bitAt v 8 then
    if sectReserved id then turnAway s (.refused 0x0106) else took (s.mapSi fun i => { i with pend := adel id i.pend })
  else took (s.startCommit id)

/-- SI_HARBOUR (Table 5 of "Operating at scale"). A GO or REOPEN in a state that it does not act in changes nothing. -/
def State.writeHarbour (s : State) (v : Word) : State × Option Reply :=
  let go := bitAt v 32
  let reopen := bitAt v 33
  let notice := v.toNat % 1024
  let set (t : State) : State := t.mapSi fun i => { i with notice := BitVec.ofNat 10 notice }
  if (go && reopen) || notice == 0 || 1000 < notice then turnAway s (.refused 0x0006)
  else if go then took (if s.si.harbour = .open then (set s).startNotice else s)
  else if reopen then took (if s.si.harbour = .closed then (set s).reopen else s)
  else took (set s)

/-- The staging area with 8 bytes replaced. -/
def Si.stage (i : Si) (off : Nat) (v : Word) : Si :=
  let low := i.staging % 2 ^ (8 * off)
  let high := i.staging >>> (8 * off + 64)
  { i with staging := low + v.toNat * 2 ^ (8 * off) + high * 2 ^ (8 * off + 64) }

/-- The W1C fields of BW_STATUS (R332, R333), judged on the state before the write. -/
def Breakwater.writeStatus (b : Breakwater) (v : Word) : Breakwater :=
  let free := b.pendF == 0 && !b.stopA && !b.stopB && !b.stopFault && !b.keepExp
  { b with
    safe := b.safe && !(bitAt v 55 && free)
    stopFault := b.stopFault && !(bitAt v 54 && b.discCnt == 0) }

/-- The W1C bits of a pending register (Table 4): an F bit clears only after the reset that it waits for. -/
def Breakwater.clearPend (b : Breakwater) (k : Fin 3) (v : BitVec 41) : Breakwater :=
  if k = 0 then { b with pendC := b.pendC &&& ~~~v }
  else if k = 1 then { b with pendU := b.pendU &&& ~~~v }
  else if b.doubleF then b
  else { b with pendF := b.pendF &&& ~~~(v &&& b.freed) }

/-- A write of 1 to VALID of a capture (R326). -/
def Breakwater.clearCap (b : Breakwater) (k : Fin 3) : Breakwater :=
  if k.val = 2 ∧ (b.doubleF = true ∨ b.capFreed = false) then b else { b with caps := b.caps.set k Capture.empty }

/-- BW_INJECT (R340): the fault reaches the collector as if its source had detected it, and its handling completes at once; a link of
source 0x20 is retired. -/
def State.injectFault (s : State) (src inst : Nat) : State :=
  let e := plainFault src inst
  let t := (s.sense e).arriveFault { ev := e, time := s.time, injected := true }
  if src = 0x20 ∧ inst < 48 ∧ t.enabled .link = true then t.dropLink (Fin.ofNat 48 inst) else t

/-- BW_INJECT: TEST_MODE first, then the reserved bits and the source id. -/
def State.writeInject (s : State) (v : Word) : State × Option Reply :=
  if !s.testMode then turnAway s .denied
  else if v &&& HReg.inject.reserved != 0 then turnAway s (.refused 0x0001)
  else if 0x28 < v.toNat % 64 then turnAway s (.refused 0x0006)
  else took (if bitAt v 16 then s.injectFault (v.toNat % 64) (v.toNat / 256 % 256) else s)

/-- BW_LOGCTL (R345): the write that sets EN takes the ring and reads PUT and TAKE from its control slot. -/
def State.writeLogctl (s : State) (v : Word) : State :=
  let base : BitVec 36 := BitVec.ofNat 36 (v.toNat / 4096)
  let size : BitVec 4 := BitVec.ofNat 4 (v.toNat / 2)
  let en := bitAt v 0
  if en && !s.bw.logEn then
    let a := base.toNat * 4096
    let put : Word := BitVec.ofNat 64 ((s.engineWord a).getD 0)
    let take : Word := BitVec.ofNat 64 ((s.engineWord (a + 8)).getD 0)
    s.mapBw fun b =>
      { b with logBase := base, logSize := size, logEn := true, ringBase := base, ringSize := size, logPut := put,
               logTake := take }
  else s.mapBw fun b => { b with logBase := base, logSize := size, logEn := en }

/-- The units that a gate serves (R315). -/
def gateUnits (i : Nat) : List EnUnit :=
  match i with
  | 16 => [.l2, .epilogue, .pilot]
  | 17 => [.memory, .quay]
  | 18 => [.dock, .hawser]
  | 19 => [.link]
  | 20 => []
  | n => [.core (Fin.ofNat 16 n)]

/-- The gates whose parent is gate `i`. -/
def gateChildren (i : Nat) : List Nat := if i = 16 then 17 :: 18 :: List.range 16 else if i = 18 then [19] else []

/-- The parent of a gate. -/
def gateParent (i : Nat) : Option Nat := if i < 16 ∨ i = 17 ∨ i = 18 then some 16 else if i = 19 then some 18 else none

/-- The code that one gate's change meets, 0 for none. -/
def State.gateCode (s : State) (v : BitVec 21) (i : Nat) : Nat :=
  let was := bitAt s.ck.gates i
  let now := bitAt v i
  firstCode [
    (was && !now && (gateUnits i).any s.enabled, 0x0002),
    (was && !now && (gateChildren i).any (bitAt v ·), 0x0005),
    (!was && now && (match gateParent i with | some p => !bitAt v p | none => false), 0x0004)]

/-- CK_GATE (R315). -/
def State.writeGate (s : State) (w : Word) : State × Option Reply :=
  let v : BitVec 21 := w.setWidth 21
  match (List.range 21).find? fun i => s.gateCode v i != 0 with
  | some i => turnAway s (.refused (s.gateCode v i))
  | none => took (s.mapCk fun k => { k with gates := v })

/-- PL_DOORBELL (R129). A ring while LATCHED is 1 merges into the offers that targets still hold; DESIGN CHOICE (log entry 102): it is
offered anew to a target that has accepted the earlier ring. -/
def State.writeDoorbell (s : State) (v : Word) : State :=
  (List.range 16).foldl (fun s i => if bitAt v i then s.offerEvent (0x10 + i) .doorbell else s) s

/-- PL_TSAVE (R120): a save that is not in progress becomes due after the entries that are in the queue. -/
def State.writeTsave (s : State) (v : Word) : State :=
  allCores.foldl (fun s c =>
    let t := s.tile c
    if bitAt v c.val && t.save.isNone then
      let u := s.setTile c { t with save := some t.queue.length }
      if s.meshRuns then u.tileSaveDue c else u
    else s) s

/-- L2_MAINT (R212): the operation acts on every slice, and BUSY reads 1 until every slice has finished. -/
def State.writeMaint (s : State) (v : Word) : State :=
  let op := v.toNat % 4
  if op = 0 ∨ s.l2.maintBusy = true ∨ s.meshRuns = false then s
  else
    let t := if op = 2 then s.invalidateAll else if op = 1 then s.cleanAll else s.cleanAll.invalidateAll
    { t with l2 := { t.l2 with maintBusy := true } }

/-- L2_ATEST (R222). -/
def State.writeL2Atest (s : State) (v : Word) : State × Option Reply :=
  if !bitAt v 0 then took s
  else if !s.testMode then turnAway s .denied
  else if s.enabled .l2 then turnAway s (.refused 0x0002)
  else took { s with l2 := { s.l2 with atestBusy := true } }

/-- DBG_ATEST of a core (R46). -/
def State.writeCoreAtest (s : State) (n : CoreId) (v : Word) : State × Option Reply :=
  if !bitAt v 0 then took s
  else if !s.testMode then turnAway s .denied
  else if s.enabled (.core n) then turnAway s (.refused 0x0002)
  else took (s.setCore n { s.core n with atestBusy := true })

/-- QY_XFLAG_w: the flags written 1 clear. -/
def State.clearXflags (s : State) (n : SliceId) (w : Fin 256) (v : Word) : State :=
  (List.range 16).foldl (fun s i =>
    let key := 4096 * n.val + 16 * w.val + i
    let left := s.xflag n.val (16 * w.val + i) &&& ~~~BitVec.ofNat 3 (v.toNat >>> (4 * i))
    { s with qy := { s.qy with flags := if left = 0 then adel key s.qy.flags else aput key left s.qy.flags } }) s

/-- DBG_CTL (R45): the settings, then HALT, RESUME and STEP. -/
def State.writeDbgCtl (s : State) (n : CoreId) (v : Word) : State :=
  let sel : BerthId := Fin.ofNat 8 (v.toNat / 256)
  let s := s.setCore n { s.core n with hold := bitAt v 3, berthSel := sel, traceEn := bitAt v 11 }
  let s := if bitAt v 0 && !(s.core n).halted then s.haltCore n 1 else s
  let s := if bitAt v 1 && (s.core n).halted then s.resumeCore n else s
  if bitAt v 2 && (s.core n).halted then s.stepCore n else s

/-- A berth register of a halted core (R45): the refusals of a CRWR that would raise illegal opcode, then the write. -/
def State.writeBerth (s : State) (r : HReg) (v : Word) : State × Option Reply :=
  match r with
  | .dbgG n g => took (s.mapBerth n (s.core n).berthSel fun y => y.setReg g v)
  | .dbgP n => took (s.mapBerth n (s.core n).berthSel fun y => { y with p := v.setWidth 8 ||| 1 })
  | .dbgPc n => took (s.mapBerth n (s.core n).berthSel fun y => { y with pc := v })
  | .dbgCr n c =>
    if c = .time ∨ c.badCode v = true then turnAway s (.refused 0x0006) else took (s.crApply n (s.core n).berthSel c v)
  | _ => took s

/-- A write past RETRY and the reserved bits. -/
def State.writeReg (s : State) (id : HostId) (r : HReg) (v : Word) : State × Option Reply :=
  match r with
  | .siEnable => s.writeEnable id v
  | .siCommit => s.writeCommit v
  | .siHarbour => s.writeHarbour v
  | .staging off => took (s.mapSi fun i => i.stage off v)
  | .bwStatus => took (s.mapBw fun b => b.writeStatus v)
  | .bwAttn => took (s.mapBw fun b => { b with attn := b.attn &&& ~~~v.setWidth 16 })
  | .bwPend k => took (s.mapBw fun b => b.clearPend k (v.setWidth 41))
  | .bwOutctl =>
    took (s.mapBw fun b => { b with release := v.setWidth 10, armed := if b.safe then 0 else v.setWidth 10 })
  | .bwKeep => took (if bitAt v 0 then s.mapBw fun b => { b with keepExp := false, keepAt := s.time } else s)
  | .capInfo k => took (if bitAt v 63 then s.mapBw fun b => b.clearCap k else s)
  | .logctl => took (s.writeLogctl v)
  | .logstat => took (if bitAt v 40 then s.mapBw fun b => { b with logErr := false } else s)
  | .ckStatus => took (if bitAt v 40 then s.mapCk fun k => { k with timeStep := false } else s)
  | .ckGate => s.writeGate v
  | .ckCtl =>
    if v.toNat % 1024 ≠ 0 then turnAway s (.refused 0x0006)
    else took (if bitAt v 63 then s.mapCk fun k => { k with reselect := true } else s)
  | .doorbell => took (s.writeDoorbell v)
  | .tsave => took (s.writeTsave v)
  | .l1ctl => took { s with l2 := { s.l2 with ien := v.setWidth 16, den := BitVec.ofNat 16 (v.toNat / 65536) } }
  | .maint => took (s.writeMaint v)
  | .l2Atest => s.writeL2Atest v
  | .qyStatus n =>
    let e := s.engine n
    took (s.setEngine n { e with psat := e.psat && !bitAt v 0, pinv := e.pinv && !bitAt v 1 })
  | .qyScrub n =>
    if v.toNat % 65536 < 16 then turnAway s (.refused 0x0006)
    else took (s.setEngine n { s.engine n with interval := v.setWidth 16, scrubEn := bitAt v 32 })
  | .qyLerr n =>
    let e := s.engine n
    took (s.setEngine n { e with lerrV := e.lerrV && !bitAt v 63 })
  | .qyXflag n w => took (s.clearXflags n w v)
  | .hwChain i =>
    let x := s.chain i.val
    took (s.setChain i.val { x with sat := x.sat && !bitAt v 33, err := x.err && !bitAt v 34 })
  | .dbgCtl n => took (s.writeDbgCtl n v)
  | .dbgAtest n => s.writeCoreAtest n v
  | .dbgG _ _ | .dbgP _ | .dbgPc _ | .dbgCr _ _ => s.writeBerth r v
  | .inject => s.writeInject v
  | .siCommitStatus | .siHarbourStatus | .capAddr _ | .capTime _ | .mark0 | .mark1 | .ckDrift | .tide | .pfskip _
  | .poison _ | .dkStatus | .lkStatus _ | .lkCal _ | .lkErr _ | .dbgStat _ => took s

-- One access ------------------------------------------------------------------------------------------------------------------------------

/-- Whether a window's unit has an active section with a parity error (R64, source 0x0C). -/
def State.windowDamaged (s : State) (w : Nat) : Bool :=
  match windowUnit w with
  | some u => u.sections.any s.si.parity.contains
  | none => false

/-- Whether a commit or a check occupies the target of a write (R56, R61). -/
def State.occupied (s : State) (w : Nat) (r : HReg) : Bool :=
  (match r with
    | .siCommit | .staging _ => s.si.commit.isSome
    | _ => false) ||
    (match s.si.check, windowUnit w with
    | some (u, _), some x => u == x
    | _, _ => false)

/-- Whether CORE_PLAN locks the debug window `w` (R45). -/
def State.locked (s : State) (w : Nat) : Bool := 16 ≤ w && w < 32 && planLock (s.sect secCore) (w - 16)

/-- Whether a register belongs to a berth of a core that is not halted (R45). -/
def State.berthClosed (s : State) (r : HReg) : Bool :=
  match r.berthCore with
  | some n => !(s.core n).halted
  | none => false

/-- An aligned access to the host window: the state after it, and its reply unless that waits for a check. -/
def State.access (s : State) (id : HostId) (write : Bool) (a : Nat) (v : Word) : State × Option Reply :=
  let w := windowOf a id
  match regAt a with
  | none => turnAway s .noaddr
  | some r =>
    if s.locked w then turnAway s .denied
    else if write then
      if s.occupied w r then turnAway s .retry
      else if s.berthClosed r then turnAway s (.refused 0x0113)
      else if r != .inject && v &&& r.reserved != 0 then turnAway s (.refused 0x0001)
      else s.writeReg id r v
    else if s.windowDamaged w then turnAway s .dataerr
    else if s.berthClosed r then turnAway s (.refused 0x0113)
    else (s.afterRead r, some (.done (s.regValue r)))

end Sys2Proof.Machine
end

