-- ==== Sys2Proof/Machine/HostCommands.lean ====
section
/-! DEFINITION. The commands of the host port (R29-R33) and of the debug port (R47): requests, the writes and reads that have a
command of their own, the end of a consistency check and of the tests that a write starts, and replies. -/

namespace Sys2Proof.Machine

-- Requests and replies (R29-R33) ------------------------------------------------------------------------------------------------

/-- Fill in the reply of an outstanding request. -/
def State.answer (s : State) (id : HostId) (r : Reply) : State :=
  let l := s.host.outstanding.map fun q => if q.id = id then { q with reply := some r } else q
  { s with host := { s.host with outstanding := l } }

/-- Perform a request that has transferred. -/
def State.hostServe (s : State) (id : HostId) (write : Bool) (a : Nat) (v : Word) : State :=
  match s.access id write a v with
  | (t, some r) => t.answer id r
  | (t, none) => t

/-- A request transfers (R29) unless its id has a request outstanding or the root is not locked. It is answered WIDTH (R30),
waits behind a check in the SI window (R33), or is performed. -/
def State.hostAccess (s : State) (id : HostId) (write : Bool) (a : Nat) (be : BitVec 8) (v : Word) : State :=
  if !s.rootRuns || s.host.outstanding.any (·.id == id) then s
  else
    let q : HostReq := { id := id, window := windowOf a id, reply := none }
    let t : State := { s with host := { s.host with outstanding := s.host.outstanding ++ [q] } }
    if a % 8 ≠ 0 ∨ be ≠ 0xFF then t.answer id .width
    else if q.window = 0 ∧ s.si.check.isSome then
      let j : HostJob := { id := id, write := write, addr := BitVec.ofNat 24 a, wdata := v }
      { t with host := { t.host with waiting := t.host.waiting ++ [j] } }
    else t.hostServe id write a v

/-- A write of a whole register. -/
def State.hostWrite (s : State) (id : HostId) (a : Nat) (v : Word) : State := s.hostAccess id true a 0xFF v

/-- HOST_REQUEST (R29-R33). -/
def execHostRequest (id : HostId) (write : Bool) (addr : BitVec 24) (be : BitVec 8) (wdata : Word) (s : State) :
    Host.Outcome State Fault Refusal :=
  .next (s.hostAccess id write addr.toNat be wdata)

/-- The request of an id whose reply may leave: it is decided, and no earlier request of its window is outstanding (R32). -/
def replyReady (id : HostId) : List HostReq → List Nat → Option (HostReq × Reply)
  | [], _ => none
  | q :: t, seen =>
    if q.id = id then (if seen.contains q.window then none else q.reply.map fun r => (q, r))
    else replyReady id t (q.window :: seen)

/-- HOST_REPLY (R31, R32, R65): the reply is presented, with ATTN sampled now. -/
def execHostReply (id : HostId) (s : State) : Host.Outcome State Fault Refusal :=
  match replyReady id s.host.outstanding [] with
  | some (q, r) =>
    if !s.rootRuns then .next s
    else
      let rsp : HostRsp :=
        { id := id, status := BitVec.ofNat 8 (16 * s.topCause + r.outcome.toNat), data := r.data, rdata := r.rdata }
      .next { s with host := { s.host with outstanding := s.host.outstanding.filter (· != q), rsp := rsp }
                     pins := { s.pins with hpRsp := true } }
  | none => .next s

/-- REGISTER_WRITE (R9, R11). -/
def execRegisterWrite (id : HostId) (addr : BitVec 24) (wdata : Word) (s : State) : Host.Outcome State Fault Refusal :=
  .next (s.hostAccess id true addr.toNat 0xFF wdata)

/-- READ_CLEAR (R9): a read, which clears the RC fields of its register. -/
def execReadClear (id : HostId) (addr : BitVec 24) (s : State) : Host.Outcome State Fault Refusal :=
  .next (s.hostAccess id false addr.toNat 0xFF 0)

/-- STAGING_WRITE (R53-R56): image offset x lies at 0x40_0000 + x. -/
def execStagingWrite (id : HostId) (offset : BitVec 24) (wdata : Word) (s : State) : Host.Outcome State Fault Refusal :=
  .next (s.hostWrite id (0x400000 + offset.toNat) wdata)

/-- COMMIT (R54). -/
def execCommit (id : HostId) (sect : BitVec 8) (s : State) : Host.Outcome State Fault Refusal :=
  .next (s.hostWrite id 0x10 (sect.setWidth 64))

/-- DISCARD (Table 4 of "Structure image, enabling and host replies"). -/
def execDiscard (id : HostId) (sect : BitVec 8) (s : State) : Host.Outcome State Fault Refusal :=
  .next (s.hostWrite id 0x10 (sect.setWidth 64 ||| 0x100))

/-- UNIT_REQUEST (R58, R59): a write of SI_ENABLE. -/
def execUnitRequest (id : HostId) (value : Word) (s : State) : Host.Outcome State Fault Refusal :=
  .next (s.hostWrite id 0x08 value)

/-- UNIT_RELEASE (R58, R60): a write of SI_ENABLE. -/
def execUnitRelease (id : HostId) (value : Word) (s : State) : Host.Outcome State Fault Refusal :=
  .next (s.hostWrite id 0x08 value)

/-- Perform the requests that wait behind a check, in order, until one of them starts a check of its own. -/
def State.serveWaiting (s : State) : Nat → State
  | 0 => s
  | n + 1 =>
    match s.si.check, s.host.waiting with
    | none, j :: rest =>
      let t : State := { s with host := { s.host with waiting := rest } }
      (t.hostServe j.id j.write j.addr.toNat j.wdata).serveWaiting n
    | _, _ => s

/-- CONSISTENCY_CHECK_DONE (R59, R64): the check accepts, or it refuses and discards the pending sections of the unit. -/
def execConsistencyCheckDone (s : State) : Host.Outcome State Fault Refusal :=
  match s.si.check with
  | some (u, id) =>
    if !s.live then .next s
    else
      let t := s.mapSi fun i => { i with check := none }
      let code := t.checkReason u
      let t := if code = 0 then (t.accept u).answer id (.done 0) else (t.discardPending u).answer id (.refused code)
      .next (t.serveWaiting t.host.waiting.length)
  | none => .next s

-- Writes with a command of their own --------------------------------------------------------------------------------------------------

/-- BW_ATTN_WRITE (R66). -/
def execBwAttnWrite (id : HostId) (value : Word) (s : State) : Host.Outcome State Fault Refusal :=
  .next (s.hostWrite id 0x010008 value)

/-- SAFE_CLEAR (R332). -/
def execSafeClear (id : HostId) (s : State) : Host.Outcome State Fault Refusal :=
  .next (s.hostWrite id 0x010000 (bitsMask 55 55))

/-- STOP_FAULT_CLEAR (R333). -/
def execStopFaultClear (id : HostId) (s : State) : Host.Outcome State Fault Refusal :=
  .next (s.hostWrite id 0x010000 (bitsMask 54 54))

/-- RELEASE (R331, R332). -/
def execRelease (id : HostId) (outputs : BitVec 10) (s : State) : Host.Outcome State Fault Refusal :=
  .next (s.hostWrite id 0x010028 (outputs.setWidth 64))

/-- KICK (R331). -/
def execKick (id : HostId) (s : State) : Host.Outcome State Fault Refusal := .next (s.hostWrite id 0x010030 1)

/-- INJECT (R340). -/
def execInject (id : HostId) (src : BitVec 6) (inst : BitVec 8) (s : State) : Host.Outcome State Fault Refusal :=
  .next (s.hostWrite id 0x010200 (fields [(src.toNat, 0), (inst.toNat, 8), (1, 16)]))

/-- LOG_ENABLE (R345). -/
def execLogEnable (id : HostId) (base : BitVec 36) (sizeLog2 : BitVec 4) (s : State) : Host.Outcome State Fault Refusal :=
  .next (s.hostWrite id 0x010300 (fields [(1, 0), (sizeLog2.toNat, 1), (base.toNat, 12)]))

/-- GATE_WRITE (R315). -/
def execGateWrite (id : HostId) (value : Word) (s : State) : Host.Outcome State Fault Refusal :=
  .next (s.hostWrite id 0x020008 value)

/-- RESELECT (R308). -/
def execReselect (id : HostId) (s : State) : Host.Outcome State Fault Refusal :=
  .next (s.hostWrite id 0x020018 (bitsMask 63 63))

/-- DOORBELL_RING (R129). -/
def execDoorbellRing (id : HostId) (ring : BitVec 16) (s : State) : Host.Outcome State Fault Refusal :=
  .next (s.hostWrite id 0x030000 (ring.setWidth 64))

/-- TILE_SAVE (R120). -/
def execTileSave (id : HostId) (save : BitVec 16) (s : State) : Host.Outcome State Fault Refusal :=
  .next (s.hostWrite id 0x030008 (save.setWidth 64))

/-- CLEAN_ALL (R212). -/
def execCleanAll (id : HostId) (s : State) : Host.Outcome State Fault Refusal := .next (s.hostWrite id 0x040008 1)

/-- INVALIDATE_ALL (R212). -/
def execInvalidateAll (id : HostId) (s : State) : Host.Outcome State Fault Refusal := .next (s.hostWrite id 0x040008 2)

/-- CLEAN_AND_INVALIDATE (R212). -/
def execCleanAndInvalidate (id : HostId) (s : State) : Host.Outcome State Fault Refusal := .next (s.hostWrite id 0x040008 3)

/-- L2_MAINT_DONE (R212): the last slice finishes. -/
def execL2MaintDone (s : State) : Host.Outcome State Fault Refusal :=
  if s.meshRuns then .next { s with l2 := { s.l2 with maintBusy := false } } else .next s

/-- L2_ARRAY_TEST (R222). -/
def execL2ArrayTest (id : HostId) (s : State) : Host.Outcome State Fault Refusal := .next (s.hostWrite id 0x040018 1)

/-- The address of a register of a core's debug window. -/
def dbgAddr (c : CoreId) (offset : Nat) : Nat := 0x100000 + 0x10000 * c.val + offset

/-- CORE_ARRAY_TEST (R46). -/
def execCoreArrayTest (id : HostId) (core : CoreId) (s : State) : Host.Outcome State Fault Refusal :=
  .next (s.hostWrite id (dbgAddr core 0x10) 1)

/-- The tile state of a core after its array test. -/
def testedTile (c : CoreId) : TileState :=
  let pat (a i : Nat) : BitVec 512 := Config.testPattern c.val a i
  let acc (a n : Nat) : Accum :=
    { a16 := false, kcount := 0, cells := (List.range 1024).map fun i => (pat a (1024 * n + i)).setWidth 40 }
  { TileState.cleared with
    tiles := (List.range 8).map fun t => (List.range 32).map fun r => pat 2 (32 * t + r)
    accs := (List.range 4).map (acc 3), lins := (List.range 4).map (acc 4) }

/-- The arrays of a core after its test (R46): registers and tile state hold free patterns (log entry 103); nothing of what the other
arrays held is left, and nothing reads them before the next enable clears them (R213). -/
def Core.tested (k : Core) (c : CoreId) : Core :=
  { k with
    berths := Vector.ofFn fun b => { k.berths[b] with
      g := Vector.ofFn fun r => (Config.testPattern c.val 0 (32 * b.val + r.val)).setWidth 64
      p := (Config.testPattern c.val 1 b.val).setWidth 8 }
    l1i := L1.empty, l1d := L1.empty, lineBuf := [], sb := [], stalled := none, rob := [],
    tile := { k.tile with st := testedTile c } }

/-- The arrays of the L2 after their test (R222): nothing of what they held is left. -/
def L2.afterTest (x : L2) : L2 :=
  { x with lines := [], ptrs := [], order := [], poison := [], scratch := [], scrPoison := [], tested := true }

/-- ARRAY_TEST_DONE (R46, R222): the test of a core, or of the L2, ends with its result and leaves its patterns; the arrays of a unit
that has been enabled meanwhile are cleared already. -/
def execArrayTestDone (core : Option CoreId) (fail : Bool) (s : State) : Host.Outcome State Fault Refusal :=
  if !s.live then .next s
  else
    match core with
    | some c =>
      let k := s.core c
      let k' := { (if s.enabled (.core c) then k else k.tested c) with atestBusy := false, atestFail := fail }
      .next (if k.atestBusy then s.setCore c k' else s)
    | none =>
      let x := { (if s.enabled .l2 then s.l2 else s.l2.afterTest) with atestBusy := false, atestFail := fail }
      .next (if s.l2.atestBusy then { s with l2 := x } else s)

/-- HALT (R45): a write of DBG_CTL that keeps its settings. -/
def execHalt (id : HostId) (core : CoreId) (s : State) : Host.Outcome State Fault Refusal :=
  .next (s.hostWrite id (dbgAddr core 0) ((s.core core).dbgCtl ||| 1))

/-- RESUME (R45). -/
def execResume (id : HostId) (core : CoreId) (s : State) : Host.Outcome State Fault Refusal :=
  .next (s.hostWrite id (dbgAddr core 0) ((s.core core).dbgCtl ||| 2))

/-- STEP (R45). -/
def execStep (id : HostId) (core : CoreId) (s : State) : Host.Outcome State Fault Refusal :=
  .next (s.hostWrite id (dbgAddr core 0) ((s.core core).dbgCtl ||| 4))

/-- BERTH_REGISTER_ACCESS (R45). -/
def execBerthRegisterAccess (id : HostId) (core : CoreId) (write : Bool) (offset : BitVec 16) (wdata : Word) (s : State) :
    Host.Outcome State Fault Refusal :=
  .next (s.hostAccess id write (dbgAddr core offset.toNat) 0xFF wdata)

/-- HARBOUR_GO (R347). -/
def execHarbourGo (id : HostId) (notice : BitVec 10) (s : State) : Host.Outcome State Fault Refusal :=
  .next (s.hostWrite id 0x20 (fields [(notice.toNat, 0), (1, 32)]))

/-- HARBOUR_REOPEN (R351). -/
def execHarbourReopen (id : HostId) (notice : BitVec 10) (s : State) : Host.Outcome State Fault Refusal :=
  .next (s.hostWrite id 0x20 (fields [(notice.toNat, 0), (1, 33)]))

-- The debug port (R47) --------------------------------------------------------------------------------------------------------------------

/-- The three beats of a debug response (Table 20 of "Block boundary and ports"). -/
def debugBeats (cause : Nat) (r : Reply) : List (BitVec 48) :=
  [BitVec.ofNat 48 ((16 * cause + r.outcome.toNat) * 2 ^ 40 + r.data.toNat), BitVec.ofNat 48 (r.rdata.toNat % 2 ^ 32),
    BitVec.ofNat 48 (r.rdata.toNat / 2 ^ 32)]

/-- The access of a debug request word: a reserved bit, an address outside the debug windows, a misaligned address, then as
for the host port. -/
def State.debugAccess (s : State) (req wdata : Word) : State × Option Reply :=
  let a := req.toNat % 2 ^ 24
  if bitsNat req 62 24 ≠ 0 then turnAway s (.refused 0x0001)
  else if a < 0x100000 ∨ 0x200000 ≤ a then turnAway s .noaddr
  else if a % 8 ≠ 0 then turnAway s .width
  else s.access 0 (bitAt req 63) a wdata

/-- DEBUG_REQUEST (R47): it transfers while the DEBUG gate is open, and its response is presented. -/
def execDebugRequest (req wdata : Word) (s : State) : Host.Outcome State Fault Refusal :=
  if !s.live || !bitAt s.ck.gates 20 then .next s
  else
    match s.debugAccess req wdata with
    | (t, some r) => .next { t with dbg := { t.dbg with beats := debugBeats t.topCause r } }
    | (t, none) => .next t

end Sys2Proof.Machine
end

