-- ==== Sys2Proof/Machine/MemPort.lean ====
section
/-! DEFINITION. The memory ports as the chip sees them (R21-R25, R250): requests, responses and acknowledgements. -/

namespace Sys2Proof.Machine

/-- The requests outstanding on a port (R22). -/
def State.port (s : State) (n : SliceId) : List PortReq := s.ports[n]

/-- Replace the requests outstanding on a port. -/
def State.setPort (s : State) (n : SliceId) (l : List PortReq) : State := { s with ports := s.ports.set n l }

/-- The request outstanding under a tag. -/
def State.portReq (s : State) (n : SliceId) (tag : BitVec 9) : Option PortReq := (s.port n).find? (·.tag == tag)

/-- The lines of a request: one, or two from an even line (R21). -/
def reqLines (line : Nat) (len : Bool) : List Nat := if len then [line, line + 1] else [line]

/-- The bit offset of a line in the 128-byte data lanes (R21). -/
def laneOf (line : Nat) : Nat := 512 * (line % 2)

/-- Whether the block may issue a request: on the port of the slice that owns the line (R200), outside the port's known-answer test
(R247), with a free tag, no outstanding access of the other kind to one of its granules (R22, R23), and a 128-byte request only
for a slice (R224), with address bit 6 clear (R21). A slice reads a line that has no miss entry, while one is free (R207). -/
def State.mayRequest (s : State) (n : SliceId) (write : Bool) (client : Client) (line : Nat) (len : Bool) (tag : BitVec 9) : Bool :=
  let miss := client == .slice && !write
  s.quayRuns && s.enabled .memory && sliceOf line == n.val && !(s.engine n).test && !(len && (line % 2 == 1 || client != .slice)) &&
    (s.portReq n tag).isNone && !(miss && (s.missFull n.val || s.missing line)) &&
    !(s.port n).any fun r => r.write != write &&
      (reqLines r.line r.len).any fun l => (reqLines line len).contains l

/-- The signals of a port with a request on them (Table 2 of "Block boundary and ports"). -/
def State.requestPins (s : State) (n : SliceId) (write : Bool) (addr : BitVec 42) (len : Bool) (tag : BitVec 9) (data : BitVec 1024)
    (strb : BitVec 128) : State :=
  let p := s.pins.mp[n]
  let p := if write then { p with wrValid := true, wrAddr := addr, wrLen := len, wrTag := tag, wrData := data, wrStrb := strb }
    else { p with rdValid := true, rdAddr := addr, rdLen := len, rdTag := tag }
  { s with pins := { s.pins with mp := s.pins.mp.set n p } }

/-- A write request carries one line to memory: a slice's as it is, the others' past the tag check of the owning slice (R208,
R223). -/
def State.requestWrite (s : State) (client : Client) (line : Nat) (data : Line) (mask : BitVec 64) : State :=
  if client = .slice then s.memWrite line data mask else s.engineWrite line data mask

/-- MEMORY_REQUEST (R21): a request transfers and its tag is outstanding; a write carries its data and strobes, and strobes
outside its lanes write nothing. -/
def execMemoryRequest (port : SliceId) (write : Bool) (client : Client) (addr : BitVec 42) (len : Bool) (tag : BitVec 9)
    (data : BitVec 1024) (strb : BitVec 128) (s : State) : Host.Outcome State Fault Refusal :=
  let line := addr.toNat
  if s.mayRequest port write client line len tag then
    let r : PortReq := { tag := tag, write := write, client := client, line := line, len := len }
    let s := (s.setPort port (s.port port ++ [r])).requestPins port write addr len tag data strb
    .next (if write then
      (reqLines line len).foldl (fun s l =>
        s.requestWrite client l (BitVec.ofNat 512 (data.toNat >>> laneOf l)) (BitVec.ofNat 64 (strb.toNat >>> (laneOf l / 8)))) s
    else s)
  else .next s

/-- A line of a read response reaches the slice that asked (R24, R205): the L2 takes the bytes that it lacks, poisoned where
the response was uncorrected. -/
def State.fillLine (s : State) (line : Nat) (data : Line) (bad : Bool) : State :=
  let g : BitVec 8 := if bad then 0xFF else 0
  match s.l2.find line with
  | some x =>
    if x.mask = BitVec.allOnes 64 then s
    else
      let fresh := s.l2.listed line ||| (g &&& ~~~granulesCovered x.mask)
      { s with l2 := s.l2.put { x with data := mergeLine data x.data x.mask, mask := BitVec.allOnes 64,
                                       poison := x.poison ||| fresh } }
  | none =>
    let (s, w) := s.takeWay line
    let x : L2Line :=
      { line := line, way := w, data := data, mask := BitVec.allOnes 64, dirty := false, sharers := 0,
        poison := s.l2.listed line ||| g }
    { s with l2 := { s.l2 with lines := s.l2.lines ++ [x] } }

/-- MASTER of a capture for the client of a port. -/
def clientMaster (c : Client) (port : SliceId) : BitVec 16 :=
  match c with
  | .slice => 0
  | .dock => dockMaster 0
  | .program => quayMaster port.val
  | .scrub => quayMaster port.val

/-- The faults of an ERR field (Table 8): those of scrub reads are recorded under R245. -/
def State.portErr (s : State) (port : SliceId) (r : PortReq) (err : BitVec 2) : State :=
  let scrub := r.client == .scrub
  let ev (src : Nat) : FaultEvent :=
    { plainFault src port.val with access := if r.write then 2 else 1, master := clientMaster r.client port,
                                   addr := BitVec.ofNat 48 (64 * r.line) }
  if err = 0 then s
  else if err = 1 then s.detect (ev (if scrub then 0x1B else 0x18))
  else
    let s := s.detect (ev (if scrub then 0x1C else 0x19))
    if err = 3 then s.detect { ev 0x1A with covered := true } else s

/-- A response or acknowledgement whose tag is not outstanding is discarded (R25). -/
def State.unknownTag (s : State) (port : SliceId) (access : Nat) : State :=
  s.detect { plainFault 0x1A port.val with access := BitVec.ofNat 4 access }

/-- The data of a read response (R24): with no error or a corrected one it is what memory holds; with an uncorrected one a read of
the dock or of a quay program finds it poisoned. The slice that asked takes the line. -/
def State.responseLine (s : State) (client : Client) (line : Nat) (data : Line) (bad : Bool) : State :=
  let s : State :=
    if !bad then { s with mem := cellsPutLine s.mem line data (BitVec.allOnes 64), memBad := adel line s.memBad }
    else if client == .dock || client == .program then { s with memBad := aput line 0xFF s.memBad }
    else s
  if client == .slice && !s.scratchLine line then s.fillLine line data bad else s

/-- MEMORY_READ_RESPONSE (R24): the tag is free again, the data goes to its client, and ERR is recorded. A response under a tag that is
outstanding for a write answers no read, so it is discarded under R25 and the tag stays outstanding (log entry 98). -/
def execMemoryReadResponse (port : SliceId) (tag : BitVec 9) (data : BitVec 1024) (err : BitVec 2) (s : State) :
    Host.Outcome State Fault Refusal :=
  if !s.quayRuns then .next s
  else match s.portReq port tag with
    | some r =>
      if r.write then .next (s.unknownTag port 1)
      else
        let s := s.setPort port ((s.port port).filter (·.tag != tag))
        let s := (reqLines r.line r.len).foldl (fun s l =>
          s.responseLine r.client l (BitVec.ofNat 512 (data.toNat >>> laneOf l)) (2 ≤ err.toNat)) s
        .next (s.portErr port r err)
    | none => .next (s.unknownTag port 1)

/-- MEMORY_WRITE_ACK (R22): the tag is free again, ERR is recorded, and a write of the dock or of a merge entry is complete (R228, R260).
As for a response, an acknowledgement under a read's tag is discarded (log entry 98). -/
def execMemoryWriteAck (port : SliceId) (tag : BitVec 9) (err : BitVec 2) (s : State) : Host.Outcome State Fault Refusal :=
  if !s.quayRuns then .next s
  else match s.portReq port tag with
    | some r =>
      if r.write then
        let s := (s.setPort port ((s.port port).filter (·.tag != tag))).portErr port r err
        .next (if r.client == .dock then s.dockAcked r.line (2 ≤ err.toNat) else s)
      else .next (s.unknownTag port 2)
    | none => .next (s.unknownTag port 2)

/-- MEMORY_RESPONSE_LATE (R250): a response or acknowledgement has not come within TMEM_MAX. -/
def execMemoryResponseLate (port : SliceId) (tag : BitVec 9) (s : State) : Host.Outcome State Fault Refusal :=
  match s.portReq port tag with
  | some r =>
    if s.quayRuns && s.enabled .memory then
      let acc : BitVec 4 := if r.write then 2 else 1
      let at_ : BitVec 48 := BitVec.ofNat 48 (64 * r.line)
      .next (s.detect { plainFault 0x1A port.val with access := acc, master := clientMaster r.client port, addr := at_ })
    else .next s
  | none => .next s

end Sys2Proof.Machine
end

