-- ==== Sys2Proof/Machine/Dispatch.lean ====
section
/-! DEFINITION. One arm per command: a direct call of its meaning, or the command rejected by name. -/

namespace Sys2Proof.Machine

def exec (i : Instr) (s : State) : Host.Outcome State Fault Refusal :=
  match i with
  | .unassignedMajor core word => Sys2Proof.Machine.execUnassignedMajor core word s
  | .add x rd ra rb => Sys2Proof.Machine.execAdd x rd ra rb s
  | .sub x rd ra rb => Sys2Proof.Machine.execSub x rd ra rb s
  | .and x rd ra rb => Sys2Proof.Machine.execAnd x rd ra rb s
  | .or x rd ra rb => Sys2Proof.Machine.execOr x rd ra rb s
  | .xor x rd ra rb => Sys2Proof.Machine.execXor x rd ra rb s
  | .andn x rd ra rb => Sys2Proof.Machine.execAndn x rd ra rb s
  | .sll x rd ra rb => Sys2Proof.Machine.execSll x rd ra rb s
  | .srl x rd ra rb => Sys2Proof.Machine.execSrl x rd ra rb s
  | .sra x rd ra rb => Sys2Proof.Machine.execSra x rd ra rb s
  | .ror x rd ra rb => Sys2Proof.Machine.execRor x rd ra rb s
  | .min x rd ra rb => Sys2Proof.Machine.execMin x rd ra rb s
  | .max x rd ra rb => Sys2Proof.Machine.execMax x rd ra rb s
  | .minu x rd ra rb => Sys2Proof.Machine.execMinu x rd ra rb s
  | .maxu x rd ra rb => Sys2Proof.Machine.execMaxu x rd ra rb s
  | .addw x rd ra rb => Sys2Proof.Machine.execAddw x rd ra rb s
  | .subw x rd ra rb => Sys2Proof.Machine.execSubw x rd ra rb s
  | .sllw x rd ra rb => Sys2Proof.Machine.execSllw x rd ra rb s
  | .srlw x rd ra rb => Sys2Proof.Machine.execSrlw x rd ra rb s
  | .sraw x rd ra rb => Sys2Proof.Machine.execSraw x rd ra rb s
  | .addi x rd ra imm => Sys2Proof.Machine.execAddi x rd ra imm s
  | .andi x rd ra imm => Sys2Proof.Machine.execAndi x rd ra imm s
  | .ori x rd ra imm => Sys2Proof.Machine.execOri x rd ra imm s
  | .xori x rd ra imm => Sys2Proof.Machine.execXori x rd ra imm s
  | .slli x rd ra sh => Sys2Proof.Machine.execSlli x rd ra sh s
  | .srli x rd ra sh => Sys2Proof.Machine.execSrli x rd ra sh s
  | .srai x rd ra sh => Sys2Proof.Machine.execSrai x rd ra sh s
  | .rori x rd ra sh => Sys2Proof.Machine.execRori x rd ra sh s
  | .movi x rd imm => Sys2Proof.Machine.execMovi x rd imm s
  | .orsh x rd imm => Sys2Proof.Machine.execOrsh x rd imm s
  | .mul x rd ra rb => Sys2Proof.Machine.execMul x rd ra rb s
  | .mulh x rd ra rb => Sys2Proof.Machine.execMulh x rd ra rb s
  | .mulhu x rd ra rb => Sys2Proof.Machine.execMulhu x rd ra rb s
  | .mulw x rd ra rb => Sys2Proof.Machine.execMulw x rd ra rb s
  | .div x rd ra rb => Sys2Proof.Machine.execDiv x rd ra rb s
  | .divu x rd ra rb => Sys2Proof.Machine.execDivu x rd ra rb s
  | .rem x rd ra rb => Sys2Proof.Machine.execRem x rd ra rb s
  | .remu x rd ra rb => Sys2Proof.Machine.execRemu x rd ra rb s
  | .divw x rd ra rb => Sys2Proof.Machine.execDivw x rd ra rb s
  | .divuw x rd ra rb => Sys2Proof.Machine.execDivuw x rd ra rb s
  | .remw x rd ra rb => Sys2Proof.Machine.execRemw x rd ra rb s
  | .remuw x rd ra rb => Sys2Proof.Machine.execRemuw x rd ra rb s
  | .cmp x pd ra rb cond => Sys2Proof.Machine.execCmp x pd ra rb cond s
  | .cmpi x pd ra imm cond => Sys2Proof.Machine.execCmpi x pd ra imm cond s
  | .pand x pd pa pb => Sys2Proof.Machine.execPand x pd pa pb s
  | .por x pd pa pb => Sys2Proof.Machine.execPor x pd pa pb s
  | .pxor x pd pa pb => Sys2Proof.Machine.execPxor x pd pa pb s
  | .pandn x pd pa pb => Sys2Proof.Machine.execPandn x pd pa pb s
  | .pnot x pd pa => Sys2Proof.Machine.execPnot x pd pa s
  | .clz x rd ra => Sys2Proof.Machine.execClz x rd ra s
  | .ctz x rd ra => Sys2Proof.Machine.execCtz x rd ra s
  | .popc x rd ra => Sys2Proof.Machine.execPopc x rd ra s
  | .bswap x rd ra => Sys2Proof.Machine.execBswap x rd ra s
  | .sextb x rd ra => Sys2Proof.Machine.execSextb x rd ra s
  | .sexth x rd ra => Sys2Proof.Machine.execSexth x rd ra s
  | .sextw x rd ra => Sys2Proof.Machine.execSextw x rd ra s
  | .zextw x rd ra => Sys2Proof.Machine.execZextw x rd ra s
  | .sel x rd ra rb ps => Sys2Proof.Machine.execSel x rd ra rb ps s
  | .ldu x rd ra size imm => Sys2Proof.Machine.execLdu x rd ra size imm s
  | .lds x rd ra size imm => Sys2Proof.Machine.execLds x rd ra size imm s
  | .st x rd ra size imm => Sys2Proof.Machine.execSt x rd ra size imm s
  | .lsxLoad x rd ra rb size signed => Sys2Proof.Machine.execLsxLoad x rd ra rb size signed s
  | .lsxStore x rd ra rb size signed => Sys2Proof.Machine.execLsxStore x rd ra rb size signed s
  | .lsxLoadPostinc x rd ra rb size signed => Sys2Proof.Machine.execLsxLoadPostinc x rd ra rb size signed s
  | .lsxStorePostinc x rd ra rb size signed => Sys2Proof.Machine.execLsxStorePostinc x rd ra rb size signed s
  | .swap x rd ra rb wide => Sys2Proof.Machine.execSwap x rd ra rb wide s
  | .amoAdd x rd ra rb wide => Sys2Proof.Machine.execAmoAdd x rd ra rb wide s
  | .amoAnd x rd ra rb wide => Sys2Proof.Machine.execAmoAnd x rd ra rb wide s
  | .amoOr x rd ra rb wide => Sys2Proof.Machine.execAmoOr x rd ra rb wide s
  | .amoXor x rd ra rb wide => Sys2Proof.Machine.execAmoXor x rd ra rb wide s
  | .amoMin x rd ra rb wide => Sys2Proof.Machine.execAmoMin x rd ra rb wide s
  | .amoMax x rd ra rb wide => Sys2Proof.Machine.execAmoMax x rd ra rb wide s
  | .cas x rd ra rb wide => Sys2Proof.Machine.execCas x rd ra rb wide s
  | .prefL1d x ra imm => Sys2Proof.Machine.execPrefL1d x ra imm s
  | .prefL2 x ra imm => Sys2Proof.Machine.execPrefL2 x ra imm s
  | .prefStreamStart x ra imm => Sys2Proof.Machine.execPrefStreamStart x ra imm s
  | .prefStreamEnd x ra imm => Sys2Proof.Machine.execPrefStreamEnd x ra imm s
  | .icInvA x ra => Sys2Proof.Machine.execIcInvA x ra s
  | .dcInvA x ra => Sys2Proof.Machine.execDcInvA x ra s
  | .l2ClnA x ra => Sys2Proof.Machine.execL2ClnA x ra s
  | .l2InvA x ra => Sys2Proof.Machine.execL2InvA x ra s
  | .l2CiA x ra => Sys2Proof.Machine.execL2CiA x ra s
  | .icInvSw x ra => Sys2Proof.Machine.execIcInvSw x ra s
  | .dcInvSw x ra => Sys2Proof.Machine.execDcInvSw x ra s
  | .l2ClnSw x ra => Sys2Proof.Machine.execL2ClnSw x ra s
  | .l2InvSw x ra => Sys2Proof.Machine.execL2InvSw x ra s
  | .l2CiSw x ra => Sys2Proof.Machine.execL2CiSw x ra s
  | .fence x => Sys2Proof.Machine.execFence x s
  | .fenceSt x => Sys2Proof.Machine.execFenceSt x s
  | .fenceI x => Sys2Proof.Machine.execFenceI x s
  | .fenceT x => Sys2Proof.Machine.execFenceT x s
  | .br x disp => Sys2Proof.Machine.execBr x disp s
  | .call x disp => Sys2Proof.Machine.execCall x disp s
  | .jr x ra => Sys2Proof.Machine.execJr x ra s
  | .jalr x rd ra => Sys2Proof.Machine.execJalr x rd ra s
  | .dbnz x ra disp => Sys2Proof.Machine.execDbnz x ra disp s
  | .crrd x g crn => Sys2Proof.Machine.execCrrd x g crn s
  | .crwr x g crn => Sys2Proof.Machine.execCrwr x g crn s
  | .crset x g crn => Sys2Proof.Machine.execCrset x g crn s
  | .crclr x g crn => Sys2Proof.Machine.execCrclr x g crn s
  | .nop x => Sys2Proof.Machine.execNop x s
  | .trap x imm => Sys2Proof.Machine.execTrap x imm s
  | .eret x => Sys2Proof.Machine.execEret x s
  | .wait x => Sys2Proof.Machine.execWait x s
  | .brk x => Sys2Proof.Machine.execBrk x s
  | .saveC x => Sys2Proof.Machine.execSaveC x s
  | .saveH x => Sys2Proof.Machine.execSaveH x s
  | .loadC x => Sys2Proof.Machine.execLoadC x s
  | .loadH x => Sys2Proof.Machine.execLoadH x s
  | .smov x rd ra rb size => Sys2Proof.Machine.execSmov x rd ra rb size s
  | .sset x rd ra rb size => Sys2Proof.Machine.execSset x rd ra rb size s
  | .scmp x rd ra rb size pd => Sys2Proof.Machine.execScmp x rd ra rb size pd s
  | .sscan x rd ra rb size pd => Sys2Proof.Machine.execSscan x rd ra rb size pd s
  | .rep x rc body => Sys2Proof.Machine.execRep x rc body s
  | .crcs x rd ra rb size poly => Sys2Proof.Machine.execCrcs x rd ra rb size poly s
  | .par x rd ra => Sys2Proof.Machine.execPar x rd ra s
  | .parb x rd ra => Sys2Proof.Machine.execParb x rd ra s
  | .brev x rd ra => Sys2Proof.Machine.execBrev x rd ra s
  | .brevb x rd ra => Sys2Proof.Machine.execBrevb x rd ra s
  | .brevw x rd ra => Sys2Proof.Machine.execBrevw x rd ra s
  | .tld x td ra rb rows hint => Sys2Proof.Machine.execTld x td ra rb rows hint s
  | .tst x ts ra rb rows => Sys2Proof.Machine.execTst x ts ra rb rows s
  | .tmma x ad ta tb fmt z => Sys2Proof.Machine.execTmma x ad ta tb fmt z s
  | .tswap x n => Sys2Proof.Machine.execTswap x n s
  | .tdrn x l td => Sys2Proof.Machine.execTdrn x l td s
  | .tclra x n => Sys2Proof.Machine.execTclra x n s
  | .tclrt x t => Sys2Proof.Machine.execTclrt x t s
  | .tlda x n ra => Sys2Proof.Machine.execTlda x n ra s
  | .tsta x n ra => Sys2Proof.Machine.execTsta x n ra s
  | .custw0 x rd ra rb func => Sys2Proof.Machine.execCustw0 x rd ra rb func s
  | .custw1 x rd ra rb func => Sys2Proof.Machine.execCustw1 x rd ra rb func s
  | .cust0 x rd ra rb func => Sys2Proof.Machine.execCust0 x rd ra rb func s
  | .cust1 x rd ra rb func => Sys2Proof.Machine.execCust1 x rd ra rb func s
  | .testModeChange level => Sys2Proof.Machine.execTestModeChange level s
  | .referenceLoss present => Sys2Proof.Machine.execReferenceLoss present s
  | .referenceJoin present => Sys2Proof.Machine.execReferenceJoin present s
  | .sourceReturn link => Sys2Proof.Machine.execSourceReturn link s
  | .driftWindowEnd dA dL => Sys2Proof.Machine.execDriftWindowEnd dA dL s
  | .throttleEvaluation pEst => Sys2Proof.Machine.execThrottleEvaluation pEst s
  | .stopDemandChange a b edges => Sys2Proof.Machine.execStopDemandChange a b edges s
  | .startupSelfTest pass => Sys2Proof.Machine.execStartupSelfTest pass s
  | .selfTestPeriodStart pass => Sys2Proof.Machine.execSelfTestPeriodStart pass s
  | .tileKnownAnswerTest core pass => Sys2Proof.Machine.execTileKnownAnswerTest core pass s
  | .quayKnownAnswerTest engine pass => Sys2Proof.Machine.execQuayKnownAnswerTest engine pass s
  | .faultRecord arrivals => Sys2Proof.Machine.execFaultRecord arrivals s
  | .faultAcknowledge src inst => Sys2Proof.Machine.execFaultAcknowledge src inst s
  | .hostRequest id write addr be wdata => Sys2Proof.Machine.execHostRequest id write addr be wdata s
  | .hostReply id => Sys2Proof.Machine.execHostReply id s
  | .registerWrite id addr wdata => Sys2Proof.Machine.execRegisterWrite id addr wdata s
  | .readClear id addr => Sys2Proof.Machine.execReadClear id addr s
  | .stagingWrite id offset wdata => Sys2Proof.Machine.execStagingWrite id offset wdata s
  | .commit id sect => Sys2Proof.Machine.execCommit id sect s
  | .discard id sect => Sys2Proof.Machine.execDiscard id sect s
  | .unitRequest id value => Sys2Proof.Machine.execUnitRequest id value s
  | .unitRelease id value => Sys2Proof.Machine.execUnitRelease id value s
  | .bwAttnWrite id value => Sys2Proof.Machine.execBwAttnWrite id value s
  | .doorbellRing id ring => Sys2Proof.Machine.execDoorbellRing id ring s
  | .tileSave id save => Sys2Proof.Machine.execTileSave id save s
  | .cleanAll id => Sys2Proof.Machine.execCleanAll id s
  | .invalidateAll id => Sys2Proof.Machine.execInvalidateAll id s
  | .cleanAndInvalidate id => Sys2Proof.Machine.execCleanAndInvalidate id s
  | .l2ArrayTest id => Sys2Proof.Machine.execL2ArrayTest id s
  | .coreArrayTest id core => Sys2Proof.Machine.execCoreArrayTest id core s
  | .arrayTestDone core fail => Sys2Proof.Machine.execArrayTestDone core fail s
  | .halt id core => Sys2Proof.Machine.execHalt id core s
  | .resume id core => Sys2Proof.Machine.execResume id core s
  | .step id core => Sys2Proof.Machine.execStep id core s
  | .berthRegisterAccess id core write offset wdata => Sys2Proof.Machine.execBerthRegisterAccess id core write offset wdata s
  | .debugRequest req wdata => Sys2Proof.Machine.execDebugRequest req wdata s
  | .gateWrite id value => Sys2Proof.Machine.execGateWrite id value s
  | .reselect id => Sys2Proof.Machine.execReselect id s
  | .safeClear id => Sys2Proof.Machine.execSafeClear id s
  | .stopFaultClear id => Sys2Proof.Machine.execStopFaultClear id s
  | .release id outputs => Sys2Proof.Machine.execRelease id outputs s
  | .kick id => Sys2Proof.Machine.execKick id s
  | .inject id src inst => Sys2Proof.Machine.execInject id src inst s
  | .logEnable id base sizeLog2 => Sys2Proof.Machine.execLogEnable id base sizeLog2 s
  | .harbourGo id notice => Sys2Proof.Machine.execHarbourGo id notice s
  | .harbourReopen id notice => Sys2Proof.Machine.execHarbourReopen id notice s
  | .memoryRequest port write client addr len tag data strb => Sys2Proof.Machine.execMemoryRequest port write client addr len tag data strb s
  | .memoryReadResponse port tag data err => Sys2Proof.Machine.execMemoryReadResponse port tag data err s
  | .memoryWriteAck port tag err => Sys2Proof.Machine.execMemoryWriteAck port tag err s
  | .memoryResponseLate port tag => Sys2Proof.Machine.execMemoryResponseLate port tag s
  | .ingressBeat first data => Sys2Proof.Machine.execIngressBeat first data s
  | .insert slot entry room => Sys2Proof.Machine.execInsert slot entry room s
  | .delete slot => Sys2Proof.Machine.execDelete slot s
  | .lookup slot => Sys2Proof.Machine.execLookup slot s
  | .tableResponse tag data => Sys2Proof.Machine.execTableResponse tag data s
  | .coprocessorResponse core tag data err => Sys2Proof.Machine.execCoprocessorResponse core tag data err s
  | .coprocessorTimeout core tag => Sys2Proof.Machine.execCoprocessorTimeout core tag s
  | .lpnUpRise link => Sys2Proof.Machine.execLpnUpRise link s
  | .lpnUpFall link => Sys2Proof.Machine.execLpnUpFall link s
  | .flitSlot link ready now => Sys2Proof.Machine.execFlitSlot link ready now s
  | .flitReceive link framed flit now => Sys2Proof.Machine.execFlitReceive link framed flit now s
  | .nakReceive link seq => Sys2Proof.Machine.execNakReceive link seq s
  | .initReceive link node role => Sys2Proof.Machine.execInitReceive link node role s
  | .markerReceive link tTx pTx pRx now => Sys2Proof.Machine.execMarkerReceive link tTx pTx pRx now s
  | .idle link => Sys2Proof.Machine.execIdle link s
  | .sleep link => Sys2Proof.Machine.execSleep link s
  | .agree link => Sys2Proof.Machine.execAgree link s
  | .deny link => Sys2Proof.Machine.execDeny link s
  | .wake link => Sys2Proof.Machine.execWake link s
  | .wakeack link => Sys2Proof.Machine.execWakeack link s
  | .txPend link => Sys2Proof.Machine.execTxPend link s
  | .sleepTimer link => Sys2Proof.Machine.execSleepTimer link s
  | .calDue link => Sys2Proof.Machine.execCalDue link s
  | .arrivalAccept core => Sys2Proof.Machine.execArrivalAccept core s
  | .spillReturn core => Sys2Proof.Machine.execSpillReturn core s
  | .pilotSelect core => Sys2Proof.Machine.execPilotSelect core s
  | .berthSwitch core => Sys2Proof.Machine.execBerthSwitch core s
  | .eventEntry core => Sys2Proof.Machine.execEventEntry core s
  | .tableCommandSend slot => Sys2Proof.Machine.execTableCommandSend slot s
  | .storeBufferDrain core => Sys2Proof.Machine.execStoreBufferDrain core s
  | .storeAck core err => Sys2Proof.Machine.execStoreAck core err s
  | .lateBusError core => Sys2Proof.Machine.execLateBusError core s
  | .l2Fill core fetch => Sys2Proof.Machine.execL2Fill core fetch s
  | .tideCleanWriteback slice => Sys2Proof.Machine.execTideCleanWriteback slice s
  | .dirtyVictim addr => Sys2Proof.Machine.execDirtyVictim addr s
  | .streamFetch core => Sys2Proof.Machine.execStreamFetch core s
  | .tilePrefetch core => Sys2Proof.Machine.execTilePrefetch core s
  | .tileClaim core => Sys2Proof.Machine.execTileClaim core s
  | .tileEntryStart core index => Sys2Proof.Machine.execTileEntryStart core index s
  | .tileEntryComplete core index => Sys2Proof.Machine.execTileEntryComplete core index s
  | .epilogueDescriptorRead core => Sys2Proof.Machine.execEpilogueDescriptorRead core s
  | .drainRow core => Sys2Proof.Machine.execDrainRow core s
  | .dispatchHandoff core => Sys2Proof.Machine.execDispatchHandoff core s
  | .dispatchOutcome index => Sys2Proof.Machine.execDispatchOutcome index s
  | .overflowRecordWrite core => Sys2Proof.Machine.execOverflowRecordWrite core s
  | .overflowTakeReread core => Sys2Proof.Machine.execOverflowTakeReread core s
  | .accumulatorUpdate engine => Sys2Proof.Machine.execAccumulatorUpdate engine s
  | .mergeWrite engine index => Sys2Proof.Machine.execMergeWrite engine index s
  | .ringPutPublish region => Sys2Proof.Machine.execRingPutPublish region s
  | .launchStart engine => Sys2Proof.Machine.execLaunchStart engine s
  | .microOpIssue engine => Sys2Proof.Machine.execMicroOpIssue engine s
  | .scrubRead engine => Sys2Proof.Machine.execScrubRead engine s
  | .scrubResponse engine err => Sys2Proof.Machine.execScrubResponse engine err s
  | .putStore core queue value => Sys2Proof.Machine.execPutStore core queue value s
  | .queueResume core queue put => Sys2Proof.Machine.execQueueResume core queue put s
  | .watchStore core watch value => Sys2Proof.Machine.execWatchStore core watch value s
  | .counterStore core ctr value => Sys2Proof.Machine.execCounterStore core ctr value s
  | .watchFire watch => Sys2Proof.Machine.execWatchFire watch s
  | .descriptorFetch queue => Sys2Proof.Machine.execDescriptorFetch queue s
  | .nopDescriptor queue => Sys2Proof.Machine.execNopDescriptor queue s
  | .writeDescriptor queue => Sys2Proof.Machine.execWriteDescriptor queue s
  | .readDescriptor queue => Sys2Proof.Machine.execReadDescriptor queue s
  | .descriptorFinish queue => Sys2Proof.Machine.execDescriptorFinish queue s
  | .operationTimeout index => Sys2Proof.Machine.execOperationTimeout index s
  | .runArm chain => Sys2Proof.Machine.execRunArm chain s
  | .frameLaunch chain => Sys2Proof.Machine.execFrameLaunch chain s
  | .operandRead chain => Sys2Proof.Machine.execOperandRead chain s
  | .hawserFrame index => Sys2Proof.Machine.execHawserFrame index s
  | .porstNAssert => Sys2Proof.Machine.execPorstNAssert s
  | .porstNDeassert => Sys2Proof.Machine.execPorstNDeassert s
  | .rootLock => Sys2Proof.Machine.execRootLock s
  | .wrstNAssert => Sys2Proof.Machine.execWrstNAssert s
  | .supWarnRise => Sys2Proof.Machine.execSupWarnRise s
  | .supplyEpisodeEnd => Sys2Proof.Machine.execSupplyEpisodeEnd s
  | .supReset => Sys2Proof.Machine.execSupReset s
  | .refLocalAbsent => Sys2Proof.Machine.execRefLocalAbsent s
  | .refLocalPresent => Sys2Proof.Machine.execRefLocalPresent s
  | .lossOfEverySource => Sys2Proof.Machine.execLossOfEverySource s
  | .dividerChangeSequence => Sys2Proof.Machine.execDividerChangeSequence s
  | .stopDiscrepancyFault => Sys2Proof.Machine.execStopDiscrepancyFault s
  | .keepaliveExpiry => Sys2Proof.Machine.execKeepaliveExpiry s
  | .logRecordWrite => Sys2Proof.Machine.execLogRecordWrite s
  | .logTakeReread => Sys2Proof.Machine.execLogTakeReread s
  | .logWriteError => Sys2Proof.Machine.execLogWriteError s
  | .commitDone => Sys2Proof.Machine.execCommitDone s
  | .consistencyCheckDone => Sys2Proof.Machine.execConsistencyCheckDone s
  | .l2MaintDone => Sys2Proof.Machine.execL2MaintDone s
  | .traceSend => Sys2Proof.Machine.execTraceSend s
  | .noticeEnd => Sys2Proof.Machine.execNoticeEnd s
  | .drainEnd => Sys2Proof.Machine.execDrainEnd s
  | .harbourClosed => Sys2Proof.Machine.execHarbourClosed s
  | .ingressCreditGrant => Sys2Proof.Machine.execIngressCreditGrant s
  | .ingressDescriptor => Sys2Proof.Machine.execIngressDescriptor s
  | .inboxRecordWrite => Sys2Proof.Machine.execInboxRecordWrite s
  | .inboxTakeReread => Sys2Proof.Machine.execInboxTakeReread s
  | .dispatchWriteStart => Sys2Proof.Machine.execDispatchWriteStart s
  | .ringAppend => Sys2Proof.Machine.execRingAppend s
  | .launchRecord => Sys2Proof.Machine.execLaunchRecord s
  | .launchComplete => Sys2Proof.Machine.execLaunchComplete s
  | .arrivingWrite => Sys2Proof.Machine.execArrivingWrite s
  | .arrivingRead => Sys2Proof.Machine.execArrivingRead s
  | .arrivingAppend => Sys2Proof.Machine.execArrivingAppend s
  | .ack => Sys2Proof.Machine.execAck s
  | .readData => Sys2Proof.Machine.execReadData s
  | .supResetRelease => Sys2Proof.Machine.execSupResetRelease s
  | .supWarnFall => Sys2Proof.Machine.execSupWarnFall s

end Sys2Proof.Machine
end

