-- ==== Sys2Proof/Safety.lean ====
section
/-! DEFINITION. What claims about the block are said with: when an instruction executes and how it retires, what a host
request meets, and the invariant of a sound state. -/

namespace Sys2Proof.Machine

-- Instructions of a core ------------------------------------------------------------------------------------------------

/-- Berth `b` of the issuing core runs with no older instruction waiting (R95), and the predicate lets an instruction execute (R69).
`@p0` with sense 1 names no form that executes, since p0 reads as 1. -/
def State.Executes (s : State) (x : Issue) (b : BerthId) : Prop :=
  s.runner x.core = some b ∧ (s.core x.core).stalled = none ∧ (s.core x.core).rob = [] ∧
    (s.berth x.core b).pred x.pred ≠ x.sense

/-- The state in which an executing instruction takes its effect: it has counted against the MODE shadow (R82). -/
def State.issued (s : State) (x : Issue) (b : BerthId) : State := s.mapBerth x.core b Berth.countMode

/-- The instruction retires with a change of its berth only. -/
def State.retire (s : State) (x : Issue) (b : BerthId) (f : Berth → Berth) : State :=
  s.setBerth x.core b (f (s.berth x.core b).countMode).next

/-- An instruction that, whenever it executes, changes its berth by `f` and moves on, and changes nothing else. -/
def Retires (i : Instr) (x : Issue) (f : Berth → Berth) : Prop :=
  ∀ (s : State) (b : BerthId), s.Executes x b → exec i s = .next (s.retire x b f)

-- Requests of the host ------------------------------------------------------------------------------------------------

/-- A request under an id transfers (R29): the root is locked and the id has no request outstanding. -/
def State.HostFree (s : State) (id : HostId) : Prop :=
  s.rootRuns = true ∧ (s.host.outstanding.any fun q => q.id == id) = false

/-- A request for an address of a unit window has transferred and has no reply yet. -/
def State.transferred (s : State) (id : HostId) (window : Nat) : State :=
  { s with host := { s.host with outstanding := s.host.outstanding ++ [{ id := id, window := window, reply := none }] } }

/-- A write of a register of a unit window meets nothing that turns it away before its reserved bits: the request transfers,
no commit or check occupies the register, and the window is not locked. -/
def State.HostOpen (s : State) (id : HostId) (window : Nat) (r : HReg) : Prop :=
  s.HostFree id ∧ s.occupied window r = false ∧ (window = 0 → s.si.check = none) ∧ s.locked window = false

/-- A command that writes a register of a unit window: whenever nothing turns the write away, the block changes by `f`, and
the request is answered DONE. -/
def HostWrites (i : Instr) (id : HostId) (window : Nat) (r : HReg) (f : State → State) : Prop :=
  ∀ s : State, s.HostOpen id window r → exec i s = .next ((f (s.transferred id window)).answer id (.done 0))

-- Sound states ----------------------------------------------------------------------------------------------------------

/-- Memory and scratch are in canonical form. -/
def State.memOk (s : State) : Prop := Memory.wf s.mem = true ∧ Memory.wf s.l2.scratch = true

end Sys2Proof.Machine
end

