-- ==== Sys2Proof/Certificates/Slice0/Obligations.lean ====
section
/-! DEFINITION. The statements for the provers, one `Obligations.<Name>` each. They are said over `exec`, `step` and the
accessors of State; `Retires`, `State.Executes`, `HostWrites` and the like are in Safety.lean. -/

open Sys2Proof Sys2Proof.Machine

/-- R73 (Table 3 of "Gregon instruction set"): the register forms of integer arithmetic, logic, shifts and multiplication
wrap modulo 2^64; a W form uses the low 32 bits and sign-extends its result; a shift uses the low 6 bits of rb, a W shift
the low 5; the high multiplications give bits [127:64] of the product. R73 (Table 3 of "Gregon instruction set"): the
immediate forms. ADDI and MOVI sign-extend, the logic forms zero-extend, and ORSH shifts rd itself. -/
def Obligations.IntegerArithmetic : Prop :=
  (∀ (x : Issue) (rd ra rb : Reg),
  Retires (.add x rd ra rb) x (fun y => y.setReg rd (y.reg ra + y.reg rb)) ∧
  Retires (.sub x rd ra rb) x (fun y => y.setReg rd (y.reg ra - y.reg rb)) ∧
  Retires (.and x rd ra rb) x (fun y => y.setReg rd (y.reg ra &&& y.reg rb)) ∧
  Retires (.or x rd ra rb) x (fun y => y.setReg rd (y.reg ra ||| y.reg rb)) ∧
  Retires (.xor x rd ra rb) x (fun y => y.setReg rd (y.reg ra ^^^ y.reg rb)) ∧
  Retires (.andn x rd ra rb) x (fun y => y.setReg rd (y.reg ra &&& ~~~y.reg rb)) ∧
  Retires (.sll x rd ra rb) x (fun y => y.setReg rd (y.reg ra <<< ((y.reg rb).toNat % 64))) ∧
  Retires (.srl x rd ra rb) x (fun y => y.setReg rd (y.reg ra >>> ((y.reg rb).toNat % 64))) ∧
  Retires (.sra x rd ra rb) x (fun y => y.setReg rd ((y.reg ra).sshiftRight ((y.reg rb).toNat % 64))) ∧
  Retires (.ror x rd ra rb) x (fun y => y.setReg rd ((y.reg ra).rotateRight ((y.reg rb).toNat % 64))) ∧
  Retires (.min x rd ra rb) x (fun y => y.setReg rd (BitVec.ofInt 64 (Min.min (y.reg ra).toInt (y.reg rb).toInt))) ∧
  Retires (.max x rd ra rb) x (fun y => y.setReg rd (BitVec.ofInt 64 (Max.max (y.reg ra).toInt (y.reg rb).toInt))) ∧
  Retires (.minu x rd ra rb) x (fun y => y.setReg rd (BitVec.ofNat 64 (Nat.min (y.reg ra).toNat (y.reg rb).toNat))) ∧
  Retires (.maxu x rd ra rb) x (fun y => y.setReg rd (BitVec.ofNat 64 (Nat.max (y.reg ra).toNat (y.reg rb).toNat))) ∧
  Retires (.addw x rd ra rb) x (fun y => y.setReg rd (((y.reg ra + y.reg rb).setWidth 32).signExtend 64)) ∧
  Retires (.subw x rd ra rb) x (fun y => y.setReg rd (((y.reg ra - y.reg rb).setWidth 32).signExtend 64)) ∧
  Retires (.sllw x rd ra rb) x
    (fun y => y.setReg rd (((y.reg ra).setWidth 32 <<< ((y.reg rb).toNat % 32)).signExtend 64)) ∧
  Retires (.srlw x rd ra rb) x
    (fun y => y.setReg rd (((y.reg ra).setWidth 32 >>> ((y.reg rb).toNat % 32)).signExtend 64)) ∧
  Retires (.sraw x rd ra rb) x
    (fun y => y.setReg rd ((((y.reg ra).setWidth 32).sshiftRight ((y.reg rb).toNat % 32)).signExtend 64)) ∧
  Retires (.mul x rd ra rb) x (fun y => y.setReg rd (y.reg ra * y.reg rb)) ∧
  Retires (.mulh x rd ra rb) x
    (fun y => y.setReg rd (((y.reg ra).signExtend 128 * (y.reg rb).signExtend 128).extractLsb' 64 64)) ∧
  Retires (.mulhu x rd ra rb) x
    (fun y => y.setReg rd (((y.reg ra).zeroExtend 128 * (y.reg rb).zeroExtend 128).extractLsb' 64 64)) ∧
  Retires (.mulw x rd ra rb) x (fun y => y.setReg rd (((y.reg ra * y.reg rb).setWidth 32).signExtend 64))) ∧
  (∀ (x : Issue) (rd ra : Reg) (i12 : BitVec 12) (sh : BitVec 6) (i17 : BitVec 17)
    (i16 : BitVec 16),
  Retires (.addi x rd ra i12) x (fun y => y.setReg rd (y.reg ra + i12.signExtend 64)) ∧
  Retires (.andi x rd ra i12) x (fun y => y.setReg rd (y.reg ra &&& i12.zeroExtend 64)) ∧
  Retires (.ori x rd ra i12) x (fun y => y.setReg rd (y.reg ra ||| i12.zeroExtend 64)) ∧
  Retires (.xori x rd ra i12) x (fun y => y.setReg rd (y.reg ra ^^^ i12.zeroExtend 64)) ∧
  Retires (.slli x rd ra sh) x (fun y => y.setReg rd (y.reg ra <<< sh.toNat)) ∧
  Retires (.srli x rd ra sh) x (fun y => y.setReg rd (y.reg ra >>> sh.toNat)) ∧
  Retires (.srai x rd ra sh) x (fun y => y.setReg rd ((y.reg ra).sshiftRight sh.toNat)) ∧
  Retires (.rori x rd ra sh) x (fun y => y.setReg rd ((y.reg ra).rotateRight sh.toNat)) ∧
  Retires (.movi x rd i17) x (fun y => y.setReg rd (i17.signExtend 64)) ∧
  Retires (.orsh x rd i16) x (fun y => y.setReg rd (y.reg rd <<< 16 ||| i16.zeroExtend 64)))

/-- R74: division rounds toward zero and the remainder has the sign of the dividend; a zero divisor gives a quotient of all
ones and the dividend as remainder, and the overflowing quotient wraps with remainder 0. The W forms act on the low 32 bits
and sign-extend. -/
def Obligations.Division : Prop :=
  ∀ (x : Issue) (rd ra rb : Reg),
  Retires (.div x rd ra rb) x (fun y => y.setReg rd
    (if y.reg rb = 0 then BitVec.allOnes 64 else (y.reg ra).sdiv (y.reg rb))) ∧
  Retires (.divu x rd ra rb) x (fun y => y.setReg rd
    (if y.reg rb = 0 then BitVec.allOnes 64 else BitVec.ofNat 64 ((y.reg ra).toNat / (y.reg rb).toNat))) ∧
  Retires (.rem x rd ra rb) x (fun y => y.setReg rd
    (if y.reg rb = 0 then y.reg ra else (y.reg ra).srem (y.reg rb))) ∧
  Retires (.remu x rd ra rb) x (fun y => y.setReg rd
    (if y.reg rb = 0 then y.reg ra else BitVec.ofNat 64 ((y.reg ra).toNat % (y.reg rb).toNat))) ∧
  Retires (.divw x rd ra rb) x (fun y => y.setReg rd
    (if (y.reg rb).setWidth 32 = 0 then BitVec.allOnes 64
     else (((y.reg ra).setWidth 32).sdiv ((y.reg rb).setWidth 32)).signExtend 64)) ∧
  Retires (.divuw x rd ra rb) x (fun y => y.setReg rd
    (if (y.reg rb).setWidth 32 = 0 then BitVec.allOnes 64
     else (((y.reg ra).setWidth 32) / ((y.reg rb).setWidth 32)).signExtend 64)) ∧
  Retires (.remw x rd ra rb) x (fun y => y.setReg rd
    (if (y.reg rb).setWidth 32 = 0 then ((y.reg ra).setWidth 32).signExtend 64
     else (((y.reg ra).setWidth 32).srem ((y.reg rb).setWidth 32)).signExtend 64)) ∧
  Retires (.remuw x rd ra rb) x (fun y => y.setReg rd
    (if (y.reg rb).setWidth 32 = 0 then ((y.reg ra).setWidth 32).signExtend 64
     else (((y.reg ra).setWidth 32) % ((y.reg rb).setWidth 32)).signExtend 64))

/-- R73, R89: the one-operand forms, each result said by its bits: the counts, the reversals of bytes and bits, the
extensions, and the parities. R73, R88: SEL takes ra under its predicate and rb otherwise; CRCS steps the reflected CRC
register in the low 32 bits of ra over the low 8 x size bits of rb, lowest bit first, with no inversion before or after. -/
def Obligations.BitAndSelectForms : Prop :=
  (∀ (x : Issue) (rd ra : Reg),
  (∃ f : Word → Word, Retires (.clz x rd ra) x (fun y => y.setReg rd (f (y.reg ra))) ∧
    f 0 = 64 ∧ ∀ v : Word, v ≠ 0 → (f v).toNat < 64 ∧ v.getLsbD (63 - (f v).toNat) = true ∧
      ∀ i, 63 - (f v).toNat < i → v.getLsbD i = false) ∧
  (∃ f : Word → Word, Retires (.ctz x rd ra) x (fun y => y.setReg rd (f (y.reg ra))) ∧
    f 0 = 64 ∧ ∀ v : Word, v ≠ 0 → (f v).toNat < 64 ∧ v.getLsbD (f v).toNat = true ∧
      ∀ i, i < (f v).toNat → v.getLsbD i = false) ∧
  (∃ f : Word → Word, Retires (.popc x rd ra) x (fun y => y.setReg rd (f (y.reg ra))) ∧
    ∀ v : Word, (f v).toNat = ((List.range 64).filter fun i => v.getLsbD i).length) ∧
  (∃ f : Word → Word, Retires (.bswap x rd ra) x (fun y => y.setReg rd (f (y.reg ra))) ∧
    ∀ (v : Word) (i : Nat), i < 64 → (f v).getLsbD i = v.getLsbD (8 * (7 - i / 8) + i % 8)) ∧
  Retires (.sextb x rd ra) x (fun y => y.setReg rd (((y.reg ra).setWidth 8).signExtend 64)) ∧
  Retires (.sexth x rd ra) x (fun y => y.setReg rd (((y.reg ra).setWidth 16).signExtend 64)) ∧
  Retires (.sextw x rd ra) x (fun y => y.setReg rd (((y.reg ra).setWidth 32).signExtend 64)) ∧
  Retires (.zextw x rd ra) x (fun y => y.setReg rd (y.reg ra &&& 0xFFFFFFFF)) ∧
  (∃ f : Word → Word, Retires (.par x rd ra) x (fun y => y.setReg rd (f (y.reg ra))) ∧
    ∀ v : Word, (f v).toNat = ((List.range 64).filter fun i => v.getLsbD i).length % 2) ∧
  (∃ f : Word → Word, Retires (.parb x rd ra) x (fun y => y.setReg rd (f (y.reg ra))) ∧
    ∀ (v : Word) (i : Nat), (f v).getLsbD i =
      (decide (i < 8) && ((List.range 8).filter fun k => v.getLsbD (8 * i + k)).length % 2 == 1)) ∧
  (∃ f : Word → Word, Retires (.brev x rd ra) x (fun y => y.setReg rd (f (y.reg ra))) ∧
    ∀ (v : Word) (i : Nat), i < 64 → (f v).getLsbD i = v.getLsbD (63 - i)) ∧
  (∃ f : Word → Word, Retires (.brevb x rd ra) x (fun y => y.setReg rd (f (y.reg ra))) ∧
    ∀ (v : Word) (i : Nat), i < 64 → (f v).getLsbD i = v.getLsbD (8 * (i / 8) + (7 - i % 8))) ∧
  (∃ f : Word → Word, Retires (.brevw x rd ra) x (fun y => y.setReg rd (f (y.reg ra))) ∧
    ∀ (v : Word) (i : Nat), (f v).getLsbD i = (decide (i < 32) && v.getLsbD (31 - i)))) ∧
  (∀ (x : Issue) (rd ra rb : Reg) (ps : PReg) (size : Size),
  Retires (.sel x rd ra rb ps) x (fun y => y.setReg rd (if y.pred ps then y.reg ra else y.reg rb)) ∧
  Retires (.crcs x rd ra rb size .crc32c) x (fun y => y.setReg rd (BitVec.ofNat 64
    ((List.range (8 * sizeBytes size)).foldl (fun crc i =>
      if (crc.testBit 0) != (y.reg rb).getLsbD i then crc / 2 ^^^ 0x82F63B78 else crc / 2) ((y.reg ra).toNat % 2 ^ 32)))) ∧
  Retires (.crcs x rd ra rb size .ieee) x (fun y => y.setReg rd (BitVec.ofNat 64
    ((List.range (8 * sizeBytes size)).foldl (fun crc i =>
      if (crc.testBit 0) != (y.reg rb).getLsbD i then crc / 2 ^^^ 0xEDB88320 else crc / 2) ((y.reg ra).toNat % 2 ^ 32)))))

/-- R73, R71: the compares and the predicate logic write their predicate; a form that names p0 as its destination raises
illegal opcode, whatever the predicate that guards it. -/
def Obligations.Predicates : Prop :=
  ∀ (x : Issue) (pd pa pb : PReg) (ra rb : Reg) (imm : BitVec 10),
  (pd ≠ 0 →
    (∀ c : Cond, Retires (.cmp x pd ra rb c) x (fun y => y.setPred pd (match c with
      | .eq => decide (y.reg ra = y.reg rb)
      | .ne => decide (y.reg ra ≠ y.reg rb)
      | .lt => decide ((y.reg ra).toInt < (y.reg rb).toInt)
      | .ge => decide ((y.reg rb).toInt ≤ (y.reg ra).toInt)
      | .ltu => decide ((y.reg ra).toNat < (y.reg rb).toNat)
      | .geu => decide ((y.reg rb).toNat ≤ (y.reg ra).toNat)
      | .tst => decide (y.reg ra &&& y.reg rb ≠ 0)
      | .tstz => decide (y.reg ra &&& y.reg rb = 0)))) ∧
    (∀ c : Cond, Retires (.cmpi x pd ra imm c) x (fun y => y.setPred pd (match c with
      | .eq => decide (y.reg ra = imm.signExtend 64)
      | .ne => decide (y.reg ra ≠ imm.signExtend 64)
      | .lt => decide ((y.reg ra).toInt < imm.toInt)
      | .ge => decide (imm.toInt ≤ (y.reg ra).toInt)
      | .ltu => decide ((y.reg ra).toNat < (imm.signExtend 64).toNat)
      | .geu => decide ((imm.signExtend 64).toNat ≤ (y.reg ra).toNat)
      | .tst => decide (y.reg ra &&& imm.signExtend 64 ≠ 0)
      | .tstz => decide (y.reg ra &&& imm.signExtend 64 = 0)))) ∧
    Retires (.pand x pd pa pb) x (fun y => y.setPred pd (y.pred pa && y.pred pb)) ∧
    Retires (.por x pd pa pb) x (fun y => y.setPred pd (y.pred pa || y.pred pb)) ∧
    Retires (.pxor x pd pa pb) x (fun y => y.setPred pd (xor (y.pred pa) (y.pred pb))) ∧
    Retires (.pandn x pd pa pb) x (fun y => y.setPred pd (y.pred pa && !y.pred pb)) ∧
    Retires (.pnot x pd pa) x (fun y => y.setPred pd (!y.pred pa))) ∧
  (∀ (s : State) (b : BerthId) (c : Cond), s.runner x.core = some b → (s.core x.core).stalled = none →
    ∀ i ∈ [Instr.cmp x 0 ra rb c, .cmpi x 0 ra imm c,
      .pand x 0 pa pb, .por x 0 pa pb, .pxor x 0 pa pb, .pandn x 0 pa pb, .pnot x 0 pa],
    exec i s = .next ((s.issued x b).raise x.core b 1 0))

/-- The register-only forms leave everything alone but their destination, the PC, and the MODE shadow that every instruction
counts against (R82): an instruction that retires by writing `rd` (the forms of RegisterArithmetic, ImmediateArithmetic,
Division, BitForms and SelectAndCrc) leaves every other general register, every predicate, every other register of its
berth, every other berth, the rest of its core, and all the rest of the block, memory included, as it was; g0 still reads 0.
The predicate-writing forms change one predicate: an instruction that retires by writing `pd` (the forms of Predicates)
leaves every other predicate, every general register, every other berth and all the rest of the block as they were. -/
def Obligations.RetiringFormFrames : Prop :=
  (∀ (i : Instr) (x : Issue) (rd : Reg) (f : Berth → Word), Retires i x (fun y => y.setReg rd (f y)) →
  ∀ (s : State) (b : BerthId), s.Executes x b → ∃ t, exec i s = .next t ∧
    (t.berth x.core b).reg rd = (if rd = 0 then 0 else f (s.berth x.core b).countMode) ∧
    (∀ r, r ≠ rd → (t.berth x.core b).reg r = (s.berth x.core b).reg r) ∧
    (t.berth x.core b).reg 0 = 0 ∧ (t.berth x.core b).pc = (s.berth x.core b).pc + 4 ∧
    (∃ g m p, t.berth x.core b =
      { s.berth x.core b with g := g, mode := m, modePend := p, midway := false, pc := (s.berth x.core b).pc + 4 }) ∧
    (∀ c d, c ≠ x.core ∨ d ≠ b → t.berth c d = s.berth c d) ∧
    (∀ c, { t.core c with berths := (s.core c).berths } = s.core c) ∧ { t with cores := s.cores } = s) ∧
  (∀ (i : Instr) (x : Issue) (pd : PReg) (f : Berth → Bool), Retires i x (fun y => y.setPred pd (f y)) →
  ∀ (s : State) (b : BerthId), s.Executes x b → ∃ t, exec i s = .next t ∧
    (t.berth x.core b).pred pd = (if pd = 0 then true else f (s.berth x.core b).countMode) ∧
    (∀ q, q ≠ pd → (t.berth x.core b).pred q = (s.berth x.core b).pred q) ∧
    (∀ r, (t.berth x.core b).reg r = (s.berth x.core b).reg r) ∧
    (∃ p m l, t.berth x.core b =
      { s.berth x.core b with p := p, mode := m, modePend := l, midway := false, pc := (s.berth x.core b).pc + 4 }) ∧
    (∀ c d, c ≠ x.core ∨ d ≠ b → t.berth c d = s.berth c d) ∧
    (∀ c, { t.core c with berths := (s.core c).berths } = s.core c) ∧ { t with cores := s.cores } = s)

/-- R69: an instruction whose predicate does not let it execute only moves on; the forms named have no operand that makes
them illegal. R72, R71, R79, R209, R221 and the tables they name: words and forms that raise illegal opcode, whatever their
predicate. A word of the command UNASSIGNED_MAJOR is one that spells no instruction, one with the reserved predicate "if not
p0", or one that spells an illegal form. R80: the instructions that need privilege S raise the privilege exception in a berth at
U, and change nothing else before it. R95: behind an instruction that waits, or a customer instruction whose response has not
come, a younger one waits too: it takes the next place of the reorder buffer, and nothing else changes. -/
def Obligations.InstructionChecks : Prop :=
  (∀ (x : Issue) (rd ra rb : Reg) (pd : PReg) (size : Size) (i10 : BitVec 10) (i12 : BitVec 12) (disp : BitVec 22)
    (d17 : BitVec 17) (wide : Bool) (imm : BitVec 8) (l : AccReg) (td : TileReg) (s : State) (b : BerthId),
    s.runner x.core = some b → (s.core x.core).stalled = none → (s.berth x.core b).pred x.pred = x.sense → x.pred ≠ 0 →
  ∀ i ∈ [Instr.add x rd ra rb, .addi x rd ra i12, .mul x rd ra rb, .div x rd ra rb, .clz x rd ra, .sel x rd ra rb pd,
      .ldu x rd ra size i10, .st x rd ra size i10, .swap x rd ra rb wide, .amoAdd x rd ra rb wide, .cas x rd ra rb wide,
      .prefL1d x ra i12, .icInvA x ra, .l2InvA x ra, .l2CiSw x ra, .fence x, .fenceI x, .fenceT x, .br x disp, .call x disp,
      .jr x ra, .jalr x rd ra, .dbnz x ra d17, .nop x, .trap x imm, .eret x, .wait x, .brk x, .saveC x, .loadH x,
      .tswap x l, .tdrn x l td, .tclrt x td],
    exec i s = .next (s.retire x b id)) ∧
  ((∀ (core : CoreId) (w : BitVec 32) (s : State) (b : BerthId), s.runner core = some b → (s.core core).stalled = none →
    decodeGregon core w 0 = none ∨ w.toNat / 2 ^ 28 = 8 ∨
      (∃ i, decodeGregon core w 0 = some i ∧ s.legal i = false ∧ ∀ x rc body, i ≠ .rep x rc body) →
    exec (.unassignedMajor core w) s =
      .next ((s.mapBerth core b Berth.countMode).raise core b 1 0)) ∧
  (∀ (x : Issue) (rd ra rb : Reg) (i10 : BitVec 10) (n : AccReg) (ta tb td : TileReg) (z : Bool) (g : Reg)
      (rows : BitVec 6) (size : Size) (body : BitVec 32) (s : State) (b : BerthId),
    s.runner x.core = some b → (s.core x.core).stalled = none → (s.berth x.core b).midway = false →
    ∀ i : Instr, (i ∈ [Instr.lds x rd ra .b8 i10, .lsxLoad x rd ra rb .b8 true, .lsxStore x rd ra rb size true,
        .lsxStorePostinc x rd ra 0 size true, .lsxLoadPostinc x ra ra 0 size false, .tmma x n ta tb 2 z,
        .tmma x n ta tb 3 z, .tlda x n 0, .tsta x n 0, .tld x td ra rb rows 3, .smov x 0 ra rb size, .sset x rd ra rd size,
        .scmp x rd ra rb size 0, .rep x 0 body, .crwr x g 0x031, .crrd x g 0x007] ∨ i = .tst x td ra rb 33) →
      exec i s = .next ((s.issued x b).raise x.core b 1 0)) ∧
  (∀ (rd ra rb : Reg) (core : CoreId) (s : State) (b : BerthId), s.runner core = some b → (s.core core).stalled = none →
    let x : Issue := { core := core, sense := true, pred := 0 }
    exec (.add x rd ra rb) s = .next ((s.issued x b).raise core b 1 0))) ∧
  (∀ (x : Issue) (ra g : Reg) (s : State) (b : BerthId), s.Executes x b → (s.berth x.core b).priv = 0 →
    ∀ i ∈ [Instr.eret x, .saveC x, .saveH x, .loadC x, .loadH x, .l2InvA x ra, .crrd x g 0x001, .crrd x g 0x002,
        .crrd x g 0x003, .crrd x g 0x004, .crrd x g 0x005, .crrd x g 0x006, .crrd x g 0x012],
      exec i s = .next ((s.issued x b).raise x.core b 2 0)) ∧
  (∀ (x : Issue) (rd ra rb : Reg) (size : Size) (i10 : BitVec 10) (disp : BitVec 22) (s : State), s.mustWait x.core = true →
    ∀ i ∈ [Instr.add x rd ra rb, .ldu x rd ra size i10, .st x rd ra size i10, .swap x rd ra rb true, .fence x, .br x disp, .eret x,
      .wait x, .smov x rd ra rb size, .saveC x, .tswap x 0, .cust0 x rd ra rb 0],
    exec i s = .next (s.setCore x.core (
      if (s.core x.core).stalled = none then { s.core x.core with stalled := some i }
      else if (s.core x.core).rob.length < 447 then { s.core x.core with rob := (s.core x.core).rob ++ [i] } else s.core x.core)))

/-- R122 (Tables 9 and 10 of "Berths, the pilot and exceptions"), R82, R106: entry through a good gangway descriptor. `u` is
the state after the descriptor has been read. ERA takes the address, ESTAT the entry number, the old IE, PRIV and run
priority and INFO; PRIV rises to the descriptor's but never falls; IE clears unless the descriptor keeps it; the PC is the
handler's address; every pending MODE write completes; no general register or predicate and no other berth changes. R104: the
instructions of a RUNNING berth that have not retired are abandoned. -/
def Obligations.ExceptionEntry : Prop :=
  ∀ (s u : State) (c : CoreId) (b : BerthId) (v info : Nat) (d : Gangway), v < 512 →
    (s.abandon c b).readGangway c b v = (u, some d) → (u.core c).traceEn = false →
    let y := u.berth c b
    let t := s.raise c b v info
    let z := t.berth c b
    z.era = (s.berth c b).pc.setWidth 48 ∧ z.estat.toNat % 512 = v ∧ z.estat.getLsbD 9 = y.ie ∧
      z.estat.toNat / 2 ^ 10 % 4 = y.priv.toNat ∧ z.estat.toNat / 2 ^ 12 % 16 = y.prio.toNat ∧
      z.estat.toNat / 2 ^ 16 = info % 2 ^ 48 ∧ z.priv.toNat = Nat.max y.priv.toNat d.priv.toNat ∧
      ((s.core c).running = some b →
        ((s.abandon c b).core c).stalled = none ∧ ((s.abandon c b).core c).rob = [] ∧ (s.abandon c b).mem = s.mem) ∧
      z.ie = (d.keepIe && y.ie) ∧ z.pc = d.handler ∧ z.waiting = false ∧ z.prio = y.prio ∧ z.mode = y.modeLast ∧ z.modePend = [] ∧
      z.g = y.g ∧ z.p = y.p ∧ z.gtb = y.gtb ∧ z.slv = y.slv ∧ z.pocket = y.pocket ∧ z.fstat = y.fstat ∧
      (∀ c' b', c' ≠ c ∨ b' ≠ b → t.berth c' b' = u.berth c' b') ∧ { t with cores := u.cores } = u

/-- R123: a descriptor that fails raises the gangway fault through descriptor 9, with the failed entry number in INFO; when
descriptor 9 fails too the berth halts, its core runs no berth, and source 0x11 is recorded. -/
def Obligations.GangwayFault : Prop :=
  ∀ (s u w : State) (c : CoreId) (b : BerthId) (v info : Nat), (s.abandon c b).readGangway c b v = (u, none) →
    (∀ d : Gangway, u.readGangway c b 9 = (w, some d) → (w.core c).traceEn = false →
      s.raise c b v info = w.mapBerth c b fun y => y.enter 9 d (s.berth c b).pc v none) ∧
    (u.readGangway c b 9 = (w, none) → (w.core c).running = some b →
      let t := s.raise c b v info
      (t.berth c b).halted = true ∧ (t.core c).running = none ∧
      (w.bw.queue = [] → w.bw.unacked = [] → t.bw.pendU.getLsbD 0x11 = true))

/-- R75, R76 (Tables 3 and 5 of "Gregon instruction set"): the loads. `u` is the state after the access and `v` the bytes
that it returned. The value is zero- or sign-extended from the access size into rd, the post-increment form also adds the
size to ra, and the berth moves on; beyond what the access itself does, nothing else changes. R102, R202: a load that misses the
L1D waits in the reorder buffer and asks for the fill of its line. R3, R4, R202, R205: with no
cached copy and no buffered store of the line, a load returns the bytes of memory, the lowest address in the lowest byte;
after a store of the same size at the same address by the core, it returns the stored bytes. -/
def Obligations.Loads : Prop :=
  (∀ (x : Issue) (rd ra rb : Reg) (size : Size) (imm : BitVec 10) (s u : State) (b : BerthId) (v : Word), s.Executes x b →
    let y := s.berth x.core b
    let n := sizeBytes size
    let zero := (v.setWidth (8 * n)).zeroExtend 64
    let sign := (v.setWidth (8 * n)).signExtend 64
    let into (w : Word) (f : Berth → Berth) := u.mapBerth x.core b fun z => ((f z).setReg rd w).next
    let reads (a : Word) := a.toNat % n = 0 ∧ a.toNat < 2 ^ 48 ∧ (s.issued x b).coreLoad x.core a.toNat size = (u, .ok v) ∧
      s.loadWaits x.core a size false = false
    (reads (y.reg ra + imm.signExtend 64 * BitVec.ofNat 64 n) →
      exec (.ldu x rd ra size imm) s = .next (into zero id) ∧
        (size ≠ .b8 → exec (.lds x rd ra size imm) s = .next (into sign id))) ∧
    (reads (y.reg ra + y.reg rb * BitVec.ofNat 64 n) →
      exec (.lsxLoad x rd ra rb size false) s = .next (into zero id) ∧
        (size ≠ .b8 → exec (.lsxLoad x rd ra rb size true) s = .next (into sign id))) ∧
    (reads (y.reg ra) → rd ≠ ra →
      let step (z : Berth) := z.setReg ra (z.reg ra + BitVec.ofNat 64 n)
      exec (.lsxLoadPostinc x rd ra 0 size false) s = .next (into zero step) ∧
        (size ≠ .b8 → exec (.lsxLoadPostinc x rd ra 0 size true) s = .next (into sign step)))) ∧
  (∀ (x : Issue) (rd ra rb : Reg) (size : Size) (imm : BitVec 10) (s : State) (b : BerthId), s.Executes x b →
    let y := s.berth x.core b
    let n := sizeBytes size
    let k := s.core x.core
    let misses (a : Word) := a.toNat % n = 0 ∧ a.toNat < 2 ^ 48 ∧ s.l2.den.getLsbD x.core.val = true ∧
      s.inWindow a.toNat = false ∧ s.mapped a.toNat = true ∧ k.l1d.find (a.toNat / 64) = none ∧ k.sb = []
    let waits (a : Word) (i : Instr) := exec i s = .next (s.setCore x.core { k with
      stalled := some i, fills := if a.toNat / 64 ∈ k.fills then k.fills else k.fills ++ [a.toNat / 64] })
    (∀ a, a = y.reg ra + imm.signExtend 64 * BitVec.ofNat 64 n → misses a → waits a (.ldu x rd ra size imm) ∧
      (size ≠ .b8 → waits a (.lds x rd ra size imm))) ∧
    (∀ a, a = y.reg ra + y.reg rb * BitVec.ofNat 64 n → misses a → waits a (.lsxLoad x rd ra rb size false) ∧
      (size ≠ .b8 → waits a (.lsxLoad x rd ra rb size true))) ∧
    (misses (y.reg ra) → rd ≠ ra → waits (y.reg ra) (.lsxLoadPostinc x rd ra 0 size false))) ∧
  ((∀ (s : State) (c : CoreId) (a : Nat) (size : Size), a % sizeBytes size = 0 → s.inWindow a = false → s.mapped a = true →
    s.scratchLine (a / 64) = false → s.l2.find (a / 64) = none → (s.core c).l1d.find (a / 64) = none →
    (s.core c).sb = [] → aget (a / 64) s.l2.poison = none →
    ∃ v, (s.coreLoad c a size).2 = .ok v ∧ v.toNat = cellsNat s.mem a (sizeBytes size)) ∧
  (∀ (s : State) (c : CoreId) (b : BerthId) (a : Nat) (w : Word) (size : Size), a < 2 ^ 48 →
    let t := s.coreStore c b a w size
    t.inWindow a = false → t.mapped a = true →
    ∃ v, (t.coreLoad c a size).2 = .ok v ∧ v.toNat = w.toNat % 2 ^ (8 * sizeBytes size)))

/-- R75, R95, R221: the stores. The data of rd enters the store buffer behind those that wait (with 16 waiting the oldest leaves
first), the prefetch streams of the core move with its line, the post-increment form adds the size to ra, and the berth moves on;
no byte of memory, no cache and nothing else changes in the step while the buffer has room. R95, R208: with the buffer full and
the line of its oldest store held at its slice, a store waits. R75: a misaligned effective address raises vector 3, and an aligned one with
a bit of [63:48] set raises vector 4, each with bits [47:0] of the address as INFO and before any other effect; a misaligned
address raises vector 3 whatever its upper bits. -/
def Obligations.StoresAndAddressChecks : Prop :=
  (∀ (x : Issue) (rd ra rb : Reg) (size : Size) (imm : BitVec 10) (s : State) (b : BerthId), s.Executes x b →
    let y := s.berth x.core b
    let n := sizeBytes size
    let p := if 16 ≤ (s.core x.core).sb.length then (s.issued x b).drainOne x.core else s.issued x b
    let k := p.core x.core
    let put (a : Word) (f : Berth → Berth) :=
      (p.setCore x.core { k with
        sb := k.sb ++ [{ berth := b, addr := a.setWidth 48, data := y.reg rd, size := size }]
        streams := k.streams.map fun q =>
          if q.high ≤ a.toNat / 64 ∧ a.toNat / 64 ≤ q.next + 8 then { q with high := Nat.max q.high (a.toNat / 64) } else q }).mapBerth
        x.core b fun z => (f z).next
    let good (a : Word) := a.toNat % n = 0 ∧ a.toNat < 2 ^ 48
    let step (z : Berth) := z.setReg ra (z.reg ra + BitVec.ofNat 64 n)
    let held := 16 ≤ (s.core x.core).sb.length ∧ ∃ e rest, (s.core x.core).sb = e :: rest ∧ s.lineHeld (e.addr.toNat / 64) = true
    (held → ∀ i ∈ [Instr.st x rd ra size imm, .lsxStore x rd ra rb size false, .lsxStorePostinc x rd ra 0 size false],
      exec i s = .next (s.setCore x.core { s.core x.core with stalled := some i })) ∧
    (∀ a, a = y.reg ra + imm.signExtend 64 * BitVec.ofNat 64 n → good a → ¬ held →
      exec (.st x rd ra size imm) s = .next (put a id)) ∧
    (∀ a, a = y.reg ra + y.reg rb * BitVec.ofNat 64 n → good a → ¬ held →
      exec (.lsxStore x rd ra rb size false) s = .next (put a id)) ∧
    (good (y.reg ra) → ¬ held → exec (.lsxStorePostinc x rd ra 0 size false) s = .next (put (y.reg ra) step)) ∧
    ((s.core x.core).sb.length < 16 → ∀ a f, (put a f).mem = s.mem ∧ (put a f).l2 = s.l2 ∧ (put a f).dk = s.dk ∧
      (put a f).tp = s.tp ∧ ∀ c, c ≠ x.core → (put a f).core c = s.core c)) ∧
  (∀ (x : Issue) (rd ra rb : Reg) (size : Size) (imm : BitVec 10) (wide : Bool) (s : State) (b : BerthId), s.Executes x b →
    (s.core x.core).sb.length < 16 →
    let y := s.berth x.core b
    let bad (a : Word) (n : Nat) (t : State) :=
      (a.toNat % n ≠ 0 → t = (s.issued x b).raise x.core b 3 (a.toNat % 2 ^ 48)) ∧
      (a.toNat % n = 0 → 2 ^ 48 ≤ a.toNat → t = (s.issued x b).raise x.core b 4 (a.toNat % 2 ^ 48))
    let wrong (a : Word) (n : Nat) := a.toNat % n ≠ 0 ∨ 2 ^ 48 ≤ a.toNat
    let off := y.reg ra + imm.signExtend 64 * BitVec.ofNat 64 (sizeBytes size)
    let ix := y.reg ra + y.reg rb * BitVec.ofNat 64 (sizeBytes size)
    (wrong off (sizeBytes size) → ∀ i ∈ [Instr.ldu x rd ra size imm, .st x rd ra size imm],
      ∃ t, exec i s = .next t ∧ bad off (sizeBytes size) t) ∧
    (wrong ix (sizeBytes size) → ∀ i ∈ [Instr.lsxLoad x rd ra rb size false, .lsxStore x rd ra rb size false],
      ∃ t, exec i s = .next t ∧ bad ix (sizeBytes size) t) ∧
    (wrong (y.reg ra) (if wide then 8 else 4) → ∀ i ∈ [Instr.swap x rd ra rb wide, .amoAdd x rd ra rb wide,
        .amoAnd x rd ra rb wide, .amoOr x rd ra rb wide, .amoXor x rd ra rb wide, .amoMin x rd ra rb wide,
        .amoMax x rd ra rb wide, .cas x rd ra rb wide],
      ∃ t, exec i s = .next t ∧ bad (y.reg ra) (if wide then 8 else 4) t) ∧
    (wrong (y.reg ra) (sizeBytes size) → rd ≠ ra →
      ∀ i ∈ [Instr.lsxLoadPostinc x rd ra 0 size false, .lsxStorePostinc x rd ra 0 size false],
        ∃ t, exec i s = .next t ∧ bad (y.reg ra) (sizeBytes size) t))

/-- R77: the atomics at an aligned address of memory or scratch whose granule is not poisoned. `q` is the state in which the
core's own stores have been performed and the line is in the slice, `d` the line there. rd takes the old value (the 4-byte
forms sign-extend it), the berth moves on, and the slice holds the line with the operand's bytes replaced by the new value;
CAS writes only where the old value equals rd. R207, R208: an atomic whose line waits at its slice for a miss entry, or is held
there for a quay program, waits. -/
def Obligations.Atomics : Prop :=
  ∀ (x : Issue) (rd ra rb : Reg) (s : State) (b : BerthId), s.Executes x b →
    let y := s.berth x.core b
    let a := (y.reg ra).toNat
    let line := a / 64
    let p := (s.issued x b).drainAll x.core
    let q := if p.scratchLine line then p else p.l2Fill line
    let d := (q.sliceRead line).1
    a < 2 ^ 48 → (s.issued x b).inWindow a = false → (s.issued x b).mapped a = true →
    (a % 4 = 0 → s.lineWaits line = true → exec (.swap x rd ra rb false) s = .next (s.setCore x.core
      { s.core x.core with stalled := some (.swap x rd ra rb false) })) ∧
    (s.lineWaits line = false → s.sbHeld x.core = false → (q.sliceRead line).2.getLsbD (a / 8 % 8) = false →
    let does (i : Instr) (n : Nat) (r : Word) (new : Option Word) : Prop :=
      ∃ w : State, exec i s = .next (w.mapBerth x.core b fun z => (z.setReg rd r).next) ∧
        (w.sliceRead line).1 = match new with
          | some v => mergeLine d (v.setWidth 512 <<< (8 * (a % 64))) (BitVec.ofNat 64 ((2 ^ n - 1) <<< (a % 64)))
          | none => d
    (a % 8 = 0 →
      let m : Word := (d >>> (8 * (a % 64))).setWidth 64
      let v := y.reg rb
      does (.swap x rd ra rb true) 8 m (some v) ∧ does (.amoAdd x rd ra rb true) 8 m (some (m + v)) ∧
      does (.amoAnd x rd ra rb true) 8 m (some (m &&& v)) ∧ does (.amoOr x rd ra rb true) 8 m (some (m ||| v)) ∧
      does (.amoXor x rd ra rb true) 8 m (some (m ^^^ v)) ∧
      does (.amoMin x rd ra rb true) 8 m (some (if v.toInt < m.toInt then v else m)) ∧
      does (.amoMax x rd ra rb true) 8 m (some (if m.toInt < v.toInt then v else m)) ∧
      does (.cas x rd ra rb true) 8 m (if m = y.reg rd then some v else none)) ∧
    (a % 4 = 0 →
      let m : BitVec 32 := (d >>> (8 * (a % 64))).setWidth 32
      let v : BitVec 32 := (y.reg rb).setWidth 32
      let r := m.signExtend 64
      let z (k : BitVec 32) : Option Word := some (k.zeroExtend 64)
      does (.swap x rd ra rb false) 4 r (z v) ∧ does (.amoAdd x rd ra rb false) 4 r (z (m + v)) ∧
      does (.amoAnd x rd ra rb false) 4 r (z (m &&& v)) ∧ does (.amoOr x rd ra rb false) 4 r (z (m ||| v)) ∧
      does (.amoXor x rd ra rb false) 4 r (z (m ^^^ v)) ∧
      does (.amoMin x rd ra rb false) 4 r (z (if v.toInt < m.toInt then v else m)) ∧
      does (.amoMax x rd ra rb false) 4 r (z (if m.toInt < v.toInt then v else m)) ∧
      does (.cas x rd ra rb false) 4 r (if m = (y.reg rd).setWidth 32 then z v else none)))

/-- R221: the prefetches. A line of MEMORY_MAP that the L2 does not hold, with a miss entry of its slice free, is whole in
the L2 after PREF hints 0 and 1, and hint 0 also starts its fill of the L1D where DEN is 1 and the L1D has no copy; an
address with bits [63:48] set or outside MEMORY_MAP only moves the berth on; hint 2 starts a stream at the line, in place of
the oldest of four; hint 3 ends the streams whose next line lies within 512 bytes above. R149: the prefetch of a TLD hint.
The next line of the oldest prefetch goes to the L2 unless it lies at or above 2^48, outside local memory, in scratch, or is
in the L2; nothing else of the tile unit changes. -/
def Obligations.Prefetches : Prop :=
  (∀ (x : Issue) (ra : Reg) (imm : BitVec 12) (s : State) (b : BerthId), s.Executes x b →
    let p := s.issued x b
    let a := ((s.berth x.core b).reg ra + imm.signExtend 64).toNat
    let line := a / 64
    let k := s.core x.core
    let streams (l : List PfStream) := (p.setCore x.core { p.core x.core with streams := l }).mapBerth x.core b Berth.next
    (2 ^ 48 ≤ a ∨ s.inRange a = false → ∀ i ∈ [Instr.prefL1d x ra imm, .prefL2 x ra imm, .prefStreamStart x ra imm],
      exec i s = .next (s.retire x b id)) ∧
    (a < 2 ^ 48 → s.inRange a = true → s.l2.find line = none → s.missFull (sliceOf line) = false →
      exec (.prefL2 x ra imm) s = .next ((p.l2Fill line).mapBerth x.core b Berth.next) ∧
      (∃ l, (p.l2Fill line).l2.find line = some l ∧ l.mask = BitVec.allOnes 64) ∧
      (s.l2.den.getLsbD x.core.val = true → k.l1d.find line = none → line ∉ k.fills →
        ∃ t, exec (.prefL1d x ra imm) s = .next t ∧ (t.core x.core).fills = k.fills ++ [line]) ∧
      (s.l2.den.getLsbD x.core.val = false →
        exec (.prefL1d x ra imm) s = .next ((p.l2Fill line).mapBerth x.core b Berth.next))) ∧
    (a < 2 ^ 48 → s.inRange a = true → exec (.prefStreamStart x ra imm) s = .next (streams
      ((if k.streams.length < 4 then k.streams else k.streams.tail) ++ [{ next := line, high := line }]))) ∧
    exec (.prefStreamEnd x ra imm) s =
      .next (streams (k.streams.filter fun q => !(decide (a ≤ 64 * q.next) && decide (64 * q.next ≤ a + 512))))) ∧
  (∀ (c : CoreId) (p : TilePf) (rest : List TilePf) (s : State), s.tileRuns c = true → (s.core c).tile.pf = p :: rest →
    let a := (p.base + BitVec.ofNat 64 p.next * p.stride).toNat
    let l := a / 64
    let moved := s.setTile c { (s.core c).tile with
      pf := if p.next + 1 < p.rows then { p with next := p.next + 1 } :: rest else rest }
    (2 ^ 48 ≤ a ∨ s.scratchLine l = true ∨ s.inRange a = false → exec (.tilePrefetch c) s = .next moved) ∧
    ((∃ x, s.l2.find l = some x ∧ x.mask = BitVec.allOnes 64) → exec (.tilePrefetch c) s = .next moved) ∧
    (a < 2 ^ 48 → s.scratchLine l = false → s.inRange a = true → s.l2.find l = none → s.missFull (sliceOf l) = false →
      exec (.tilePrefetch c) s = .next (moved.l2Fill l)) ∧
    (a < 2 ^ 48 → s.scratchLine l = false → s.inRange a = true → s.l2.find l = none → s.missFull (sliceOf l) = true →
      s.missing l = false → exec (.tilePrefetch c) s = .next (moved.skipPrefetch (sliceOf l))))

/-- R209, R211: cache maintenance by address, and the block's whole set of by-address forms. The L1 forms drop the line from
the core's own cache; a clean writes a dirty line back and keeps it clean; an invalidate discards it; clean-and-invalidate
writes it back and drops it; a line of scratch is left as it is; L2.INV.A also takes the line out of the poison list (R217). An
L2 form waits while the slice holds the line for a quay program (R208). An address with bits [63:48] set raises bus error (the
model's choice, log entry 23). R209 (Table 2 of "Caches and scratch"): the set-and-way forms test their operand before the
privilege (R80): a reserved bit, a set or way beyond the geometry, or a slice in an L1 form raises illegal opcode; then a
berth at U raises the privilege exception. In a berth at S or M the L1 forms drop the line at that set and way, and the L2
forms clean, discard, or clean and drop it. -/
def Obligations.CacheMaintenance : Prop :=
  (∀ (x : Issue) (ra : Reg) (s : State) (b : BerthId), s.Executes x b →
    let p := s.issued x b
    let a := (s.berth x.core b).reg ra
    let line := a.toNat / 64
    let k := p.core x.core
    let on (t : State) := Host.Outcome.next (φ := Fault) (ρ := Refusal) (t.mapBerth x.core b Berth.next)
    (2 ^ 48 ≤ a.toNat → ∀ i ∈ [Instr.icInvA x ra, .dcInvA x ra, .l2ClnA x ra, .l2CiA x ra],
      exec i s = .next (p.raise x.core b 4 (a.toNat % 2 ^ 48))) ∧
    (a.toNat < 2 ^ 48 →
      exec (.icInvA x ra) s = on (p.setCore x.core { k with
        l1i := { k.l1i with lines := k.l1i.lines.filter (·.line != line) }, lineBuf := k.lineBuf.filter (·.line != line) }) ∧
      exec (.dcInvA x ra) s = on (p.setCore x.core { k with
        l1d := { k.l1d with lines := k.l1d.lines.filter (·.line != line) }, fills := k.fills.filter (· != line) }) ∧
      (s.lineHeld line = true → ∀ i ∈ [Instr.l2ClnA x ra, .l2CiA x ra],
        exec i s = .next (s.setCore x.core { s.core x.core with stalled := some i })) ∧
      (s.lineHeld line = false → s.scratchLine line = true → exec (.l2ClnA x ra) s = on p ∧ exec (.l2CiA x ra) s = on p) ∧
      (s.lineHeld line = false → s.scratchLine line = false → ∀ l, s.l2.find line = some l → l.dirty = true → l.poison = 0 →
        ∃ t : State, exec (.l2ClnA x ra) s = on t ∧ t.mem = cellsPutLine s.mem line l.data l.mask ∧
          (∃ l', t.l2.find line = some l' ∧ l'.dirty = false ∧ l'.data = l.data) ∧ line ∉ t.l2.order) ∧
      (s.lineHeld line = false → s.scratchLine line = false → ∀ l, s.l2.find line = some l → l.dirty = true → l.poison = 0 →
        ∃ t : State, exec (.l2CiA x ra) s = on t ∧ t.mem = cellsPutLine s.mem line l.data l.mask ∧
          t.l2.find line = none ∧ line ∉ t.l2.order) ∧
      (s.lineHeld line = false → s.scratchLine line = false → 1 ≤ (s.berth x.core b).priv.toNat →
        ∃ t : State, exec (.l2InvA x ra) s = on t ∧ t.mem = s.mem ∧ t.l2.find line = none ∧ line ∉ t.l2.order ∧
          aget line t.l2.poison = none))) ∧
  (∀ (x : Issue) (ra : Reg) (s : State) (b : BerthId), s.Executes x b →
    let p := s.issued x b
    let v := ((s.berth x.core b).reg ra).toNat
    let slice := v / 2 ^ 16 % 16
    let set := v / 16 % 2048
    let way := v % 16
    let k := p.core x.core
    let on (t : State) := Host.Outcome.next (φ := Fault) (ρ := Refusal) (t.mapBerth x.core b Berth.next)
    let shape := v < 2 ^ 20 ∧ v / 2 ^ 15 % 2 = 0
    (¬ (shape ∧ slice = 0 ∧ set < 256 ∧ way < 4) → exec (.icInvSw x ra) s = .next (p.raise x.core b 1 0)) ∧
    (¬ (shape ∧ slice = 0 ∧ set < 128 ∧ way < 8) → exec (.dcInvSw x ra) s = .next (p.raise x.core b 1 0)) ∧
    (¬ shape → ∀ i ∈ [Instr.l2ClnSw x ra, .l2InvSw x ra, .l2CiSw x ra], exec i s = .next (p.raise x.core b 1 0)) ∧
    (shape → (s.berth x.core b).priv = 0 → ∀ i ∈ [Instr.l2ClnSw x ra, .l2InvSw x ra, .l2CiSw x ra],
      exec i s = .next (p.raise x.core b 2 0)) ∧
    (1 ≤ (s.berth x.core b).priv.toNat →
      (shape → slice = 0 → set < 256 → way < 4 → ∀ l, k.l1i.at 256 set way = some l → exec (.icInvSw x ra) s =
        on (p.setCore x.core { k with l1i := k.l1i.drop l.line, lineBuf := k.lineBuf.filter (·.line != l.line) })) ∧
      (shape → slice = 0 → set < 128 → way < 8 → ∀ l, k.l1d.at 128 set way = some l → exec (.dcInvSw x ra) s =
        on (p.setCore x.core { k with l1d := k.l1d.drop l.line, fills := k.fills.filter (· != l.line) })) ∧
      (shape → ∀ l, s.l2.at slice set way = some l → s.scratchLine l.line = false → s.lineHeld l.line = false →
        exec (.l2ClnSw x ra) s = on (p.cleanLine l.line) ∧ exec (.l2CiSw x ra) s = on (p.evictLine l.line) ∧
        exec (.l2InvSw x ra) s = on (p.discardLine l.line)) ∧
      (shape → slice = 0 → set < 256 → way < 4 → k.l1i.at 256 set way = none → exec (.icInvSw x ra) s = on p) ∧
      (shape → slice = 0 → set < 128 → way < 8 → k.l1d.at 128 set way = none → exec (.dcInvSw x ra) s = on p) ∧
      (shape → s.l2.at slice set way = none → ∀ i ∈ [Instr.l2ClnSw x ra, .l2InvSw x ra, .l2CiSw x ra], exec i s = on p)))

/-- R78: the fences. FENCE and FENCE.ST retire with every earlier store of the core performed and acknowledged or turned
into a late bus error, and wait in the reorder buffer while a memory port has yet to acknowledge one or the slice of one holds its
line for a quay program (R208); FENCE.I also drops the L1I lines that memory
no longer agrees with; FENCE.T retires at once when no tile store or drain of the berth is in the tile queue, and waits
otherwise. -/
def Obligations.Fences : Prop :=
  ∀ (x : Issue) (s : State) (b : BerthId), s.Executes x b →
    let p := s.issued x b
    let done := p.completeStores x.core
    let waits := s.sbHeld x.core = true ∨ ∃ d ∈ ((p.drainAll x.core).core x.core).sent, d.port = true ∧ d.kind = .core
    let stays (i : Instr) := exec i s = .next (s.setCore x.core { s.core x.core with stalled := some i })
    (waits → ∀ i ∈ [Instr.fence x, .fenceSt x, .fenceI x], stays i) ∧
    (¬ waits → exec (.fence x) s = .next (done.mapBerth x.core b Berth.next)) ∧
    (¬ waits → exec (.fenceSt x) s = .next (done.mapBerth x.core b Berth.next)) ∧
    (¬ waits → (done.core x.core).sb = [] ∧ ∀ d ∈ (done.core x.core).sent, d.kind ≠ .core) ∧
    (¬ waits → ∃ t : State, exec (.fenceI x) s = .next (t.mapBerth x.core b Berth.next) ∧ (t.core x.core).lineBuf = [] ∧
      (t.core x.core).sb = [] ∧ t.mem = done.mem ∧
      ∀ l ∈ (t.core x.core).l1i.lines, (done.engineRead l.line).1 = l.data) ∧
    ((∀ e ∈ (s.core x.core).tile.queue, ¬ (e.berth = b ∧ e.op.stores = true)) →
      exec (.fenceT x) s = .next (s.retire x b id)) ∧
    ((∃ e ∈ (s.core x.core).tile.queue, e.berth = b ∧ e.op.stores = true) → stays (.fenceT x))

/-- R79: the branches. `jump` is the berth at the target, with the trace record of a taken branch (R48). A register jump to
an address whose bits [1:0] are not zero raises the misaligned-access exception at the jump and writes no link. -/
def Obligations.Branches : Prop :=
  ∀ (x : Issue) (rd ra : Reg) (d22 : BitVec 22) (d17 : BitVec 17) (s : State) (b : BerthId), s.Executes x b →
    let p := s.issued x b
    let y := s.berth x.core b
    let jump (target : Word) (f : Berth → Berth) : State :=
      (p.mapBerth x.core b fun z => { f z with pc := target }).traceCore x.core 1 b.val target.toNat
    exec (.br x d22) s = .next (jump (y.pc + d22.signExtend 64 * 4) id) ∧
    exec (.call x d22) s = .next (jump (y.pc + d22.signExtend 64 * 4) fun z => z.setReg 31 (y.pc + 4)) ∧
    ((y.reg ra).toNat % 4 = 0 →
      exec (.jr x ra) s = .next (jump (y.reg ra) id) ∧
      exec (.jalr x rd ra) s = .next (jump (y.reg ra) fun z => z.setReg rd (y.pc + 4))) ∧
    ((y.reg ra).toNat % 4 ≠ 0 → ∀ i ∈ [Instr.jr x ra, .jalr x rd ra],
      exec i s = .next (p.raise x.core b 3 ((y.reg ra).toNat % 2 ^ 48))) ∧
    (y.reg ra - 1 ≠ 0 → exec (.dbnz x ra d17) s =
      .next (jump (y.pc + d17.signExtend 64 * 4) fun z => z.setReg ra (y.reg ra - 1))) ∧
    (y.reg ra - 1 = 0 → exec (.dbnz x ra d17) s = .next (s.retire x b fun z => z.setReg ra 0)) ∧
    ((s.core x.core).traceEn = false → ∀ t f, (jump t f).dbg = s.dbg ∧ (jump t f).mem = s.mem ∧
      (jump t f).berth x.core b = { f (y.countMode) with pc := t })

/-- R81, R82, R106 (Tables 7 to 10 of "Gregon instruction set"): a read of a control register by a berth with the privilege
that Table 7 asks puts the register into g; FSTAT is read only once the tile queue holds nothing of the berth (R145). The
values are the berth's own registers, and CYC and TIME. R81, R82: the writes of control registers. CRWR writes g, CRSET the
old value with g's bits set, CRCLR with them cleared; of FSTAT, CRWR and CRSET clear the bits that g carries and CRCLR
clears none. A value that sets a reserved bit or writes a reserved encoding raises illegal opcode, then too low a privilege
raises the privilege exception, and neither changes the register; a write that raises PRIV is refused the same way. R82: a
MODE write takes effect at the fourth instruction after it: the three instructions between count it down under the old mode,
a later write inside the shadow starts one of its own, and an entry or a berth switch completes them all. -/
def Obligations.ControlRegisters : Prop :=
  (∀ (x : Issue) (g : Reg) (s : State) (b : BerthId), s.Executes x b →
    let y := s.berth x.core b
    let reads (crn : BitVec 12) (least : Nat) (v : Word) : Prop := least ≤ y.priv.toNat →
      exec (.crrd x g crn) s = .next (s.retire x b fun z => z.setReg g v)
    reads 0x000 0 (BitVec.ofNat 64 (y.priv.toNat + (if y.ie then 4 else 0) + (if y.compat then 8 else 0) + 16 * b.val +
      256 * x.core.val)) ∧
    reads 0x001 1 y.estat ∧ reads 0x002 1 (y.era.zeroExtend 64) ∧ reads 0x003 1 (y.ereason.zeroExtend 64) ∧
    reads 0x004 1 y.gtb ∧ reads 0x005 1 y.slv ∧ reads 0x006 1 y.pocket ∧ reads 0x010 0 (y.modeLast.zeroExtend 64) ∧
    (s.tilePending x.core b = false → reads 0x011 0 (y.fstat.zeroExtend 64)) ∧
    (s.tilePending x.core b = true → exec (.crrd x g 0x011) s =
      .next (s.setCore x.core { s.core x.core with stalled := some (.crrd x g 0x011) })) ∧
    reads 0x012 1 (BitVec.ofNat 64 ((if y.townEn then 1 else 0) + (if y.townSaved then 2 else 0) +
      (if y.townHeld then 4 else 0))) ∧
    reads 0x020 0 y.epi ∧ reads 0x021 0 y.tkbase ∧ reads 0x030 0 (s.core x.core).cyc ∧ reads 0x031 0 s.time) ∧
  (∀ (x : Issue) (g : Reg) (crn : BitVec 12) (r : Cr) (s : State) (b : BerthId), s.Executes x b → crOf crn = some r →
    r ≠ .time →
    let p := s.issued x b
    let y := s.berth x.core b
    let old := p.crValue x.core b r
    let bad (v : Word) : Prop := v &&& r.reserved ≠ 0 ∨ r.badCode v = true
    let low (v : Word) : Prop := y.priv.toNat < r.writePriv ∨ (r = .pstat ∧ y.priv.toNat < v.toNat % 4)
    let effect (v : Word) : State := (match crn.toNat with
      | 0x000 => p.mapBerth x.core b fun z => { z with ie := v.getLsbD 2, priv := v.setWidth 2 }
      | 0x001 => p.mapBerth x.core b fun z => { z with estat := v }
      | 0x002 => p.mapBerth x.core b fun z => { z with era := v.setWidth 48 }
      | 0x003 => p.mapBerth x.core b fun z => { z with ereason := v.setWidth 16 }
      | 0x004 => p.mapBerth x.core b fun z => { z with gtb := v }
      | 0x005 => p.mapBerth x.core b fun z => { z with slv := v }
      | 0x006 => p.mapBerth x.core b fun z => { z with pocket := v }
      | 0x010 => p.mapBerth x.core b fun z =>
          { z with modeLast := v.setWidth 5, modePend := z.modePend ++ [(v.setWidth 5, 3)] }
      | 0x011 => p.mapBerth x.core b fun z => { z with fstat := z.fstat &&& ~~~v.setWidth 6 }
      | 0x012 => p.mapBerth x.core b fun z => { z with townEn := v.getLsbD 0, townSaved := v.getLsbD 1 }
      | 0x020 => p.mapBerth x.core b fun z => { z with epi := v, epiSerial := z.epiSerial + 1 }
      | 0x021 => p.mapBerth x.core b fun z => { z with tkbase := v }
      | _ => p.setCore x.core { p.core x.core with cyc := v }).mapBerth x.core b Berth.next
    let writes (i : Instr) (v : Word) : Prop :=
      (bad v → exec i s = .next (p.raise x.core b 1 0)) ∧
      (¬ bad v → low v → exec i s = .next (p.raise x.core b 2 0)) ∧
      (¬ bad v → ¬ low v → exec i s = .next (effect v))
    writes (.crwr x g crn) (y.reg g) ∧
    (r ≠ .fstat → writes (.crset x g crn) (old ||| y.reg g) ∧ writes (.crclr x g crn) (old &&& ~~~y.reg g)) ∧
    (r = .fstat → s.tilePending x.core b = false → writes (.crset x g crn) (y.reg g) ∧ writes (.crclr x g crn) 0) ∧
    (r = .fstat → s.tilePending x.core b = true → ∀ i ∈ [Instr.crset x g crn, .crclr x g crn],
      exec i s = .next (s.setCore x.core { s.core x.core with stalled := some i }))) ∧
  ((∀ (y : Berth) (v : BitVec 5), y.modePend = [] →
    let after : Nat → Berth := fun n => Nat.repeat Berth.countMode n (y.writeMode v)
    (∀ n, n ≤ 3 → (after n).mode = y.mode ∧ (after n).modeLast = v) ∧ (after 4).mode = v ∧ (after 4).modePend = []) ∧
  (∀ (y : Berth) (v w : BitVec 5), y.modePend = [] →
    let z := (y.writeMode v).countMode.writeMode w
    (z.countMode.countMode.countMode).mode = v ∧ (z.countMode.countMode.countMode.countMode).mode = w) ∧
  (∀ y : Berth, y.completeModes.mode = y.modeLast ∧ y.completeModes.modePend = []))

/-- R80, R110, R122, R124, R45: the system instructions. NOP only moves on. TRAP takes entry 256 + imm8 with ERA after the
TRAP, or the privilege exception at the TRAP where the descriptor asks for more. ERET restores PC, PRIV, IE and the run
priority from ERA and ESTAT, or raises the privilege exception where PPRIV is above the current privilege. WAIT leaves the
berth WAITING past the WAIT and the core without a RUNNING berth; one that has started, with IE 0, an entry pending and PILOT
enabled, is READY at once. BRK halts a held core at the BRK, and is entry 6 otherwise. -/
def Obligations.SystemInstructions : Prop :=
  ∀ (x : Issue) (imm : BitVec 8) (s : State) (b : BerthId), s.Executes x b →
    let p := s.issued x b
    let y := p.berth x.core b
    exec (.nop x) s = .next (s.retire x b id) ∧
    (∀ (u : State) (d : Gangway), p.readGangway x.core b (256 + imm.toNat) = (u, some d) →
      (d.trapMin.toNat ≤ y.priv.toNat → exec (.trap x imm) s = .next ((u.mapBerth x.core b fun z =>
        z.enter (256 + imm.toNat) d (y.pc + 4) 0 none).traceCore x.core 2 b.val (256 + imm.toNat))) ∧
      ((u.berth x.core b).priv = y.priv → y.priv.toNat < d.trapMin.toNat →
        exec (.trap x imm) s = .next (u.raise x.core b 2 0))) ∧
    (1 ≤ y.priv.toNat → y.estat.toNat / 2 ^ 10 % 4 ≤ y.priv.toNat → ∃ l, exec (.eret x) s =
      .next (p.mapBerth x.core b fun z => { z with
        pc := z.era.zeroExtend 64, priv := BitVec.ofNat 2 (z.estat.toNat / 2 ^ 10), ie := z.estat.getLsbD 9
        prio := BitVec.ofNat 4 (z.estat.toNat / 2 ^ 12), lbe := l }) ∧
        (y.lbe = none → l = none) ∧ (∀ e, y.lbe = some e → e.taken = true → e.depth = 0 → l = none)) ∧
    (1 ≤ y.priv.toNat → y.priv.toNat < y.estat.toNat / 2 ^ 10 % 4 → exec (.eret x) s = .next (p.raise x.core b 2 0)) ∧
    (∃ t, exec (.wait x) s = .next t ∧ (t.core x.core).running = none ∧ (t.core x.core).selected = none ∧
      (t.berth x.core b).pc = y.pc + 4 ∧ (t.berth x.core b).waiting =
        !(s.enabled .pilot && y.started && !y.ie && (s.core x.core).pend.any fun e => e.berth == b) ∧ t.mem = s.mem ∧ t.l2 = s.l2) ∧
    ((s.core x.core).hold = true → (s.core x.core).traceEn = false →
      exec (.brk x) s = .next (p.setCore x.core { p.core x.core with halted := true, reason := 2, haltDue := none })) ∧
    ((s.core x.core).hold = false → exec (.brk x) s = .next (p.raise x.core b 6 0))

/-- R127, R128 (Table 14 of "Berths, the pilot and exceptions"): SAVE.C and SAVE.H. `u` is the state after LINK has been
read at SLV. The half's sleeve takes KIND, the 19 words of the half and zeros to its end in rising addresses, the sleeve at
LINK takes this sleeve's address in BACK, and SLV moves to LINK. A LINK of zero raises the sleeve fault and writes nothing.
R127: LOAD.C and LOAD.H. `u` is the state after BACK has been read at SLV, `w` the state after the sleeve at BACK has been
read. The registers of the half are loaded (of the collar all but g0 and p0, and of PSTAT only IE and PRIV; of the hem MODE
with its shadow, FSTAT, and of TOWN only EN and SAVED), and SLV moves to BACK. Another KIND raises the sleeve fault, and a
stored PRIV above the current one the privilege exception. -/
def Obligations.Sleeves : Prop :=
  (∀ (x : Issue) (s u : State) (b : BerthId) (link : Word), s.Executes x b → 1 ≤ (s.berth x.core b).priv.toNat →
    s.sbHeld x.core = false →
    let p := s.issued x b
    let y := p.berth x.core b
    p.sleeveWords x.core y.slv.toNat 1 = (u, .inl [link]) →
    let saved (kind : Word) (half : List Word) : State :=
      (((u.storeWords x.core b (y.slv.toNat + 16) ([kind] ++ half ++ List.replicate 10 0)).coreStore x.core b
        (link.toNat + 8) (BitVec.ofNat 64 y.slv.toNat) .b8).mapBerth x.core b fun z => { z with slv := link }.next)
    let collar := [0, y.reg 1, y.reg 2, y.reg 3, y.reg 4, y.reg 5, y.reg 6, y.reg 7, y.reg 8, y.reg 9, y.reg 10, y.reg 11,
      y.reg 12, y.reg 13, y.reg 14, y.reg 15, (y.p ||| 1).zeroExtend 64, y.pstat x.core b, y.era.zeroExtend 64]
    let hem := [y.reg 16, y.reg 17, y.reg 18, y.reg 19, y.reg 20, y.reg 21, y.reg 22, y.reg 23, y.reg 24, y.reg 25, y.reg 26,
      y.reg 27, y.reg 28, y.reg 29, y.reg 30, y.reg 31, y.modeLast.zeroExtend 64, y.fstat.zeroExtend 64, y.town]
    (link ≠ 0 → link.toNat % 256 = 0 → link.toNat < 2 ^ 48 → u.inWindow (link.toNat + 8) = false →
      u.mapped (link.toNat + 8) = true → u.berth x.core b = y →
      exec (.saveC x) s = .next (saved 1 collar) ∧
      (s.tilePending x.core b = false → exec (.saveH x) s = .next (saved 2 hem)) ∧
      (s.tilePending x.core b = true → exec (.saveH x) s =
        .next (s.setCore x.core { s.core x.core with stalled := some (.saveH x) }))) ∧
    (link = 0 → u.berth x.core b = y → exec (.saveC x) s = .next (u.raise x.core b 11 y.slv.toNat) ∧
      (s.tilePending x.core b = false → exec (.saveH x) s = .next (u.raise x.core b 11 y.slv.toNat)))) ∧
  (∀ (x : Issue) (s u w : State) (b : BerthId) (back kind : Word) (half : List Word), s.Executes x b →
    1 ≤ (s.berth x.core b).priv.toNat → s.tilePending x.core b = false →
    let p := s.issued x b
    let y := p.berth x.core b
    p.sleeveWords x.core (y.slv.toNat + 8) 1 = (u, .inl [back]) → back.toNat % 256 = 0 → back.toNat < 2 ^ 48 →
    u.sleeveWords x.core (back.toNat + 16) 20 = (w, .inl (kind :: half)) → half.length = 19 → w.berth x.core b = y →
    let priv := (half.getD 17 0).toNat % 4
    (kind = 1 → priv ≤ y.priv.toNat → priv ≠ 2 → ∃ t, exec (.loadC x) s = .next t ∧
      let z := t.berth x.core b
      (∀ i : Reg, 0 < i.val → i.val < 16 → z.reg i = half.getD i.val 0) ∧ (∀ i : Reg, 16 ≤ i.val → z.reg i = y.reg i) ∧
      (∀ n : PReg, n ≠ 0 → z.pred n = (half.getD 16 0).getLsbD n.val) ∧ z.priv.toNat = priv ∧
      z.ie = (half.getD 17 0).getLsbD 2 ∧ z.era = (half.getD 18 0).setWidth 48 &&& 0xFFFFFFFFFFFC ∧ z.slv = back ∧
      z.pc = y.pc + 4 ∧ z.mode = y.mode ∧ z.fstat = y.fstat ∧ { t with cores := w.cores } = w) ∧
    (kind = 2 → (half.getD 16 0).toNat / 2 % 4 ≠ 3 → ∃ t, exec (.loadH x) s = .next t ∧
      let z := t.berth x.core b
      (∀ i : Reg, i.val < 16 → z.reg i = y.reg i) ∧ (∀ i : Reg, 16 ≤ i.val → z.reg i = half.getD (i.val - 16) 0) ∧
      z.modeLast = (half.getD 16 0).setWidth 5 ∧ z.mode = y.mode ∧ z.fstat = (half.getD 17 0).setWidth 6 ∧
      z.townEn = (half.getD 18 0).getLsbD 0 ∧ z.townSaved = (half.getD 18 0).getLsbD 1 ∧ z.townHeld = y.townHeld ∧
      z.slv = back ∧ z.pc = y.pc + 4 ∧ z.priv = y.priv ∧ { t with cores := w.cores } = w) ∧
    (kind ≠ 1 → exec (.loadC x) s = .next (w.raise x.core b 11 back.toNat)) ∧
    (kind ≠ 2 → exec (.loadH x) s = .next (w.raise x.core b 11 back.toNat)) ∧
    (kind = 1 → y.priv.toNat < priv → exec (.loadC x) s = .next (w.raise x.core b 2 0)))

/-- R83, R84, R85: the string instructions go element by element over three different registers. With a count of 0 they only
end. Otherwise one element is done and the registers move: `w` is the state after it, from which the rest of the instruction
is the same instruction again. An address that is not aligned raises the misaligned-access exception before anything moves.
SCMP ends at the first difference with the predicate clear, or at the end of the count with it set; SSCAN ends at the first
match with the predicate set, or at the end with it clear. R85: with an interrupt due the instruction stops at the boundary after
one element, and goes on from there as the oldest instruction of the core. R84, R95: an SSET of `n` elements that the store buffer has room
for puts the same value into the buffer at `n` rising addresses, moves rd past them and leaves the count at 0. R86, R87:
REP. A count of 0 moves past the body. With an ADDI rd, rd, imm as its body and a count of `n` it adds imm `n` times, leaves
the count at 0 and moves past the body; with an interrupt due it stops at the boundary after one iteration. Predicated off it skips
the body. A count in g0, a body of another major and a body that writes the count raise illegal opcode at the REP. -/
def Obligations.StringInstructions : Prop :=
  (∀ (x : Issue) (rd ra rb : Reg) (size : Size) (pd : PReg) (s : State) (b : BerthId), s.Executes x b →
    rd ≠ 0 → rb ≠ 0 → rd ≠ ra → rd ≠ rb → ra ≠ rb → pd ≠ 0 → (s.berth x.core b).midway = false → s.l2.holds = [] →
    let p := s.issued x b
    let y := s.berth x.core b
    let d := y.reg rd
    let a := y.reg ra
    let n := y.reg rb
    let k : Word := BitVec.ofNat 64 (sizeBytes size)
    let low (v : Word) : Nat := v.toNat % 256 ^ sizeBytes size
    let all := s.interrupts x.core b = false
    let again (w : State) := w.Executes x b ∧ (w.berth x.core b).modePend = [] ∧ w.interrupts x.core b = false
    let ends (t : State) (f : Berth → Berth) : Host.Outcome State Fault Refusal := .next (t.mapBerth x.core b fun z => (f z).next)
    (n = 0 → (ra ≠ 0 → exec (.smov x rd ra rb size) s = ends p id ∧
        exec (.scmp x rd ra rb size pd) s = ends p (fun z => z.setPred pd true)) ∧
      exec (.sset x rd ra rb size) s = ends p id ∧
      exec (.sscan x rd ra rb size pd) s = ends p (fun z => z.setPred pd false)) ∧
    (ra ≠ 0 → n ≠ 0 → a.toNat % sizeBytes size ≠ 0 → exec (.smov x rd ra rb size) s = .next (p.raise x.core b 3 (a.toNat % 2 ^ 48))) ∧
    (n ≠ 0 → d.toNat % sizeBytes size ≠ 0 → ∀ i, i = .sset x rd ra rb size ∨ i = .sscan x rd ra rb size pd ∨
      (ra ≠ 0 ∧ i = .scmp x rd ra rb size pd) → exec i s = .next (p.raise x.core b 3 (d.toNat % 2 ^ 48))) ∧
    (n ≠ 0 → d.toNat % sizeBytes size = 0 → d.toNat < 2 ^ 48 →
      let w := (p.coreStore x.core b d.toNat a size).mapBerth x.core b fun z => (z.setReg rd (d + k)).setReg rb (n - 1)
      (n = 1 → exec (.sset x rd ra rb size) s = ends w id) ∧
      (n ≠ 1 → all → again w → exec (.sset x rd ra rb size) s = exec (.sset x rd ra rb size) w) ∧
      (n ≠ 1 → s.interrupts x.core b = true → ∃ t : State, exec (.sset x rd ra rb size) s = .next t ∧
        t.berth x.core b = { w.berth x.core b with midway := true } ∧
        ((w.core x.core).stalled = none → (t.core x.core).stalled = some (.sset x rd ra rb size)) ∧ t.mem = w.mem)) ∧
    (ra ≠ 0 → n ≠ 0 → a.toNat % sizeBytes size = 0 → d.toNat % sizeBytes size = 0 → a.toNat < 2 ^ 48 → d.toNat < 2 ^ 48 →
      ∀ (u : State) (v : Word), p.coreLoad x.core a.toNat size = (u, .ok v) →
      let w := (u.coreStore x.core b d.toNat (BitVec.ofNat 64 (low v)) size).mapBerth x.core b fun z =>
        ((z.setReg rd (d + k)).setReg ra (a + k)).setReg rb (n - 1)
      (n = 1 → exec (.smov x rd ra rb size) s = ends w id) ∧
      (n ≠ 1 → all → again w → exec (.smov x rd ra rb size) s = exec (.smov x rd ra rb size) w)) ∧
    (ra ≠ 0 → n ≠ 0 → a.toNat % sizeBytes size = 0 → d.toNat % sizeBytes size = 0 → a.toNat < 2 ^ 48 → d.toNat < 2 ^ 48 →
      ∀ (t u : State) (v1 v2 : Word), p.coreLoad x.core d.toNat size = (t, .ok v1) → t.coreLoad x.core a.toNat size = (u, .ok v2) →
      let w := u.mapBerth x.core b fun z => ((z.setReg rd (d + k)).setReg ra (a + k)).setReg rb (n - 1)
      (low v1 ≠ low v2 → exec (.scmp x rd ra rb size pd) s = ends u (fun z => z.setPred pd false)) ∧
      (low v1 = low v2 → n = 1 → exec (.scmp x rd ra rb size pd) s = ends w (fun z => z.setPred pd true)) ∧
      (low v1 = low v2 → n ≠ 1 → all → again w → exec (.scmp x rd ra rb size pd) s = exec (.scmp x rd ra rb size pd) w)) ∧
    (n ≠ 0 → d.toNat % sizeBytes size = 0 → d.toNat < 2 ^ 48 →
      ∀ (u : State) (v : Word), p.coreLoad x.core d.toNat size = (u, .ok v) →
      let w := u.mapBerth x.core b fun z => (z.setReg rd (d + k)).setReg rb (n - 1)
      (low v = low a → exec (.sscan x rd ra rb size pd) s = ends u (fun z => z.setPred pd true)) ∧
      (low v ≠ low a → n = 1 → exec (.sscan x rd ra rb size pd) s = ends w (fun z => z.setPred pd false)) ∧
      (low v ≠ low a → n ≠ 1 → all → again w → exec (.sscan x rd ra rb size pd) s = exec (.sscan x rd ra rb size pd) w))) ∧
  (∀ (x : Issue) (rd ra rb : Reg) (size : Size) (s : State) (b : BerthId) (n : Nat), s.Executes x b →
    rd ≠ 0 → rb ≠ 0 → rd ≠ ra → rd ≠ rb → ra ≠ rb → s.l2.holds = [] → s.interrupts x.core b = false →
    let y := s.berth x.core b
    let d := (y.reg rd).toNat
    let k := sizeBytes size
    (y.reg rb).toNat = n → 0 < n → (s.core x.core).sb.length + n ≤ 16 → d % k = 0 → d + k * n ≤ 2 ^ 48 →
    ∃ t : State, exec (.sset x rd ra rb size) s = .next t ∧
      (t.core x.core).sb = (s.core x.core).sb ++ (List.range n).map (fun i =>
        ({ berth := b, addr := BitVec.ofNat 48 (d + k * i), data := y.reg ra, size := size } : StoreEntry)) ∧
      (t.berth x.core b).reg rd = BitVec.ofNat 64 (d + k * n) ∧ (t.berth x.core b).reg rb = 0 ∧
      (∀ r, r ≠ rd → r ≠ rb → (t.berth x.core b).reg r = y.reg r) ∧ (t.berth x.core b).pc = y.pc + 4 ∧
      (∀ c e, c ≠ x.core ∨ e ≠ b → t.berth c e = s.berth c e) ∧
      { t with cores := s.cores } = s) ∧
  (∀ (x : Issue) (rc : Reg) (body : BitVec 32) (s : State) (b : BerthId), s.runner x.core = some b →
    (s.core x.core).stalled = none → (s.core x.core).rob = [] → (s.berth x.core b).midway = false →
    let p := s.issued x b
    let y := s.berth x.core b
    let unguarded : Issue := { core := x.core, sense := false, pred := 0 }
    let major := body.toNat / 2 ^ 22 % 64
    let legal := rc ≠ 0 ∧ (major ≤ 14 ∨ (16 ≤ major ∧ major ≤ 20) ∨ major = 0x25 ∨ major = 0x26) ∧
      ∀ i, decodeGregon x.core body 0 = some i → writesReg i rc = false
    (¬ legal → exec (.rep x rc body) s = .next (p.raise x.core b 1 0)) ∧
    (legal → y.pred x.pred = x.sense → ¬ (x.sense = true ∧ x.pred = 0) →
      exec (.rep x rc body) s = .next (p.mapBerth x.core b fun z => { z with pc := z.pc + 8 })) ∧
    (legal → y.pred x.pred ≠ x.sense → y.reg rc = 0 →
      exec (.rep x rc body) s = .next (p.mapBerth x.core b fun z => { z with pc := z.pc + 8 })) ∧
    (∀ (rd : Reg) (imm : BitVec 12), encodeGregon (.addi unguarded rd rd imm) = some body → rd ≠ rc → rc ≠ 0 →
      y.pred x.pred ≠ x.sense → y.modePend = [] → y.pc.toNat % 4 = 0 →
      (s.interrupts x.core b = false → exec (.rep x rc body) s = .next (p.mapBerth x.core b fun z =>
        { (z.setReg rd (z.reg rd + z.reg rc * imm.signExtend 64)).setReg rc 0 with pc := z.pc + 8 })) ∧
      (s.interrupts x.core b = true → 1 < (y.reg rc).toNat → exec (.rep x rc body) s = .next ((p.mapBerth x.core b fun z =>
        { (z.setReg rd (z.reg rd + imm.signExtend 64)).setReg rc (z.reg rc - 1) with midway := true }).stall x.core
          (.rep x rc body)))))

/-- R119, R134 to R141, R95: a tile instruction with TOWN.EN set, legal operands and room in the 32-entry queue enters the
queue with its berth and what it takes at issue, and moves on. R119, R135, R136, R137, R141, R337: the ways a tile
instruction is turned away, in the order of R136: illegal opcode; the tile unit unavailable (TOWN.EN 0, or a unit that
failed its test); misaligned access; bus error. With a full queue it waits in the reorder buffer. -/
def Obligations.TileIssue : Prop :=
  (∀ (x : Issue) (t : TileReg) (ta tb : TileReg) (n : AccReg) (ra rb : Reg) (rows : BitVec 6) (hint : BitVec 2)
    (fmt : BitVec 3) (z : Bool) (s : State) (b : BerthId), s.Executes x b →
    (s.berth x.core b).townEn = true → (s.core x.core).tileBad = false → (s.core x.core).tile.queue.length < 32 →
    let y := s.berth x.core b
    let mode := y.countMode.mode
    let a16 := mode.getLsbD 0
    let row (r : Nat) : Word := y.reg ra + BitVec.ofNat 64 r * y.reg rb
    let tile : TileUnit := (s.core x.core).tile
    let queues (op : TileOp) : Host.Outcome State Fault Refusal :=
      .next (((s.issued x b).setTile x.core { tile with queue := tile.queue ++
        [{ berth := b, op := op, started := false, done := false, flags := 0, errs := [] }] }).mapBerth x.core b Berth.next)
    ((y.reg ra).toNat % 64 = 0 → (y.reg rb).toNat % 64 = 0 → rows.toNat ≤ 32 →
      (∀ r, r < rows.toNat → (row r).toNat < 2 ^ 48) →
      exec (.tst x t ra rb rows) s = queues (.tst t (y.reg ra) (y.reg rb) rows.toNat) ∧
      (hint ≠ 3 → exec (.tld x t ra rb rows hint) s = queues (.tld t (y.reg ra) (y.reg rb) rows.toNat hint))) ∧
    ((fmt = 0 ∨ fmt = 1 ∨ (4 ≤ fmt.toNat ∧ (s.si.codes.getD (fmt.toNat - 4) Blob.empty).field 0 0 1 = 1)) →
      exec (.tmma x n ta tb fmt z) s = queues (.tmma n ta tb fmt z mode s.si.codes)) ∧
    exec (.tswap x n) s = queues (.tswap n a16) ∧
    exec (.tdrn x n t) s = queues (.tdrn n t y.epi y.epiSerial y.tkbase mode s.si.codes) ∧
    exec (.tclra x n) s = queues (.tclra n a16) ∧
    exec (.tclrt x t) s = queues (.tclrt t) ∧
    (ra ≠ 0 → (y.reg ra).toNat % 64 = 0 → (y.reg ra).toNat + 5183 < 2 ^ 48 →
      exec (.tlda x n ra) s = queues (.tlda n (y.reg ra) a16) ∧ exec (.tsta x n ra) s = queues (.tsta n (y.reg ra)))) ∧
  (∀ (x : Issue) (t : TileReg) (n : AccReg) (ra rb : Reg) (rows : BitVec 6) (hint : BitVec 2) (z : Bool)
    (s : State) (b : BerthId), s.Executes x b →
    let p := s.issued x b
    let y := s.berth x.core b
    let raises (v info : Nat) (i : Instr) : Prop := exec i s = .next (p.raise x.core b v info)
    let row (r : Nat) : Word := y.reg ra + BitVec.ofNat 64 r * y.reg rb
    let open_ := y.townEn = true ∧ (s.core x.core).tileBad = false
    raises 1 0 (.tld x t ra rb rows 3) ∧ raises 1 0 (.tmma x n t t 2 z) ∧ raises 1 0 (.tmma x n t t 3 z) ∧
    raises 1 0 (.tlda x n 0) ∧ raises 1 0 (.tsta x n 0) ∧
    (32 < rows.toNat → raises 1 0 (.tld x t ra rb rows hint) ∧ raises 1 0 (.tst x t ra rb rows)) ∧
    (∀ k : Fin 4, (s.si.codes.getD k.val Blob.empty).field 0 0 1 ≠ 1 →
      raises 1 0 (.tmma x n t t (BitVec.ofNat 3 (4 + k.val)) z)) ∧
    (rows.toNat ≤ 32 → hint ≠ 3 → ra ≠ 0 → ¬ open_ → ∀ i ∈ [Instr.tld x t ra rb rows hint, .tst x t ra rb rows,
      .tmma x n t t 0 z, .tmma x n t t 1 z, .tswap x n, .tdrn x n t, .tclra x n, .tclrt x t, .tlda x n ra, .tsta x n ra],
      raises 8 0 i) ∧
    (rows.toNat ≤ 32 → hint ≠ 3 → open_ → (y.reg ra).toNat % 64 ≠ 0 ∨ (y.reg rb).toNat % 64 ≠ 0 →
      ∀ i ∈ [Instr.tld x t ra rb rows hint, .tst x t ra rb rows], raises 3 ((y.reg ra).toNat % 2 ^ 48) i) ∧
    (hint ≠ 3 → open_ → (y.reg ra).toNat % 64 = 0 → (y.reg rb).toNat % 64 = 0 → rows.toNat ≤ 32 → ∀ k, k < rows.toNat →
      2 ^ 48 ≤ (row k).toNat → (∀ r, r < k → (row r).toNat < 2 ^ 48) →
      ∀ i ∈ [Instr.tld x t ra rb rows hint, .tst x t ra rb rows], raises 4 ((row k).toNat % 2 ^ 48) i) ∧
    (ra ≠ 0 → open_ → (y.reg ra).toNat % 64 ≠ 0 →
      ∀ i ∈ [Instr.tlda x n ra, .tsta x n ra], raises 3 ((y.reg ra).toNat % 2 ^ 48) i) ∧
    (ra ≠ 0 → open_ → (y.reg ra).toNat % 64 = 0 → 2 ^ 48 ≤ (y.reg ra).toNat + 5183 →
      ∀ i ∈ [Instr.tlda x n ra, .tsta x n ra], raises 4 ((y.reg ra).toNat % 2 ^ 48) i) ∧
    (open_ → 32 ≤ (s.core x.core).tile.queue.length → ∀ i ∈ [Instr.tmma x n t t 0 z, .tmma x n t t 1 z, .tswap x n,
      .tdrn x n t, .tclra x n, .tclrt x t], exec i s = .next (s.setCore x.core { s.core x.core with stalled := some i })))

/-- R119 to R121, R151: the claim of a free unit. The head of the queue belongs to berth `b`, which is not the owner, and nothing
is in progress; a save of R120 that waits for entries of the queue does not hold the claim back. With SAVED clear the unit starts
from cleared state (every cell +0, no top-k entry, row statistics at their initial values); with SAVED set it takes the state
that the 960 lines of the pocket hold; either way both held descriptors are discarded, HELD is set and SAVED is clear. A unit that
has an owner first writes the owner's state to its pocket: each of the 960 lines then reads back as that line of the state, and
a line outside the pocket that the L2 did not hold reads as before. -/
def Obligations.TileClaim : Prop :=
  ∀ (c : CoreId) (b : BerthId) (e : TileEntry) (rest : List TileEntry) (s : State), s.tileRuns c = true →
    (s.core c).tile.queue = e :: rest → e.berth = b → (s.core c).tile.owner ≠ some b →
    (∀ o ∈ (s.core c).tile.queue, o.started = false) → (s.core c).tile.drain = none → (s.core c).tile.save ≠ some 0 →
    (∀ d ∈ (s.core c).sent, d.kind ≠ .pocket) → s.l2.holds = [] →
    let pocket := (s.berth c b).pocket.toNat
    ((s.core c).tile.owner = none → (s.berth c b).townSaved = false → (s.berth c b).pocketLost = false →
      exec (.tileClaim c) s = .next ((s.setTile c { (s.core c).tile with
        owner := some b, held := [], st := TileState.cleared }).mapBerth c b
          fun y => { y with townHeld := true, townSaved := false })) ∧
    ((∀ a ∈ TileState.cleared.accs ++ TileState.cleared.lins, a.kcount = 0 ∧ ∀ v ∈ a.cells, v = 0) ∧
      (∀ l ∈ TileState.cleared.topk, l = []) ∧ ∀ r ∈ TileState.cleared.stats, r.m = 0xFFE0000000 ∧ r.s = 0) ∧
    (∀ (u : State) (lines : List Line) (st : TileState), (s.core c).tile.owner = none → (s.berth c b).townSaved = true →
      (s.setTile c { (s.core c).tile with held := [] }).portReads c ((List.range 960).map fun i => pocket + 64 * i) =
        (u, lines, []) → TileState.ofPocket (linesBlob lines) = some st → ∃ t : State, exec (.tileClaim c) s = .next t ∧
        (t.core c).tile.owner = some b ∧ (t.core c).tile.st = st ∧ (t.berth c b).townHeld = true ∧
        (t.berth c b).townSaved = false ∧ t.mem = u.mem) ∧
    (∀ a, (s.core c).tile.owner = some a → (∀ i, i < 960 → s.portReach ((s.berth c a).pocket.toNat + 64 * i) = true) →
      (s.berth c b).townSaved = false → (s.berth c b).pocketLost = false → s.ck.supEpisode = false → s.memOk →
      (s.berth c a).pocket.toNat % 4096 = 0 → s.scratchWays = 0 →
      let saved := (s.core c).tile.st.pocket c a s.time
      saved.len = 61440 →
      let at_ (i : Nat) := ((s.berth c a).pocket.toNat + 64 * i) / 64
      ∃ t : State, exec (.tileClaim c) s = .next t ∧
        (t.core c).tile.owner = some b ∧ (t.berth c a).townSaved = true ∧ (t.berth c a).townHeld = false ∧
        (t.berth c b).townHeld = true ∧
        (∀ i, i < 960 → (t.engineRead (at_ i)).1 = BitVec.ofNat 512 (saved.bits / 2 ^ (512 * i))) ∧
        (∀ line, (∀ i, i < 960 → line ≠ at_ i) → s.l2.find line = none → (t.engineRead line).1 = (s.engineRead line).1))

/-- R137 to R143, R146 to R148: what an entry of the load/store engine or the array does when it starts, and how it leaves.
An entry that may start, none of whose lines waits at its slice (R207, R208), takes its effect on the owner's tiles, accumulators
and linings; TMMA computes every cell, with the flags it will report, from its operands as they stand. When a started entry
completes it leaves the queue, its flags join FSTAT and its failed access becomes a late bus error; a TMMA or TSWAP waits for the
older TMMAs of its accumulator, and a store for its acknowledgements. R139, R157 to R163: the arithmetic of a TMMA. With z set, cell
[r][q] is the dot product of row r of ta and row q of tb, from +0, group by group; rto rounds to odd; a group result and an addition
take the first case of R162 and of R163 that applies; and the two cells of the spec's worked example of R163. -/
def Obligations.TileEntries : Prop :=
  ∀ (c : CoreId) (i : Fin 32) (e : TileEntry) (s : State), s.tileRuns c = true → (s.core c).tile.queue[i.val]? = some e →
    let tile := (s.core c).tile
    let st := tile.st
    let started (flags : BitVec 6) (st : TileState) : State := s.setTile c { tile with
      st := st, queue := tile.queue.set i.val { e with started := true, flags := flags, errs := [] } }
    (tile.canStart i.val = true → s.opWaits e.op = true → exec (.tileEntryStart c i) s = .next s) ∧
    (tile.canStart i.val = true → s.opWaits e.op = false →
      (∀ t, e.op = .tclrt t → exec (.tileEntryStart c i) s =
        .next (started 0 { st with tiles := st.tiles.set t.val (List.replicate 32 0) })) ∧
      (∀ n a16, e.op = .tclra n a16 → exec (.tileEntryStart c i) s =
        .next (started 0 { st with accs := st.accs.set n.val (Accum.zero a16) })) ∧
      (∀ n a16, e.op = .tswap n a16 → exec (.tileEntryStart c i) s = .next (started 0 { st with
        lins := st.lins.set n.val (st.accs.getD n.val (Accum.zero false)), accs := st.accs.set n.val (Accum.zero a16) })) ∧
      (∀ ad ta tb fmt z mode codes, e.op = .tmma ad ta tb fmt z mode codes →
        let out := st.tmma ad ta tb fmt.toNat z mode codes
        exec (.tileEntryStart c i) s = .next (started out.2 { st with accs := st.accs.set ad.val out.1 }) ∧
        out.1.a16 = mode.getLsbD 0 ∧ (z = true → out.1.kcount.toNat = if 4 ≤ fmt.toNat then 64 else 32) ∧
        ((st.tileRows ta.val).length = 32 → (st.tileRows tb.val).length = 32 → z = true → ∀ r q, r < 32 → q < 32 →
          let w := if mode.getLsbD 0 then fmtB16 else fmtA40
          let n := if 4 ≤ fmt.toNat then 64 else 32
          let row (t : TileReg) (k : Nat) : List Machine.Num := (List.range n).map fun j =>
            (decodeElement fmt.toNat codes (mode.getLsbD 3) (st.row t.val k).toNat j).1
          out.1.cells[32 * r + q]? =
            some (BitVec.ofNat 40 (w.encode (dotCell w (n / 8) (w.decode 0) (row ta r) (row tb q)).1)))) ∧
      (∀ t base stride hint, e.op = .tld t base stride 0 hint → exec (.tileEntryStart c i) s =
        .next (started 0 { st with tiles := st.tiles.set t.val (List.replicate 32 0) })) ∧
      (∀ t base stride rows hint u lines, e.op = .tld t base stride rows hint → hint = 0 → rows ≤ 32 →
        s.portReads c ((List.range rows).map fun r => (base + BitVec.ofNat 64 r * stride).toNat) = (u, lines, []) →
        ∃ v : State, exec (.tileEntryStart c i) s = .next v ∧
          ((u.core c).tile.st.tiles.length = 8 → (v.core c).tile.st.tiles[t.val]? = some (lines ++ List.replicate (32 - rows) 0))) ∧
      (∀ n base a16 u lines, e.op = .tlda n base a16 →
        s.portReads c ((List.range 81).map fun k => base.toNat + 64 * k) = (u, lines, []) →
        ∃ v : State, exec (.tileEntryStart c i) s = .next v ∧ (v.core c).tile.st.accs =
          (u.core c).tile.st.accs.set n.val (Accum.ofRecord (linesBlob lines))) ∧
      (∀ t base stride rows u, e.op = .tst t base stride rows →
        s.portWrites c e.berth .tile ((List.range rows).map fun r =>
          ((base + BitVec.ofNat 64 r * stride).toNat, (st.tiles.getD t.val []).getD r 0)) = (u, []) →
        exec (.tileEntryStart c i) s = .next (u.setEntry c i.val { e with started := true, flags := 0, errs := [] })) ∧
      (∀ n base u, e.op = .tsta n base →
        s.portWrites c e.berth .tile (((List.range 81).map fun k => base.toNat + 64 * k).zip
          ((st.accs.getD n.val (Accum.zero false)).record 3).toLines) = (u, []) →
        exec (.tileEntryStart c i) s = .next (u.setEntry c i.val { e with started := true, flags := 0, errs := [] }))) ∧
    (e.started = true → tile.follows i.val e.op = true → exec (.tileEntryComplete c i) s = .next s) ∧
    let ends := e.started = true ∧ e.op.engine ≠ 2 ∧ tile.save = none ∧ tile.follows i.val e.op = false ∧
      (e.op.stores = true → ∀ d ∈ (s.core c).sent, ¬ (d.kind = .tile ∧ d.berth = e.berth))
    (ends → e.flags = 0 → e.errs = [] →
      exec (.tileEntryComplete c i) s = .next (s.setTile c { tile with queue := tile.queue.eraseIdx i.val })) ∧
    (ends → e.flags = 0 → ∀ a, e.errs = [a] → (s.berth c e.berth).lbe = none → ∃ t : State,
      exec (.tileEntryComplete c i) s = .next t ∧ (t.core c).tile.queue = tile.queue.eraseIdx i.val ∧
      (t.berth c e.berth).lbe = some { addr := a, more := 0, taken := false, depth := 0 }) ∧
    (ends → e.flags ≠ 0 → e.errs = [] → ∃ t : State,
      exec (.tileEntryComplete c i) s = .next t ∧ (t.core c).tile.queue = tile.queue.eraseIdx i.val ∧
      (t.berth c e.berth).fstat = (s.berth c e.berth).fstat ||| e.flags ∧
      (e.flags.toNat % 32 ≠ 0 → t.bw.attn.getLsbD 4 = true)) ∧
    (∀ w ∈ [fmtA40, fmtB16], ∀ (neg sticky : Bool) (m : Nat) (e : Int), m ≠ 0 →
      let lead := (m.log2 : Int) + e
      let q := Max.max (lead - w.fb) w.qmin
      (w.limit ≤ lead → w.rto neg m e sticky = (w.maxFin neg, true)) ∧
      (lead < w.limit → q ≤ e → ∃ t, w.rto neg m e sticky = (.fin neg t q, false) ∧
        t = m * 2 ^ (e - q).toNat + (if sticky = true ∧ m * 2 ^ (e - q).toNat % 2 = 0 then 1 else 0)) ∧
      (lead < w.limit → e < q → ∃ t, w.rto neg m e sticky = (.fin neg t q, false) ∧
        let cut := 2 ^ (q - e).toNat
        t = m / cut + (if (m % cut ≠ 0 ∨ sticky = true) ∧ m / cut % 2 = 0 then 1 else 0))) ∧
    (∀ w ∈ [fmtA40, fmtB16], ∀ ps : List Machine.Num,
      (.nan ∈ ps ∨ (.inf false ∈ ps ∧ .inf true ∈ ps) → groupResult w ps = (.nan, false)) ∧
      (.nan ∉ ps → ∀ neg, .inf neg ∈ ps → .inf (!neg) ∉ ps → groupResult w ps = (.inf neg, false)) ∧
      ((∀ p ∈ ps, p.isZero = true) → groupResult w ps = (Machine.Num.zero (ps.all Machine.Num.sign), false))) ∧
    (∀ w ∈ [fmtA40, fmtB16], ∀ g : Machine.Num, w.add .nan g = (.nan, false) ∧ w.add g .nan = (.nan, false) ∧
      (∀ s, w.add (.inf s) (.inf !s) = (.nan, false) ∧ w.add (.inf s) (.inf s) = (.inf s, false)) ∧
      (∀ s t m e, w.add (.inf s) (.fin t m e) = (.inf s, false) ∧ w.add (.fin t m e) (.inf s) = (.inf s, false)) ∧
      (∀ m e, m ≠ 0 → w.add (.fin false m e) (.fin true m e) = (.fin false 0 0, false)) ∧
      (∀ s t e f, w.add (.fin s 0 e) (.fin t 0 f) = (.fin (s && t) 0 0, false)) ∧
      (∀ s m n e, m + n ≠ 0 → w.add (.fin s m e) (.fin s n e) = w.rto s (m + n) e false)) ∧
    (let x (neg : Bool) (e : Int) : Machine.Num := .fin neg 1 e
      let z (n : Nat) : List Machine.Num := List.replicate n (.fin false 0 0)
      let a := [x false 20, x false 0, x false 20, x false (-5)] ++ z 4 ++ [x false 20] ++ z 23
      let cell (b : List Machine.Num) := fmtA40.encode (dotCell fmtA40 4 (fmtA40.decode 0) a b).1
      cell ([x false 20, x false 0, x true 20, x false (-5)] ++ z 28) = 0x3FE0000001 ∧
        cell ([x false 20, x false 0] ++ z 6 ++ [x true 20] ++ z 23) = 0x4140000000)

/-- R179, R180: the descriptor of the oldest TDRN without a held one is read as two lines at EPI and held, tagged with the
EPI write under which it was taken; a read that fails holds no data. At its start a TDRN with a good descriptor begins its
drain at row 0; one that fails a check is discarded, changes no tile, accumulator, lining, statistic or top-k set and no
memory, and the berth's exception 10 waits with the code, behind one that waits already (the model's choice, log entry 94). R181 to
R191, R194: the rows of a drain. A row at or above NROWS is read and discarded. A row below it passes the stages: `o` is what
they give for it; its top-k set and statistics are kept; a drain to memory writes the row converted to OUT_FMT at OUT_ADDR + r x
OUT_STRIDE modulo 2^48, binary32 in two lines and a 1-byte format with 32 zero bytes behind it; a drain to a tile puts it into row r
of td, binary32 into td and the next tile, a 1-byte format into the half that TILE_HALF names; a drain to dispatch with TOPK_LAST
hands the row on; and with TOPK_LAST and TKBASE.EN the top-k record of R191 is written. With every stage off the cells pass
unchanged, and with clip alone each is clipped (R185). STAT max_and_sum keeps the running maximum and sum (R187). With TOPK_K = k the
candidates enter the set one by one, each before the first entry that it beats, and the first k entries stay; TOPK_LAST emits them and
empties the set (R188, R189). The drain ends with row 31. -/
def Obligations.Drains : Prop :=
  (∀ (c : CoreId) (i : Fin 32) (e : TileEntry) (l : AccReg) (td : TileReg) (epi tkbase : Word) (serial : Nat)
    (mode : BitVec 5) (codes : List Blob) (s : State), s.tileRuns c = true →
    (s.core c).tile.queue[i.val]? = some e → e.op = .tdrn l td epi serial tkbase mode codes →
    let tile := (s.core c).tile
    (e.started = false → tile.heldFor e.berth serial = none → tile.held.length < 2 →
      (∀ o ∈ tile.queue.take i.val, o.op.engine ≠ 2 ∨ o.started = true) → ∀ (u : State) (lines : List Line) (bad : List (BitVec 48)),
      s.portReads c [epi.toNat, epi.toNat + 64] = (u, lines, bad) →
      exec (.epilogueDescriptorRead c) s = .next (u.setTile c { u.tile c with 
        held := tile.held ++ [{ berth := e.berth, serial := serial, epi := epi,
                                data := if bad = [] then some (BitVec.ofNat 1024 (linesBlob lines).bits) else none }] })) ∧
    (∀ (h : HeldDesc) (d : BitVec 1024), tile.canStart i.val = true → tile.heldFor e.berth serial = some h → h.data = some d →
      s.checkDesc (some d) codes = none → ∃ t : State, exec (.tileEntryStart c i) s = .next t ∧
        (t.core c).tile.drain = some {
          berth := e.berth, l := l, td := td, tkbase := tkbase, mode := mode, codes := codes, desc := d,
          curves := s.si.curves, row := 0,
          bias := (tile.st.tiles.getD (d.toNat / 2 ^ 32 % 8) []).getD (d.toNat / 2 ^ 35 % 32) 0 } ∧
        (t.core c).tile.queue = tile.queue.set i.val { e with started := true } ∧ t.mem = s.mem ∧
        (t.core c).tile.st.tiles = tile.st.tiles ∧ (t.core c).tile.st.lins = tile.st.lins) ∧
    (∀ (h : HeldDesc) (code : BitVec 16), tile.canStart i.val = true → tile.heldFor e.berth serial = some h →
      s.checkDesc h.data codes = some code → (s.core c).running = none → tile.save = none →
      ∃ t : State, exec (.tileEntryStart c i) s = .next t ∧ (t.core c).tile.queue = tile.queue.eraseIdx i.val ∧
        (t.core c).tile.st = tile.st ∧ (t.core c).tile.drain = tile.drain ∧ t.mem = s.mem ∧ t.l2 = s.l2 ∧
        (t.berth c e.berth).epiFaults = (s.berth c e.berth).epiFaults ++ [code]) ∧
    s.checkDesc none codes = some 0x0A15 ∧
    (∀ d : BitVec 1024, d.toNat / 2 ^ 648 ≠ 0 ∨ 32 < d.toNat / 2 ^ 64 % 64 ∨ 32 < d.toNat / 2 ^ 72 % 64 →
      s.checkDesc (some d) codes = some 0x0A10)) ∧
  (∀ (c : CoreId) (dr : Drain) (s : State), s.tileRuns c = true → (s.core c).tile.drain = some dr →
    (s.core c).tile.rows.length < 4 → s.l2.holds = [] →
    let tile := (s.core c).tile
    let d : Blob := { len := 128, bits := dr.desc.toNat }
    let rows := d.field 8 0 6
    let dest := d.field 3 4 4
    let last := d.field 1 6 1
    let next : Option Drain := if dr.row < 31 then some { dr with row := dr.row + 1 } else none
    let o := dr.stages tile.st
    let st := { tile.st with topk := tile.st.topk.set dr.row o.topk, stats := tile.st.stats.set dr.row o.stat }
    let quiet := last = 0 ∨ dr.tkbase.getLsbD 0 = false
    (rows ≤ dr.row → exec (.drainRow c) s = .next (s.setTile c { tile with drain := next })) ∧
    (dr.row < rows → dest = 3 → quiet → ∃ q, exec (.drainRow c) s =
      .next (s.setTile c { tile with st := st, queue := q, drain := next }) ∧ q.length = tile.queue.length) ∧
    let fmt := d.field 3 0 4
    let width := if fmt = 2 then 4 else if fmt ≤ 1 then 2 else 1
    let bits := packNats (8 * width) (o.cells.map fun v => (convertOut
      (outFmtOf fmt dr.codes) (dr.mode.getLsbD 4) (dr.mode.toNat / 2 % 4) v).1)
    (dr.row < rows → dest = 0 → quiet → ∀ u : State,
      let a := (((d.field 24 0 48 : Int) + dr.row * (BitVec.ofNat 32 (d.field 32 0 32)).toInt) % 2 ^ 48).toNat
      (s.setTile c { tile with st := st }).portWrites c dr.berth .tile ((a, BitVec.ofNat 512 bits) ::
        (if fmt = 2 then [((a + 64) % 2 ^ 48, BitVec.ofNat 512 (bits / 2 ^ 512))] else [])) = (u, []) →
      ∃ q, exec (.drainRow c) s = .next (u.setTile c { u.tile c with queue := q, drain := next }) ∧
        q.length = tile.queue.length) ∧
    (dr.row < rows → dr.row < 32 → dest = 1 → quiet → st.tiles.length = 8 → (st.tileRows dr.td.val).length = 32 →
      (st.tileRows ((dr.td.val + 1) % 8)).length = 32 → ∃ t : State, exec (.drainRow c) s = .next t ∧ t.mem = s.mem ∧
      let row (i : Nat) := (t.core c).tile.st.row i dr.row
      let half := d.field 2 4 1
      (fmt ≤ 1 → row dr.td.val = BitVec.ofNat 512 bits) ∧
      (fmt = 2 → row dr.td.val = BitVec.ofNat 512 bits ∧ row ((dr.td.val + 1) % 8) = BitVec.ofNat 512 (bits / 2 ^ 512)) ∧
      (3 ≤ fmt → (row dr.td.val).toNat / 2 ^ (256 * half) % 2 ^ 256 = bits % 2 ^ 256 ∧
        (row dr.td.val).toNat / 2 ^ (256 * (1 - half)) % 2 ^ 256 =
          (st.row dr.td.val dr.row).toNat / 2 ^ (256 * (1 - half)) % 2 ^ 256)) ∧
    (dr.row < rows → dest = 3 → last = 1 → dr.tkbase.getLsbD 0 = true → ∀ u : State,
      let a := dr.tkbase.toNat / 128 * 128 + 128 * dr.row
      let rec_ := packNats 48 (o.emit.map fun e => e.val.toNat + e.pos.toNat * 2 ^ 32) + o.emit.length * 2 ^ 768 +
        o.stat.m.toNat * 2 ^ 832 + o.stat.s.toNat * 2 ^ 872
      (s.setTile c { tile with st := st }).portWrites c dr.berth .tile
        [(a, BitVec.ofNat 512 rec_), (a + 64, BitVec.ofNat 512 (rec_ / 2 ^ 512))] = (u, []) →
      ∃ q, exec (.drainRow c) s = .next (u.setTile c { u.tile c with queue := q, drain := next }) ∧
        q.length = tile.queue.length) ∧
    (dr.row < rows → dest = 2 → last = 1 → dr.tkbase.getLsbD 0 = false → ∃ t : State, exec (.drainRow c) s = .next t ∧
      t.mem = s.mem ∧ (t.core c).tile.rows.length = tile.rows.length + 1 ∧
      ∀ h, (t.core c).tile.rows.getLast? = some h → h.row = dr.row ∧ h.desc = dr.desc ∧ h.entries = o.emit) ∧
    let lining := tile.st.lins.getD dr.l.val (Accum.zero false)
    let cells := ((lining.cells.drop (32 * dr.row)).take 32).map fun v =>
      (if lining.a16 then fmtB16 else fmtA40).decode v.toNat
    let lo := fmtB32.decode (d.field 16 0 32)
    let hi := fmtB32.decode (d.field 20 0 32)
    (d.field 0 0 6 = 0 → o.cells = cells) ∧
    (d.field 0 0 6 = 32 → o.cells = cells.map fun v =>
      if hi.lt (if v.lt lo then lo else v) then hi else if v.lt lo then lo else v) ∧
    let cols := o.cells.take (d.field 9 0 6)
    let stat := tile.st.stats.getD dr.row { m := 0xFFE0000000, s := 0 }
    (d.field 0 6 2 = 0 → o.stat = stat) ∧
    (d.field 0 6 2 = 1 → o.stat = {
      m := toA40 (cols.foldl (fun m v => if m.lt v then v else m) (a40 stat.m))
      s := toA40 (cols.foldl (fun t v => (fmtA40.add t v).1) (a40 stat.s)) }) ∧
    let k := d.field 1 0 5
    let held := tile.st.topk.getD dr.row []
    let b32 (e : TopEntry) := fmtB32.decode e.val.toNat
    let beats (x y : TopEntry) : Bool := (b32 y).lt (b32 x) || (!(b32 x).lt (b32 y) && decide (x.pos.toNat < y.pos.toNat))
    let enter (l : List TopEntry) (x : TopEntry) := l.takeWhile (fun y => !beats x y) ++ x :: l.dropWhile fun y => !beats x y
    let new := (cols.zipIdx.map fun p => ({
      val := BitVec.ofNat 32 (convertOut (.bin fmtB32) (dr.mode.getLsbD 4) (dr.mode.toNat / 2 % 4) p.1).1
      pos := BitVec.ofNat 16 (32 * d.field 10 0 11 + p.2) } : TopEntry)).filter fun e => !(b32 e).isNan
    let set := (new.foldl enter held).take k
    (k = 0 → last = 0 → o.topk = held ∧ o.emit = []) ∧ (0 < k → last = 0 → o.topk = set ∧ o.emit = []) ∧
    (0 < k → last = 1 → o.topk = [] ∧ o.emit = set))

/-- R194: a row held in the epilogue takes one of the core's 8 places of the dispatch unit, with the DISPATCH_TABLE entries
that its positions have; a row without entries frees at once, and a row that finds the 8 places full stays. R196 to R198:
the dispatch writes. Here only core `c` has hand-offs. A position without an entry is listed with STATUS 5. An expert whose
replica is this node, with no token payload and a tag free, is sent as a ring append over the local loop, 64 bytes long. An
outcome leaves the operation out: appended raises DONE_CTR; ring full is listed with STATUS 1 and raises cause 3; a refusal
is listed with STATUS 3. R197, R198: a held overflow record is written at OVL_BASE + 64 + 32 x (PUT mod slots) while PUT + 1
- TAKE is at most the slots, then PUT rises and so does DONE_CTR; with the list full it stays. The record command and the
re-read of TAKE act alike. -/
def Obligations.Dispatch : Prop :=
  (∀ (c : CoreId) (h : Handoff) (rest : List Handoff) (s : State), s.tileRuns c = true → (s.core c).tile.rows = h :: rest →
    s.bw.fStop = false →
    let freed := s.setTile c { (s.core c).tile with rows := rest }
    (8 ≤ (s.core c).handoffs.length → exec (.dispatchHandoff c) s = .next s) ∧
    ((s.core c).handoffs.length < 8 → h.entries = [] → exec (.dispatchHandoff c) s = .next freed) ∧
    ((s.core c).handoffs.length < 8 → h.entries ≠ [] → exec (.dispatchHandoff c) s =
      .next (freed.setCore c { freed.core c with handoffs := (s.core c).handoffs ++
        [{ h with table := h.entries.map fun e => s.dispatchEntry e.pos.toNat }] }))) ∧
  ((∀ (c : CoreId) (h : Handoff) (rest : List Handoff) (e : TopEntry) (s : State), s.dockRuns = true → s.bw.fStop = false →
    s.enabled .dock = true → s.l2.holds = [] →
    (s.core c).handoffs = h :: rest → (∀ k, k ≠ c → (s.core k).handoffs = []) → (s.core c).overflow = [] →
    h.entries[h.next]? = some e →
    let left := if h.next + 1 < h.entries.length then { h with next := h.next + 1 } :: rest else rest
    (h.table[h.next]? = some none → exec .dispatchWriteStart s = .next
      { s.setCore c { s.core c with handoffs := left, overflow := [h.overflowRecord c h.next e 0 5] } with
        dk := { s.dk with lastCore := c.val } }) ∧
    (∀ entry ring, h.table[h.next]? = some (some entry) → h.home entry = (s.si.nodeId, ring) →
      h.bytes.field 52 0 12 = 0 → s.dk.ops = [] → s.dk.late = [] → ∃ t : State, exec .dispatchWriteStart s = .next t ∧
      (t.core c).handoffs = left ∧ t.dk.lastCore = c.val ∧
      ∃ op a, t.dk.ops = [op] ∧ t.dk.arriving = s.dk.arriving ++ [a] ∧ op.kind = .append ∧ op.route = .loop ∧ op.tag = 0 ∧
        op.owner = .dispatch c (h.overflowRecord c h.next e s.si.nodeId 0) ∧ a.kind = .append ∧
        a.addr = BitVec.ofNat 48 ring ∧ a.len = 64 ∧ a.data.bits = h.header h.next e s.si.nodeId)) ∧
  (∀ (index : Nat) (op : RemoteOp) (c : CoreId) (r : OvRecord) (cause : BitVec 8) (f : BitVec 3) (s : State), s.dockRuns = true →
    (s.dk.ops.filter (·.answer.isSome))[index]? = some op → op.owner = .dispatch c r → op.answer = some (cause, f) →
    let gone := { s with dk := { s.dk with ops := s.dk.ops.filter (·.id != op.id) } }
    (cause = 0 → exec (.dispatchOutcome index) s = .next (gone.raiseCtr r.done)) ∧
    (cause = 9 → ∃ t : State, exec (.dispatchOutcome index) s = .next t ∧ t.bw.attn.getLsbD 3 = true ∧
      (t.core c).overflow = (s.core c).overflow ++ [r.withStatus 1] ∧ t.dk.ops = gone.dk.ops) ∧
    (5 ≤ cause.toNat → cause.toNat ≤ 8 → exec (.dispatchOutcome index) s = .next (gone.setCore c
      { gone.core c with overflow := (s.core c).overflow ++ [r.withStatus 3] })))) ∧
  (∀ (c : CoreId) (r : OvRecord) (rest : List OvRecord) (s : State) (put take : Nat), s.dockRuns = true → s.l2.holds = [] →
    (s.core c).overflow = r :: rest → s.engineWord r.base.toNat = some put → s.engineWord (r.base.toNat + 8) = some take →
    take ≤ put → put < 2 ^ 63 →
    let base := r.base.toNat
    let slots := 16 * 2 ^ r.log2
    let a := base + 64 + 32 * (put % slots)
    ∀ i ∈ [Instr.overflowRecordWrite c, .overflowTakeReread c],
    (put + 1 - take ≤ slots → s.mappedAll a 32 = true → s.mapped base = true → exec i s =
      .next ((((s.setCore c { s.core c with overflow := rest }).engineStore a { len := 32, bits := r.data.toNat }).engineStore base
        { len := 8, bits := put + 1 }).raiseCtr r.done)) ∧
    (slots < put + 1 - take → exec i s = .next s))

/-- R202, R204, R205, R208, R78, R126: how a store leaves the core. The oldest store leaves the store buffer unless its slice holds
its line; where it reaches local memory the L2 then reads its bytes at its address, the core's own L1D copy takes them and no other
core keeps a copy, and elsewhere its acknowledgement carries an error. The acknowledgement takes it off the core; one with an
error, also a memory port's, makes the late bus error of the storing berth pending, which the RUNNING berth takes through entry 5
with the address and MORE in INFO; the last good acknowledgement of a pocket save sets SAVED (R119). R102, R203, R206, R207, R218,
R221: fills, the tide clean and prefetch streams. A fill puts the line that the L2 then holds into the L1 cache that asked for it,
a fetch also into the line buffer, and restarts the load that waits for it; the tide clean writes back the head of a slice's dirty
order, which stays in the L2 and is clean; an allocation leaves the whole line in the L2, after the dirty line that it displaces
from a full set has reached memory; a stream fetches its next line and moves on, or ends outside local memory. -/
def Obligations.StoreAndCacheSteps : Prop :=
  (∀ (c : CoreId) (s : State), s.meshRuns = true →
    (∀ (e : StoreEntry) (rest : List StoreEntry), s.tileRuns c = true → (s.core c).sb = e :: rest →
      s.inWindow e.addr.toNat = false →
      let line := e.addr.toNat / 64
      (s.lineHeld line = true → exec (.storeBufferDrain c) s = .next s) ∧
      (s.lineHeld line = false → s.mapped e.addr.toNat = false → exec (.storeBufferDrain c) s = .next (s.setCore c { s.core c with
        sb := rest
        sent := (s.core c).sent ++ [{ kind := .core, berth := e.berth, addr := e.addr, err := true, port := false }] })) ∧
      (s.lineHeld line = false → s.mapped e.addr.toNat = true → e.addr.toNat % sizeBytes e.size = 0 → s.memOk → ∃ t : State,
        exec (.storeBufferDrain c) s = .next t ∧ (t.core c).sb = rest ∧ (t.core c).sent.length = (s.core c).sent.length + 1 ∧
        (∀ d, (t.core c).sent.getLast? = some d → d.err = false ∧ d.addr = e.addr ∧ d.berth = e.berth) ∧
        (∀ l, s.l2.den.getLsbD c.val = true → (s.core c).l1d.find line = some l → (t.core c).l1d.find line = some
          { l with data := mergeLine l.data (BitVec.ofNat 512 (e.data.toNat * 2 ^ (8 * (e.addr.toNat % 64))))
                                     (BitVec.ofNat 64 ((2 ^ sizeBytes e.size - 1) * 2 ^ (e.addr.toNat % 64))) }) ∧
        (∀ k, k ≠ c → (t.core k).l1d.find line = none) ∧
        ∀ k, k < sizeBytes e.size → (t.sliceRead (e.addr.toNat / 64)).1.toNat / 256 ^ (e.addr.toNat % 64 + k) % 256 =
          e.data.toNat / 256 ^ k % 256)) ∧
    (∀ (d : SentStore) (rest : List SentStore) (err : Bool), (s.core c).sent = d :: rest →
      (s.core c).tile.save ≠ some 0 →
      let gone := s.setCore c { s.core c with sent := rest }
      let good := d.err = false ∧ (d.port = true → err = false)
      (d.kind ≠ .pocket → good → exec (.storeAck c err) s = .next gone) ∧
      (d.kind = .pocket → good → (∀ q ∈ rest, ¬ (q.kind = .pocket ∧ q.berth = d.berth)) → (s.berth c d.berth).pocketLost = false →
        exec (.storeAck c err) s = .next (gone.mapBerth c d.berth fun y => { y with pocketLost := false, townSaved := true })) ∧
      (d.kind ≠ .pocket → ¬ good → (s.berth c d.berth).lbe = none → exec (.storeAck c err) s = .next (gone.mapBerth c d.berth fun y =>
        { y with lbe := some { addr := d.addr, more := 0, taken := false, depth := 0 } }))) ∧
    (∀ (b : BerthId) (l : Lbe) (u : State) (g : Gangway), s.coreRuns c = true → (s.core c).running = some b →
      (s.berth c b).halted = false → (s.berth c b).customer = none → (s.berth c b).lbe = some l → l.taken = false →
      (s.abandon c b).readGangway c b 5 = (u, some g) → exec (.lateBusError c) s =
        .next (((u.mapBerth c b fun y => y.enter 5 g (s.berth c b).pc (l.more.toNat + l.addr.toNat / 8 * 8) none).traceCore c 2
          b.val 5).mapBerth c b fun y => { y with lbe := some { l with taken := true } }))) ∧
  (∀ (c : CoreId) (s : State), s.meshRuns = true →
    (∀ (line : Nat) (rest : List Nat), s.tileRuns c = true → (s.core c).fills = line :: rest → s.lineWaits line = true →
      exec (.l2Fill c none) s = .next s) ∧
    (∀ (line : Nat) (rest : List Nat), s.tileRuns c = true → (s.core c).fills = line :: rest → s.lineWaits line = false →
      ∀ (x : Issue) (rd ra : Reg) (size : Size) (imm : BitVec 10) (b : BerthId) (u : State) (v : Word), x.core = c →
      let f := (s.setCore c { s.core c with fills := rest }).fillL1d c line
      let w := f.setCore c { f.core c with stalled := none }
      let a := (w.berth c b).reg ra + imm.signExtend 64 * BitVec.ofNat 64 (sizeBytes size)
      f.runner c = some b → (f.core c).stalled = some (.ldu x rd ra size imm) → w.Executes x b → a.toNat / 64 = line →
      a.toNat % sizeBytes size = 0 → a.toNat < 2 ^ 48 → w.inWindow a.toNat = false → w.lineWaits line = false →
      (w.issued x b).coreLoad c a.toNat size = (u, .ok v) → (u.core c).rob = [] →
      exec (.l2Fill c none) s = .next (u.mapBerth c b fun z =>
        (z.setReg rd ((v.setWidth (8 * sizeBytes size)).zeroExtend 64)).next)) ∧
    (∀ (line : Nat) (rest : List Nat), s.tileRuns c = true → (s.core c).fills = line :: rest → s.lineWaits line = false →
      (s.core c).stalled = none → ∃ t : State, exec (.l2Fill c none) s = .next t ∧ (t.core c).fills = rest ∧ ((t.sliceRead line).2 = 0 →
        ∃ l, (t.core c).l1d.find line = some l ∧ l.line = line ∧ l.data = (t.sliceRead line).1)) ∧
    (∀ a : BitVec 48, s.tileRuns c = true → s.mapped a.toNat = true → s.inWindow a.toNat = false →
      s.lineWaits (a.toNat / 64) = false → ∃ t : State, exec (.l2Fill c (some a)) s = .next t ∧
        ((t.sliceRead (a.toNat / 64)).2 = 0 →
          (t.core c).lineBuf.getLast? = some { line := a.toNat / 64, data := (t.sliceRead (a.toNat / 64)).1 }) ∧
        ((t.sliceRead (a.toNat / 64)).2 = 0 → s.l2.ien.getLsbD c.val = true →
          ∃ l, (t.core c).l1i.find (a.toNat / 64) = some l ∧ l.data = (t.sliceRead (a.toNat / 64)).1)) ∧
    (∀ (n : SliceId) (line : Nat) (rest : List Nat) (x : L2Line), s.dirtyLimit < (s.l2.dirtyOf n.val).length + 256 →
      s.l2.dirtyOf n.val = line :: rest → s.l2.find line = some x → x.dirty = true → x.poison = 0 →
      exec (.tideCleanWriteback n) s = .next { s with
        mem := cellsPutLine s.mem line x.data x.mask
        memBad := badClear s.memBad line x.mask
        l2 := { s.l2 with lines := s.l2.lines.map fun y => if y.line == line then { x with dirty := false } else y,
                          order := s.l2.order.filter (· != line) } }) ∧
    (∀ n : SliceId, (s.l2.dirtyOf n.val).length + 256 ≤ s.dirtyLimit → exec (.tideCleanWriteback n) s = .next s) ∧
    (∀ a : BitVec 48, s.enabled .l2 = true → s.inRange a.toNat = true → s.scratchLine (a.toNat / 64) = false → ∃ t : State,
      exec (.dirtyVictim a) s = .next t ∧ (∃ x, t.l2.find (a.toNat / 64) = some x ∧ x.mask = BitVec.allOnes 64) ∧
      ((∃ x, s.l2.find (a.toNat / 64) = some x ∧ x.mask = BitVec.allOnes 64) → t = s) ∧
      ∀ v, let here := s.l2.lines.filter fun x => l2Key x.line == l2Key (a.toNat / 64)
        let way := (aget (l2Key (a.toNat / 64)) s.l2.ptrs).getD 0
        s.l2.find (a.toNat / 64) = none → (∀ w, w < s.cacheWays → ∃ x ∈ here, x.way = w) → here.find? (·.way == way) = some v →
        s.l2.find v.line = some v → v.dirty = true → v.poison = 0 →
        t.mem = cellsPutLine s.mem v.line v.data v.mask ∧ t.l2.find v.line = none ∧
          ∃ x, t.l2.find (a.toNat / 64) = some x ∧ x.way = way) ∧
    (∀ (q : PfStream) (rest : List PfStream), s.coreRuns c = true → (s.core c).streams = q :: rest → q.next ≤ q.high + 8 →
      (s.inRange (64 * q.next) = false → exec (.streamFetch c) s = .next (s.setCore c { s.core c with streams := rest })) ∧
      (s.inRange (64 * q.next) = true → ∃ t : State, exec (.streamFetch c) s = .next t ∧
        (t.core c).streams = { q with next := q.next + 1 } :: rest ∧
        (s.missFull (sliceOf q.next) = false → 64 * q.next < 2 ^ 48 → ∃ x, t.l2.find q.next = some x ∧ x.mask = BitVec.allOnes 64))))

/-- R42, R90, R91: the customer instructions. With CPn_PRESENT high the request leaves under the lowest tag free (the model's choice,
log entry 92), with the whole instruction word and both operands on the port's signals, and the berth waits for it; with all 32
tags in flight the instruction waits; with CPn_PRESENT low the form is illegal. The response writes rd for CUSTW0 and CUSTW1 and
moves on; with ERR, or without a response in time, bus error is raised; a tag whose time limit has passed stays in flight until
its late response, which is discarded. R45: a halt that is due takes place once the response has come. -/
def Obligations.CustomerInstructions : Prop :=
  (∀ (x : Issue) (rd ra rb : Reg) (func : BitVec 7) (s : State) (b : BerthId), s.Executes x b →
    let y := s.berth x.core b
    let word (major : Nat) : BitVec 32 := BitVec.ofNat 32 ((if x.sense then 2 ^ 31 else 0) + x.pred.val * 2 ^ 28 +
      major * 2 ^ 22 + rd.val * 2 ^ 17 + ra.val * 2 ^ 12 + rb.val * 2 ^ 7 + func.toNat)
    let sends (t : Nat) (major : Nat) (w : Option Reg) : Host.Outcome State Fault Refusal :=
      let asked : State := (s.issued x b).setCore x.core { (s.issued x b).core x.core with
        cust := (s.core x.core).cust ++
          [{ tag := BitVec.ofNat 5 t, berth := b, insn := word major, opa := y.reg ra, opb := y.reg rb, rd := w }]
        cpOut := { tag := BitVec.ofNat 5 t, insn := word major, opa := y.reg ra, opb := y.reg rb } }
      .next (State.mapBerth { asked with pins := { s.pins with cpReq := setBit s.pins.cpReq x.core.val true } } x.core b
        fun z => { z with customer := some (BitVec.ofNat 5 t) })
    let used (t : Nat) := (∃ r ∈ (s.core x.core).cust, r.tag.toNat = t) ∨ ∃ r ∈ (s.core x.core).custLate, r.toNat = t
    (s.cpPresent.getLsbD x.core.val = true → (∀ t, t < 32 → used t) → ∀ i ∈ [Instr.custw0 x rd ra rb func, .custw1 x rd ra rb func,
      .cust0 x rd ra rb func, .cust1 x rd ra rb func],
      exec i s = .next (s.setCore x.core { s.core x.core with stalled := some i })) ∧
    (s.cpPresent.getLsbD x.core.val = true → ∀ t, t < 32 → ¬ used t → (∀ u, u < t → used u) →
      exec (.custw0 x rd ra rb func) s = sends t 0x3C (some rd) ∧ exec (.custw1 x rd ra rb func) s = sends t 0x3D (some rd) ∧
      exec (.cust0 x rd ra rb func) s = sends t 0x3E none ∧ exec (.cust1 x rd ra rb func) s = sends t 0x3F none) ∧
    (s.cpPresent.getLsbD x.core.val = false → ∀ i ∈ [Instr.custw0 x rd ra rb func, .custw1 x rd ra rb func,
      .cust0 x rd ra rb func, .cust1 x rd ra rb func], exec i s = .next ((s.issued x b).raise x.core b 1 0))) ∧
  (∀ (c : CoreId) (tag : BitVec 5) (data : Word) (r : CustReq) (s : State), s.custClock c = true →
    (s.core c).cust.find? (·.tag == tag) = some r →
    let gone := (s.setCore c { s.core c with cust := (s.core c).cust.filter (·.tag != tag) }).mapBerth c r.berth
      fun y => { y with customer := none }
    let late := gone.setCore c { gone.core c with custLate := (s.core c).custLate ++ [tag] }
    ((s.core c).haltDue = none → ∀ rd, r.rd = some rd → exec (.coprocessorResponse c tag data false) s =
      .next (gone.mapBerth c r.berth fun y => (y.setReg rd data).next)) ∧
    ((s.core c).haltDue = none → r.rd = none →
      exec (.coprocessorResponse c tag data false) s = .next (gone.mapBerth c r.berth Berth.next)) ∧
    (∀ q, (s.core c).haltDue = some q → (s.core c).stalled = none → (s.core c).running = some r.berth →
      (s.core c).traceEn = false → ∃ t : State, exec (.coprocessorResponse c tag data false) s = .next t ∧
        (t.core c).halted = true ∧ (t.core c).reason = q ∧ (t.core c).haltDue = none ∧
        (t.berth c r.berth).pc = (s.berth c r.berth).pc + 4) ∧
    exec (.coprocessorResponse c tag data true) s = .next ((gone.raise c r.berth 4 0).haltIfDue c) ∧
    exec (.coprocessorTimeout c tag) s =
      .next (((late.raise c r.berth 4 0).detect (plainFault 0x13 c.val)).haltIfDue c)) ∧
  (∀ (c : CoreId) (tag : BitVec 5) (data : Word) (err : Bool) (s : State), s.custClock c = true →
    (s.core c).cust.find? (·.tag == tag) = none →
    (tag ∉ (s.core c).custLate → exec (.coprocessorResponse c tag data err) s = .next (s.detect (plainFault 0x13 c.val))) ∧
    (tag ∈ (s.core c).custLate → exec (.coprocessorResponse c tag data err) s =
      .next (s.setCore c { s.core c with custLate := (s.core c).custLate.filter (· != tag) })))

/-- R114 to R116: the pilot accepts an arrival. Here one event is offered to the core, from a latched source. It takes a
free entry of the 64 with count 1, the age of its arrival and the priority and vector of its event; an arrival of a coalescing
event raises the count of the entry that waits for the same event and berth; with the store full it goes to the spill ring of its
berth where that has one, and stays offered otherwise. A spilled arrival returns to the store when an entry is free. R109, R113,
R122: the pilot's choice. The best entry of a berth is the deliverable one of highest priority, then oldest, then lowest id. The
effective priority of a berth that is not halted is the greatest of its best entry's, its run priority unless it is WAITING, and 15
with a late bus error pending. The pilot chooses the berth of highest effective priority, then the RUNNING one, then the one with the
older best entry, then the lowest number, and selects it unless it runs already; the switch makes the selected berth RUNNING,
abandons what the berth left has not retired and completes its MODE writes; the RUNNING berth, while it is the choice, takes its best
entry through the entry's vector, with the count in INFO and the entry's priority as its run priority. -/
def Obligations.PilotSteps : Prop :=
  (∀ (c : CoreId) (s : State), s.pilotRuns = true → s.enabled (.core c) = true →
    (∀ (o : Offer), s.pastStop = false → s.pl.offers = [o] → o.core = c → o.src = .latch →
      (s.berth c o.terms.berth).halted = false →
      let b := o.terms.berth
      let taken (k : Core) : State :=
        State.wake { s.setCore c k with pl := { s.pl with offers := [], fabric := s.pl.fabric + 1 } } c
      let entry : Arrival :=
        { id := o.id, berth := b, count := 1, age := s.pl.fabric, prio := o.terms.prio, vector := o.terms.vector }
      (o.terms.coalesce = false → (s.core c).pend.length < 64 → (s.core c).spilled = [] →
        exec (.arrivalAccept c) s = .next (taken { s.core c with pend := (s.core c).pend ++ [entry] })) ∧
      (∀ e rest, o.terms.coalesce = true → (s.core c).pend = e :: rest → e.id = o.id → e.berth = b →
        e.count ≠ 0xFFFF →
        exec (.arrivalAccept c) s = .next (taken { s.core c with pend := { e with count := e.count + 1 } :: rest })) ∧
      (o.terms.coalesce = false → 64 ≤ (s.core c).pend.length → berthSpill s.pilotPlan c.val b.val = true → s.l2.holds = [] →
        ((s.core c).spilled.filter (·.1.berth == b)).length < berthSpillSlots s.pilotPlan c.val b.val → ∃ t : State,
        exec (.arrivalAccept c) s = .next t ∧ o ∉ t.pl.offers ∧ (t.core c).pend = (s.core c).pend ∧
        (t.core c).spilled.map (·.1) = (s.core c).spilled.map (·.1) ++ [entry]) ∧
      (o.terms.coalesce = false → 64 ≤ (s.core c).pend.length →
        berthSpill s.pilotPlan c.val b.val = false → exec (.arrivalAccept c) s = .next s)) ∧
    (∀ (a : Arrival) (n : Nat) (rest : List (Arrival × Nat)), (s.core c).pend.length < 64 →
      (s.core c).spilled = (a, n) :: rest → exec (.spillReturn c) s =
      .next ((s.setCore c { s.core c with spilled := rest, pend := (s.core c).pend ++ [a] }).wake c)) ∧
    (s.pastStop = true → exec (.arrivalAccept c) s = .next s)) ∧
  (∀ (c : CoreId) (s : State), s.pilotRuns = true → s.coreRuns c = true →
    exec (.pilotSelect c) s = .next (s.setCore c { s.core c with
      selected := if s.choice c = (s.core c).running then none else s.choice c }) ∧
    (∀ b, (s.core c).selected = some b → (s.core c).running ≠ some b → (s.core c).last ≠ b → (s.core c).haltDue = none →
      (s.berth c b).lbe = none → (s.berth c b).pocketFault = none → (s.berth c b).epiFaults = [] →
      (s.core c).traceEn = false → ∃ t : State, exec (.berthSwitch c) s = .next t ∧ (t.core c).running = some b ∧
        (t.core c).selected = none ∧ (t.core c).stalled = none ∧ (t.core c).rob = [] ∧
        t.berth c (s.core c).last = { (s.berth c (s.core c).last).completeModes with midway := false } ∧
        (∀ a, a ≠ (s.core c).last → t.berth c a = s.berth c a) ∧ { t with cores := s.cores } = s) ∧
    (∀ (b : BerthId) (e : Arrival) (u : State) (g : Gangway), (s.core c).running = some b → (s.berth c b).halted = false →
      (s.berth c b).customer = none → (s.berth c b).lbe = none → (s.berth c b).pocketFault = none →
      (s.berth c b).epiFaults = [] → (s.core c).haltDue = none → s.choice c = some b → s.bestEntry c b = some e →
      let vector := e.vector.toNat
      (State.abandon ((s.setCore c { s.core c with pend := (s.core c).pend.filter (· != e) }).mapBerth c b fun y =>
        { y with waiting := false }) c b).readGangway c b vector = (u, some g) →
      exec (.eventEntry c) s = .next ((u.mapBerth c b fun y => y.enter vector g (s.berth c b).pc e.count.toNat
        (some e.prio)).traceCore c 2 b.val vector)) ∧
    (∀ b, (s.core c).running = some b → s.choice c ≠ some b → exec (.eventEntry c) s = .next s)) ∧
  (∀ (c : CoreId) (s : State),
    (s.choice c = none ↔ ∀ b, s.effective c b = none) ∧
    (∀ b, s.choice c = some b → ∃ p, s.effective c b = some p ∧ ∀ a q, a ≠ b → s.effective c a = some q →
      q < p ∨ (q = p ∧ ((s.core c).running = some b ∨ ((s.core c).running ≠ some a ∧
        match s.bestEntry c b, s.bestEntry c a with
        | some e, some f => e.age.toNat < f.age.toNat ∨ (e.age = f.age ∧ b.val < a.val)
        | some _, none => True
        | none, some _ => False
        | none, none => b.val < a.val)))) ∧
    (∀ b p, s.effective c b = some p ↔ ((s.berth c b).halted = false ∧
      let has (q : Nat) := (∃ e, s.bestEntry c b = some e ∧ e.prio.toNat = q) ∨
        ((s.berth c b).waiting = false ∧ (s.berth c b).prio.toNat = q) ∨ ((s.berth c b).lbePending = true ∧ q = 15)
      has p ∧ ∀ q, has q → q ≤ p)) ∧
    (∀ b e, s.bestEntry c b = some e →
      let due (f : Arrival) := f ∈ (s.core c).pend ∧ f.berth = b ∧ (s.berth c b).ie = true ∧ (s.berth c b).halted = false ∧
        ((s.berth c b).waiting = true ∨ (s.berth c b).prio.toNat < f.prio.toNat)
      due e ∧ ∀ f, due f → f.prio.toNat < e.prio.toNat ∨ (f.prio = e.prio ∧
        (e.age.toNat < f.age.toNat ∨ (e.age = f.age ∧ e.id.toNat ≤ f.id.toNat)))))

/-- R34 to R38, R111, R112: the ingress descriptor port. A credit is granted while the buffer could still take its beat; a
beat uses one. A FIRST beat starts a descriptor, further beats join it; a beat without a credit, and one that starts no
descriptor, is discarded and recorded as source 0x24. The oldest complete descriptor is framed: event 0 for FORM 1, 1 for
FORM 2, 2 for a malformed one, and without a valid event entry it leaves the buffer. R117, R118: the inbox. A descriptor's
record goes to slot PUT of its berth's ring, that of FORM 2 with its four further beats to the slots that follow, while PUT + n -
TAKE is at most the slots (n is 5 for FORM 2, else 1), PUT rises by n, the berth's sequence number rises, and the event is offered
to the core. With the ring full the descriptor waits, and while a quay program holds one of the lines (R208). The
record command and the re-read of TAKE act alike. -/
def Obligations.IngressAndInbox : Prop :=
  (∀ (s : State) (data : Line), s.meshRuns = true →
    let fault (t : State) : Host.Outcome State Fault Refusal := .next (t.detect { plainFault 0x24 0 with master := 0x5000 })
    let fresh : IngressBuf := { bad := false, beats := [data] }
    (s.enabled .pilot = true → s.pl.credits + s.pl.beats < 1024 →
      exec .ingressCreditGrant s = .next { s with
        pl := { s.pl with credits := s.pl.credits + 1 }, pins := { s.pins with credit := true } }) ∧
    (s.pl.credits + s.pl.beats = 1024 → exec .ingressCreditGrant s = .next s) ∧
    (∀ first, s.pl.credits = 0 → exec (.ingressBeat first data) s = fault { s with pl := { s.pl with overrun := true } }) ∧
    (∀ n, s.pl.credits = n + 1 →
      let kept (l : List IngressBuf) : State := { s with pl := { s.pl with credits := n, buffer := l } }
      (s.pl.buffer = [] → exec (.ingressBeat true data) s = .next (kept [fresh]) ∧
        exec (.ingressBeat false data) s = fault (kept [])) ∧
      (∀ l d, s.pl.buffer = l ++ [d] → d.complete = true →
        exec (.ingressBeat true data) s = .next (kept (l ++ [d, fresh])) ∧
        exec (.ingressBeat false data) s = fault (kept (l ++ [d]))) ∧
      (∀ l d, s.pl.buffer = l ++ [d] → d.complete = false →
        exec (.ingressBeat false data) s = .next (kept (l ++ [{ d with beats := d.beats ++ [data] }])) ∧
        exec (.ingressBeat true data) s = fault (kept (l ++ [{ bad := true, beats := d.beats.take 1 }, fresh])))) ∧
    (∀ (h : Line) (more : List Line) (rest : List IngressBuf), s.bw.fStop = false → s.enabled .pilot = true →
      s.pl.current = none → s.pl.buffer = { bad := false, beats := h :: more } :: rest → headBad h = false →
      (h.toNat % 16 = 1 ∧ more = [] ∨ h.toNat % 16 = 2 ∧ more.length = 4) →
      let id := h.toNat % 16 - 1
      exec .ingressDescriptor s = .next { s with pl := { s.pl with
        buffer := rest
        current := if evValid s.pilotPlan id then some { id := BitVec.ofNat 12 id, beats := h :: more, written := false }
          else none } }) ∧
    (∀ (h : Line) (more : List Line) (rest : List IngressBuf) (bad : Bool), s.bw.fStop = false → s.enabled .pilot = true →
      s.pl.current = none → s.pl.buffer = { bad := bad, beats := h :: more } :: rest →
      bad = true ∨ (headBad h = true ∧ (h.toNat % 16 = 2 → 4 ≤ more.length)) →
      exec .ingressDescriptor s = .next { s with pl := { s.pl with
        buffer := rest
        current := if evValid s.pilotPlan 2 then some { id := 2, beats := [h], written := false } else none } })) ∧
  (∀ (d : IngressDesc) (head : Line) (more : List Line) (c : CoreId) (put take : Nat) (s : State), s.pilotRuns = true →
    s.l2.holds = [] → s.pastStop = false → s.pl.current = some d → d.written = false → d.beats = head :: more →
    s.portTarget d.id.toNat (head.toNat / 256 % 256) = some c →
    let b := evBerth s.pilotPlan d.id.toNat
    let base := berthInbox s.pilotPlan c.val b
    let slots := berthInboxSlots s.pilotPlan c.val b
    s.engineWord base = some put → s.engineWord (base + 8) = some take → take ≤ put → put < 2 ^ 63 →
    ∀ i ∈ [Instr.inboxRecordWrite, .inboxTakeReread],
    (d.id ≠ 1 → put + 1 - take ≤ slots → s.mapped base = true → s.mapped (base + 64 + 64 * (put % slots)) = true →
      let seq := (aget (8 * c.val + b) s.pl.seqs).getD 0
      let line := ((s.engineStore (base + 64 + 64 * (put % slots)) ((inboxRecord { d with beats := [head] } seq).slice 0 64)).engineStore
        base { len := 8, bits := put + 1 })
      more = [] → exec i s = .next { line with pl := { line.pl with
        current := some { d with written := true }, seqs := aput (8 * c.val + b) (seq + 1) line.pl.seqs
        offers := addOffer line.pl.offers
          { id := d.id, core := c, src := .ingress, terms := evTerms s.pilotPlan d.id.toNat } } }) ∧
    (d.id = 1 → put + 5 - take ≤ slots → s.mapped base = true → more.length = 4 →
      let place (k : Nat) := base + 64 + 64 * ((put + k) % slots)
      (∀ k, k < 5 → s.mapped (place k) = true) →
      let seq := (aget (8 * c.val + b) s.pl.seqs).getD 0
      let rec_ := inboxRecord d seq
      let lines := [0, 1, 2, 3, 4].foldl (fun t k => t.engineStore (place k) (rec_.slice (64 * k) 64)) s
      let line := lines.engineStore base { len := 8, bits := put + 5 }
      (∀ k, k < 4 → rec_.bits / 2 ^ (512 * (k + 1)) % 2 ^ 512 = (more.getD k 0).toNat) ∧
      exec i s = .next { line with pl := { line.pl with
        current := some { d with written := true }, seqs := aput (8 * c.val + b) (seq + 1) line.pl.seqs
        offers := addOffer line.pl.offers
          { id := d.id, core := c, src := .ingress, terms := evTerms s.pilotPlan d.id.toNat } } }) ∧
    (slots < put + (if d.id = 1 then 5 else 1) - take → exec i s = .next s))

/-- R39 to R41, R49: the table port and the classifier. A command with GO set goes out once, on the tag of its slot; one with a
reserved OP that waited for PILOT is answered BAD_COMMAND in its place (the model's choice, log entry 100); the
classifier answers each command sent: BAD_COMMAND (4), insertion with ENTRY or EXISTS (1) or FULL (3), deletion or NOT_FOUND
(2), and lookup, which with EFFECTIVE falls back to the global table. The response goes to the slot, clears GO and raises
table done; one for a slot without a command is recorded as source 0x25. -/
def Obligations.TablePort : Prop :=
  ∀ (n : Fin 16) (s : State), s.meshRuns = true →
    let x := s.slot n
    let c := x.command
    let answers (l : List TableEntry) (r : BitVec 128) : Host.Outcome State Fault Refusal :=
      .next { s with tp := { s.tp with tables := l, answers := s.tp.answers ++ [(n, r)] } }
    let table : Option Byte := if c.getLsbD 23 then none else some (BitVec.ofNat 8 (c.toNat / 2 ^ 8))
    let key (e : TableEntry) : Bool :=
      e.key == BitVec.ofNat 384 (c.toNat / 2 ^ 128 % 2 ^ (8 * (c.toNat / 2 ^ 24 % 256))) && e.klen.toNat == c.toNat / 2 ^ 24 % 256
    let own := s.tp.tables.find? fun e => e.port == table && key e
    let global := s.tp.tables.find? fun e => e.port == none && key e
    let waits := x.sent = true ∧ ∀ a ∈ s.tp.answers, a.1 ≠ n
    let act (e : TableEntry) : BitVec 128 :=
      BitVec.ofNat 128 (e.entry.toNat * 2 ^ 32 + e.act.toNat * 2 ^ 56 + e.data.toNat * 2 ^ 64)
    (s.pilotRuns = true → x.go = true → x.sent = false → 1 ≤ c.toNat % 256 → c.toNat % 256 ≤ 3 →
      exec (.tableCommandSend n) s = .next { s with
        tp := { s.tp with slots := s.tp.slots.set n { x with sent := true }, cmdTag := BitVec.ofNat 4 n.val, cmdData := c }
        pins := { s.pins with tpCmd := true } }) ∧
    (s.pilotRuns = true → x.go = true → x.sent = false → c.toNat % 256 = 0 ∨ 3 < c.toNat % 256 → ∃ t : State,
      exec (.tableCommandSend n) s = .next t ∧ t.pins = s.pins ∧
      t.tp = { s.tp with slots := s.tp.slots.set n { x with response := 4, go := false, sent := false } }) ∧
    (∀ entry room, waits → c.toNat % 256 = 1 → tcBad c = false →
      (own.isSome = true → exec (.insert n entry room) s = answers s.tp.tables 1) ∧
      (own = none → room = false → exec (.insert n entry room) s = answers s.tp.tables 3) ∧
      (own = none → room = true → ∃ e : TableEntry, key e = true ∧ e.port = table ∧ e.entry = entry ∧
        e.data = BitVec.ofNat 64 (c.toNat / 2 ^ 64) ∧
        exec (.insert n entry room) s = answers (s.tp.tables ++ [e]) (BitVec.ofNat 128 (entry.toNat * 2 ^ 32)))) ∧
    (waits → c.toNat % 256 = 2 → tcBad c = false →
      (∀ e, own = some e → exec (.delete n) s = answers (s.tp.tables.filter (· != e)) (BitVec.ofNat 128 (e.entry.toNat * 2 ^ 32))) ∧
      (own = none → exec (.delete n) s = answers s.tp.tables 2)) ∧
    (waits → c.toNat % 256 = 3 → tcBad c = false →
      (∀ e, own = some e → exec (.lookup n) s = answers s.tp.tables (act e)) ∧
      (∀ e, own = none → c.getLsbD 22 = true → global = some e → exec (.lookup n) s = answers s.tp.tables (act e)) ∧
      (own = none → c.getLsbD 22 = false ∨ global = none → exec (.lookup n) s = answers s.tp.tables 2)) ∧
    (∀ op entry room, waits → c.toNat % 256 = op → tcBad c = true →
      (op = 1 → exec (.insert n entry room) s = answers s.tp.tables 4) ∧ (op = 2 → exec (.delete n) s = answers s.tp.tables 4) ∧
      (op = 3 → exec (.lookup n) s = answers s.tp.tables 4)) ∧
    (∀ data : BitVec 128, x.sent = true → data.toNat % 256 < 5 → ∃ t : State, exec (.tableResponse n data) s = .next t ∧
      t.tp.slots = s.tp.slots.set n { x with response := data, go := false, sent := false } ∧
      (evValid s.pilotPlan 3 = true → t.offered 3 (.table n) = true)) ∧
    (∀ data : BitVec 128, x.sent = false → exec (.tableResponse n data) s =
      .next (s.detect { plainFault 0x25 0 with master := 0x5000 }))

/-- R21 to R25, R200, R250: the memory ports. A request that the rules of the port admit, on the port of the slice that owns its line,
stands on the port's signals and is outstanding under its tag, and a write puts the bytes that its strobes select into memory; a
response frees the tag, its data is what memory holds, or is poisoned where it is uncorrected, it fills the L2 line of a slice's
read, and an error is recorded: 1 corrected as 0x18, 2 and 3 uncorrected as 0x19, 3 also as 0x1A, a scrub's as 0x1B and 0x1C; a tag
that is not outstanding and a late answer are recorded as 0x1A. A response under the tag of a write, or an acknowledgement under
that of a read, is discarded as one of a tag that is not outstanding (the model's choice, log entry 98). -/
def Obligations.MemoryPorts : Prop :=
  ∀ (n : SliceId) (s : State), s.quayRuns = true →
    let held := s.ports[n]
    (∀ (write : Bool) (client : Client) (addr : BitVec 42) (tag : BitVec 9) (data : BitVec 1024) (strb : BitVec 128),
      s.enabled .memory = true → sliceOf addr.toNat = n.val → (s.engine n).test = false → (∀ r ∈ held, r.tag ≠ tag) →
      (client = .slice → write = false → s.missFull n.val = false ∧ s.missing addr.toNat = false) →
      (∀ r ∈ held, r.write ≠ write → r.line ≠ addr.toNat ∧ (r.len = true → r.line + 1 ≠ addr.toNat)) → ∃ t : State,
      exec (.memoryRequest n write client addr false tag data strb) s = .next t ∧ t.ports = s.ports.set n
        (held ++ [{ tag := tag, write := write, client := client, line := addr.toNat, len := false }]) ∧
      (write = false → { t with ports := s.ports, pins := s.pins } = s ∧ t.pins.mp[n] = { s.pins.mp[n] with
        rdValid := true, rdAddr := addr, rdLen := false, rdTag := tag }) ∧
      (write = true → t.pins.mp[n] = { s.pins.mp[n] with
        wrValid := true, wrAddr := addr, wrLen := false, wrTag := tag, wrData := data, wrStrb := strb }) ∧
      (write = true → addr.getLsbD 0 = false →
        client = .slice ∨ (s.scratchLine addr.toNat = false ∧ s.l2.find addr.toNat = none) →
        t.mem = cellsPutLine s.mem addr.toNat (data.setWidth 512) (strb.setWidth 64))) ∧
    (∀ (r : PortReq) (data : BitVec 1024), held.find? (·.tag == r.tag) = some r → r.write = false → r.len = false →
      let freed : State := { s with ports := s.ports.set n (held.filter (·.tag != r.tag)) }
      let fault (src : Nat) : FaultEvent := { plainFault src n.val with
        access := 1, master := clientMaster r.client n, addr := BitVec.ofNat 48 (64 * r.line) }
      let good : State := { freed with
        mem := cellsPutLine s.mem r.line (data.setWidth 512) (BitVec.allOnes 64), memBad := adel r.line s.memBad }
      let bad : State := { freed with memBad := aput r.line 0xFF s.memBad }
      (r.client = .dock ∨ r.client = .program → r.line % 2 = 0 → exec (.memoryReadResponse n r.tag data 0) s = .next good ∧
        exec (.memoryReadResponse n r.tag data 1) s = .next (good.detect (fault 0x18)) ∧
        exec (.memoryReadResponse n r.tag data 2) s = .next (bad.detect (fault 0x19)) ∧
        exec (.memoryReadResponse n r.tag data 3) s = .next
          ((bad.detect (fault 0x19)).detect { fault 0x1A with covered := true })) ∧
      (r.client = .scrub → r.line % 2 = 0 → exec (.memoryReadResponse n r.tag data 1) s = .next (good.detect (fault 0x1B)) ∧
        exec (.memoryReadResponse n r.tag data 2) s = .next (freed.detect (fault 0x1C))) ∧
      (r.client = .slice → s.scratchLine r.line = false → s.l2.find r.line = none → r.line % 2 = 0 → ∃ t : State,
        exec (.memoryReadResponse n r.tag data 2) s = .next t ∧ ∃ x, t.l2.find r.line = some x ∧ x.poison = 0xFF) ∧
      (r.client = .slice → s.scratchLine r.line = false → s.l2.find r.line = none → r.line % 2 = 0 → ∃ t : State,
        exec (.memoryReadResponse n r.tag data 0) s = .next t ∧ t.ports = freed.ports ∧
        ∃ x, t.l2.find r.line = some x ∧ x.data = data.setWidth 512 ∧ x.mask = BitVec.allOnes 64 ∧ x.dirty = false)) ∧
    (∀ (r : PortReq), held.find? (·.tag == r.tag) = some r → r.write = true →
      let freed : State := { s with ports := s.ports.set n (held.filter (·.tag != r.tag)) }
      (r.client ≠ .dock → exec (.memoryWriteAck n r.tag 0) s = .next freed) ∧
      (r.client = .dock → exec (.memoryWriteAck n r.tag 0) s = .next (freed.dockAcked r.line false)) ∧
      (r.client = .slice ∨ r.client = .program → exec (.memoryWriteAck n r.tag 2) s = .next (freed.detect { plainFault 0x19 n.val with
        access := 2, master := clientMaster r.client n, addr := BitVec.ofNat 48 (64 * r.line) }))) ∧
    (∀ (tag : BitVec 9) (data : BitVec 1024) (err : BitVec 2),
      let unknown (access : BitVec 4) := Host.Outcome.next (φ := Fault) (ρ := Refusal)
        (s.detect { plainFault 0x1A n.val with access := access })
      (held.find? (·.tag == tag) = none → exec (.memoryReadResponse n tag data err) s = unknown 1 ∧
        exec (.memoryWriteAck n tag err) s = unknown 2) ∧
      (∀ r, held.find? (·.tag == tag) = some r →
        (r.write = true → exec (.memoryReadResponse n tag data err) s = unknown 1) ∧
        (r.write = false → exec (.memoryWriteAck n tag err) s = unknown 2))) ∧
    (∀ r : PortReq, held.find? (·.tag == r.tag) = some r → s.enabled .memory = true →
      exec (.memoryResponseLate n r.tag) s = .next (s.detect { plainFault 0x1A n.val with
        access := if r.write then 2 else 1, master := clientMaster r.client n, addr := BitVec.ofNat 48 (64 * r.line) }))

/-- R226 to R228: exact accumulation. The oldest update of an engine joins the merge entry of its line, or opens one of the
64, and waits while all are in use; the flags of its elements are kept. A merge entry that no quay program holds and that awaits
no acknowledgement is written by reading its line and adding to each of its 8 accumulators exactly, with the sum clamped to 64
bits; outside scratch it then stays, empty, until the write is acknowledged. A poisoned line is not written and its entry closes.
R227: what an element adds, and how updates of one accumulator combine: an INT64 element adds its value; NaN adds nothing and
sets INV; an infinity sets the accumulator to its bound and SAT; every finite number of each float format adds itself times
2^XSCALE, rounded to an integer to nearest, ties to even (said of values that are exact, and of halves), with SAT where that is
clamped to 64 bits. A bound discards what came before it. -/
def Obligations.ExactAccumulation : Prop :=
  (∀ (n : SliceId) (s : State), s.quayRuns = true → (s.engine n).test = false →
    (∀ (u : LineUpdate) (rest : List LineUpdate), (s.engine n).updates = u :: rest →
      let raised (t : State) : Prop := (t.engine n).updates = rest ∧ t.mem = s.mem ∧
        t.xflag n.val u.region = s.xflag n.val u.region ||| BitVec.ofNat 3 ((if u.sat then 1 else 0) + if u.inv then 2 else 0)
      ((∀ m ∈ (s.engine n).merge, m.line ≠ u.line) → (s.engine n).merge.length < 64 → ∃ t : State,
        exec (.accumulatorUpdate n) s = .next t ∧ raised t ∧ (t.engine n).merge = (s.engine n).merge ++
          [{ line := u.line, region := u.region, ops := [u.op], sums := u.elems, out := false, sent := [] }]) ∧
      (∀ pre m post, (s.engine n).merge = pre ++ m :: post → (∀ x ∈ pre, x.line ≠ u.line) → m.line = u.line → ∃ t : State,
        exec (.accumulatorUpdate n) s = .next t ∧ raised t ∧ (t.engine n).merge =
          pre ++ { m with ops := m.ops ++ [u.op], sums := List.zipWith Pend64.then_ m.sums u.elems } :: post) ∧
      ((∀ m ∈ (s.engine n).merge, m.line ≠ u.line) → 64 ≤ (s.engine n).merge.length →
        exec (.accumulatorUpdate n) s = .next s)) ∧
    (∀ (i : Fin 64) (m : MergeEntry) (d : Line) (p : BitVec 8), (s.engine n).merge[i.val]? = some m →
      m.out = false → s.lineHeld m.line = false → s.engineRead m.line = (d, p) → ∃ t : State,
        exec (.mergeWrite n i) s = .next t ∧
        (p ≠ 0 → t.mem = s.mem ∧ t.l2 = s.l2 ∧ (t.engine n).merge = (s.engine n).merge.eraseIdx i.val) ∧
        (p = 0 → s.scratchLine m.line = true → (t.engine n).merge = (s.engine n).merge.eraseIdx i.val) ∧
        (p = 0 → s.scratchLine m.line = false → (t.engine n).merge =
          (s.engine n).merge.set i.val { m with ops := [], sums := noSums, out := true, sent := m.ops }) ∧
        (p = 0 → s.memOk → m.sums.length = 8 → accsOf (t.engineRead m.line).1 = List.zipWith (fun (q : Pend64) (v : Int) =>
          Max.max (-(2 : Int) ^ 63) (Min.min (2 ^ 63 - 1) (q.bound.getD v + q.sum))) m.sums (accsOf d)))) ∧
  ((∀ (xscale : Int) (raw : BitVec 64), elementOf 4 xscale raw.toNat = ({ bound := none, sum := raw.toInt }, false, false)) ∧
  (∀ (xscale : Int), elementOf 2 xscale 0x7FC00000 = ({ bound := none, sum := 0 }, true, false) ∧
    elementOf 2 xscale 0x7F800000 = ({ bound := some (2 ^ 63 - 1), sum := 0 }, false, true) ∧
    elementOf 2 xscale 0xFF800000 = ({ bound := some (-(2 ^ 63)), sum := 0 }, false, true)) ∧
  (∀ (xfmt : Nat) (f : FloatFmt) (xscale : Int) (raw m : Nat) (neg : Bool) (e : Int),
    (xfmt, f) ∈ [(0, fmtBF16), (1, fmtB16), (2, fmtB32), (3, fmtA40)] → f.decode raw = .fin neg m e →
    let k := rneInt neg m (e + xscale)
    let c := Max.max (-(2 : Int) ^ 63) (Min.min (2 ^ 63 - 1) k)
    elementOf xfmt xscale raw = ({ bound := none, sum := c }, false, c != k)) ∧
  (∀ (m e : Nat) (neg : Bool), rneInt neg m e = (if neg then -(m * 2 ^ e : Int) else m * 2 ^ e)) ∧
  (∀ m : Nat, rneInt false (4 * m + 1) (-1) = 2 * m ∧ rneInt false (4 * m + 3) (-1) = 2 * m + 2 ∧
    rneInt true (4 * m + 1) (-1) = -(2 * m : Int) ∧ rneInt false (2 * m) (-1) = m) ∧
  (∀ (a b c : Pend64) (v : Int), (a.then_ b).then_ c = a.then_ (b.then_ c) ∧
    ((a.then_ b).bound.getD v + (a.then_ b).sum = b.bound.getD (a.bound.getD v + a.sum) + b.sum)))

/-- R231, R232: rings. An append that finds room takes slot 1 + (v mod (n - 1)) of the ring of its region entry, raises the
reservation count and waits for the acknowledgements of the lines that it wrote; with the ring full, TAKE read again, it ends
with CAUSE 9 and FULL_COUNT rises. Publishing writes FULL_COUNT and PUT to the control slot and leaves TAKE's bytes: PUT is the
place of the oldest append that is not acknowledged, or the reservation count when every one is. A ring whose region entry was
replaced (R62) is forgotten when nothing of it is open. -/
def Obligations.Rings : Prop :=
  ∀ (s : State), s.quayRuns = true →
    (∀ (id key : Nat) (rest : List (Nat × Nat)) (x : Served) (o : RingOwner), s.dk.appends = (id, key) :: rest →
      s.servedOp id = some x → aget key s.qy.rings = some o → x.op.data.len ≠ 0 →
      let n := ringN o.ent
      let base := regBase o.ent 0
      let slot := base + (1 + o.v.toNat % (n - 1)) * 2 ^ regSlotLog2 o.ent 0
      (s.engine (Fin.ofNat 16 (sliceOf (base / 64)))).test = false → s.rangeHeld slot x.op.data.len = false →
      let u : State := { s with dk := { s.dk with appends := rest } }
      let stored : State := (u.setRing key { o with v := o.v + 1, open_ := o.open_ ++ [(o.v, id)] }).engineStore slot x.op.data
      let lines := stored.ackLines slot x.op.data.len
      (1 < n → (o.v - o.take).toNat < n - 1 →
        (lines ≠ [] → exec .ringAppend s =
          .next ((stored.awaitAcks (.served id) lines).serve id fun x => { x with left := lines.length })) ∧
        (lines = [] → exec .ringAppend s = .next (stored.serve id fun x => x.applied 0 0))) ∧
      (1 < n → (o.v - o.take).toNat = n - 1 → s.engineWord (base + 8) = some o.take.toNat →
        exec .ringAppend s = .next ((u.setRing key { o with full := o.full + 1 }).serve id fun x => x.applied 0 9))) ∧
    (∀ (r : Fin 4096) (key : Nat) (o : RingOwner), s.qy.rings.filter (fun x => x.2.region == r.val) = [(key, o)] →
      aget key s.qy.rings = some o → s.lineHeld (regBase o.ent 0 / 64) = false →
      let open_ := o.open_.filter fun a => (s.servedOp a.2).isSome
      let put := (open_.map (·.1)).headD o.v
      let written : State := s.engineWrite (regBase o.ent 0 / 64) (BitVec.ofNat 512 (put.toNat + o.full.toNat * 2 ^ 128))
        0xFFFFFFFFFFFF00FF
      (key < 4096 → exec (.ringPutPublish r) s = .next (written.setRing key { o with put := put, open_ := open_ })) ∧
      (4096 ≤ key → open_ = [] → (∀ a ∈ s.dk.appends, a.2 ≠ key) → exec (.ringPutPublish r) s =
        .next { written with qy := { written.qy with rings := adel key written.qy.rings } })) ∧
    (∀ r : Fin 4096, (∀ x ∈ s.qy.rings, x.2.region ≠ r.val) → exec (.ringPutPublish r) s = .next s)

/-- R239 to R242: quay programs. A good record of the oldest launch write enters the queue of 64; a bad one leaves its cause
and address in QY_LERR of engine 0 and ends its write with CAUSE 0x0D once its earlier launches have completed. An engine that
starts a launch takes, at micro-op 0, the first 64 chunks whose line it owns, in ascending order, and is done with a launch that
has none for it; the first engine to start fixes the program. A launch that every engine has completed leaves the queue. R235 to
R238, R242: one micro-op of a chunk that is alone on its engine and in no loop, each as Table 6 gives it. Lane operations compute
on A, B, C and the old vD; LD takes the lanes of its operand and ST writes those of its source below VL, unless another chunk
holds their line (R208); SKIP passes over micro-ops when its flag is set; LOOP starts a loop at the next micro-op; END retires
the chunk. -/
def Obligations.QuayPrograms : Prop :=
  (∀ (s : State), s.quayRuns = true →
    (∀ (w : LaunchWrite) (rest : List LaunchWrite), s.qy.waiting = w :: rest → s.qy.launches.length < 64 →
      let r := w.data.slice (128 * w.next) 128
      let prog := programOf s.programs w.entry
      (s.recordCause r prog = 0 → exec .launchRecord s = .next { s with qy := { s.qy with
        waiting := if 128 * (w.next + 1) < w.data.len then { w with next := w.next + 1 } :: rest else rest
        launches := s.qy.launches ++ [{ id := s.qy.nextId, op := w.op, entry := w.entry, record := BitVec.ofNat 1024 r.bits,
                                        prog := prog, started := 0, done := 0 }]
        nextId := s.qy.nextId + 1 } }) ∧
      (s.recordCause r prog ≠ 0 →
        let e := s.engine 0
        let noted := s.setEngine 0 (if e.lerrV then e else { e with
          lerrV := true, lerrC := BitVec.ofNat 4 (s.recordCause r prog)
          lerrA := BitVec.ofNat 48 ((w.addr.toNat + 128 * w.next) / 128 * 128) })
        let ended : State := { noted with qy := { noted.qy with waiting := rest } }
        exec .launchRecord s = .next (ended.serve w.op fun x => { x with
          left := (s.qy.launches.filter (·.op == w.op)).length, cause := 0x0D }))) ∧
    (∀ (n : SliceId) (l : Launch), s.qy.launches.find? (fun l => !l.done.getLsbD n.val) = some l → (s.engine n).test = false →
      l.started.getLsbD n.val = false →
      let mine := (List.range (chunksOf l.bytes)).filter fun c => sliceOf (lrBase l.bytes 0 / 64 + c) == n.val
      ∃ t : State, exec (.launchStart n) s = .next t ∧ t.mem = s.mem ∧
        (∃ l', t.launch l.id = some l' ∧ l'.started.getLsbD n.val = true ∧ l'.record = l.record ∧
          l'.prog = (if l.started = 0 then programOf s.programs l.entry else l.prog)) ∧
        (t.engine n).chunks = (s.engine n).chunks ++ (mine.take (64 - (s.engine n).chunks.length)).map (fun c =>
          { launch := l.id, index := c, pc := 0, loop := none, v := List.replicate 8 (List.replicate 32 0) }) ∧
        ((s.engine n).chunks = [] → mine = [] → ∃ l', t.launch l.id = some l' ∧ l'.done.getLsbD n.val = true)) ∧
    (∀ l : Launch, s.qy.launches.find? (fun l => l.done == 0xFFFF) = some l → exec .launchComplete s =
      .next (State.serve { s with qy := { s.qy with launches := s.qy.launches.filter (·.id != l.id) } } l.op
        fun x => x.applied 0 0)) ∧
    ((∀ l ∈ s.qy.launches, l.done ≠ 0xFFFF) → exec .launchComplete s = .next s)) ∧
  (∀ (n : SliceId) (s : State) (ch : Chunk) (l : Launch), s.quayRuns = true → (s.engine n).test = false →
    (s.engine n).chunks = [ch] → ch.loop = none → s.launch ch.launch = some l →
    let r := l.bytes
    let w := l.prog.getD ch.pc 0
    let op := w.toNat / 2 ^ 58 % 64
    let vd := w.toNat / 2 ^ 54 % 16
    let imm := w.toNat % 65536
    let k := w.toNat / 2 ^ 39 % 8
    let src (field i : Nat) : Machine.Num := (ch.source r (w.toNat / 2 ^ field % 16)).getD i (Machine.Num.zero false)
    let a := src 50
    let computes (f : Nat → Machine.Num) : Prop := ∃ t : State, exec (.microOpIssue n) s = .next t ∧ t.mem = s.mem ∧
      (t.engine n).chunks = [{ ch with pc := ch.pc + 1, v := ch.v.set vd ((List.range 32).map fun i => toA40 (f i)) }]
    let free := s.heldByOther ch (s.chunkLines r ch.index k) = false
    (op = 3 → computes fun i => (fmtA40.add (a i) (src 46 i)).1) ∧
    (op = 4 → computes fun i => (fmtA40.add (a i) (src 46 i).neg).1) ∧
    (op = 5 → computes fun i => (fmtA40.mul (a i) (src 46 i)).1) ∧
    (op = 6 → computes fun i => (fmtA40.add ((a i).mulExact (src 46 i)) (src 42 i)).1) ∧
    (op = 7 → computes fun i => pickA40 true (a i) (src 46 i)) ∧
    (op = 8 → computes fun i => pickA40 false (a i) (src 46 i)) ∧
    (op = 9 → computes fun i => if (a i).sign then (a i).neg else a i) ∧
    (op = 0x0A → computes fun i => (a i).neg) ∧
    (op = 0x0B → computes fun i => (divA40 (a i) (src 46 i)).1) ∧
    (op = 0x0C → computes fun i => (sqrtA40 (a i)).1) ∧
    (op = 0x0D → computes fun i => (rsqA40 (a i)).1) ∧
    (op = 0x0E → computes fun i => (expA (a i)).1) ∧
    (op = 0x0F → computes fun i => match a i with
      | .fin neg m e => (fmtA40.narrow (.fin neg m (e + (BitVec.ofNat 16 imm).toInt))).1
      | x => x) ∧
    (op = 0x10 → vd < 8 → computes fun i =>
      if (a i).lt (src 46 i) then src 42 i else ((ch.v.getD vd []).map a40).getD i (Machine.Num.zero false)) ∧
    (op = 0x11 → computes a) ∧
    (op = 1 → free → ∃ t : State, exec (.microOpIssue n) s = .next t ∧ t.mem = s.mem ∧ (t.engine n).chunks =
      [{ ch with pc := ch.pc + 1, v := ch.v.set vd (s.loadLanes r ch.index k).1 }]) ∧
    (op = 2 → free → ∃ t : State, exec (.microOpIssue n) s = .next t ∧
      t.mem = (s.storeLanes (quayMaster n.val) r ch.index k (ch.source r (w.toNat / 2 ^ 50 % 16))).1.mem ∧
      (t.engine n).chunks = [{ ch with pc := ch.pc + 1 }]) ∧
    (op = 1 ∨ op = 2 → ¬free → exec (.microOpIssue n) s = .next s) ∧
    (op = 0x20 → exec (.microOpIssue n) s = .next (s.setEngine n { s.engine n with chunks := [{ ch with
      pc := ch.pc + 1, loop := some (ch.pc + 1, ch.pc + 1 + w.toNat / 2 ^ 50 % 16, imm) }] })) ∧
    (op = 0x21 → exec (.microOpIssue n) s = .next (s.setEngine n { s.engine n with chunks := [{ ch with
      pc := ch.pc + 1 + if lrFlags r / 2 ^ (w.toNat / 2 ^ 50 % 4) % 2 = 1 then imm else 0 }] })) ∧
    (op = 0 → (s.engine n).cursor = none → ∃ t : State, exec (.microOpIssue n) s = .next t ∧ t.mem = s.mem ∧
      (t.engine n).chunks = [] ∧ (∃ l', t.launch ch.launch = some l' ∧ l'.done.getLsbD n.val = true) ∧
      ∀ h ∈ t.l2.holds, h.launch = ch.launch → h.chunk ≠ ch.index))

/-- R245, R247, R248: scrub and the engines' self-test. With EN set, MEMORY enabled, nothing outstanding, before the stop
edge and outside a supply episode, the next line of the port is read; its response moves on and records a corrected error as
0x1B, an uncorrected one as 0x1C. The known-answer test that the period began ends, and a failure is source 0x1E. -/
def Obligations.ScrubAndQuayTest : Prop :=
  ∀ (n : SliceId) (s : State), s.quayRuns = true →
    (∀ l, s.enabled .memory = true → (s.engine n).test = false → (s.engine n).scrubEn = true → (s.engine n).scrubOut = none → s.pastStop = false →
      s.ck.supEpisode = false → s.scrubLine n.val (s.engine n).scrubPos = some l →
      exec (.scrubRead n) s = .next (s.setEngine n { s.engine n with scrubOut := some l })) ∧
    ((s.engine n).scrubEn = false ∨ s.ck.supEpisode = true ∨ s.pastStop = true → exec (.scrubRead n) s = .next s) ∧
    (∀ l, (s.engine n).scrubOut = some l →
      let u := s.setEngine n { s.engine n with scrubOut := none, scrubPos := l + 1 }
      let fault (src : Nat) : FaultEvent := { plainFault src n.val with
        access := 1, master := BitVec.ofNat 16 (0x2000 + n.val), addr := BitVec.ofNat 48 (64 * l) }
      let kept : State := u.engineWrite l (cellsLine u.mem l) (BitVec.allOnes 64)
      exec (.scrubResponse n 0) s = .next u ∧
      ((s.l2.find l).any (·.dirty) = true → exec (.scrubResponse n 1) s = .next (u.detect (fault 0x1B))) ∧
      ((s.l2.find l).any (·.dirty) = false → exec (.scrubResponse n 1) s = .next (kept.detect (fault 0x1B))) ∧
      exec (.scrubResponse n 2) s = .next (u.detect (fault 0x1C))) ∧
    ((s.engine n).test = true →
      let ended := s.setEngine n { s.engine n with test := false }
      exec (.quayKnownAnswerTest n true) s = .next ended ∧
      exec (.quayKnownAnswerTest n false) s = .next (ended.detect (plainFault 0x1E n.val))) ∧
    ((s.engine n).test = false → ∀ pass, exec (.quayKnownAnswerTest n pass) s = .next s)

/-- R254 to R256, R262, R263: a core's stores to the dock window. PUT of a valid queue takes the value; a PUT beyond the
ring makes RING_ERR, raises ERR_CTR and is recorded as 0x28; RESUME makes a queue that is not RUNNING run again from TAKE. A
watch takes ARM and its target, and what it offered is withdrawn; a counter takes the value. A store that sets a reserved
bit changes nothing but the late bus error of the RUNNING berth. An armed watch whose counter has reached its target offers
event 0x100 + w. -/
def Obligations.DockStores : Prop :=
  ∀ (c : CoreId) (b : BerthId) (q : QueueId) (w : WatchId) (ctr : Ctr) (v : Word) (put : BitVec 32) (s : State),
    s.coreRuns c = true → (s.core c).running = some b → s.hasSect secMap = true →
    let entry := s.queueEntry q.val
    let x := s.dq q.val
    let error (t : State) : State := (t.queueError q.val).detect { plainFault 0x28 0 with
      access := 2, master := coreMaster c b, addr := BitVec.ofNat 48 (quRingBase entry 0) }
    let late (off : Nat) : Host.Outcome State Fault Refusal :=
      .next (s.lateBusError c b (BitVec.ofNat 48 (dockWin (s.sect secMap) + off)) 2)
    (quValid entry 0 = true → v.toNat < 2 ^ 32 →
      ((v.setWidth 32 - x.take).toNat ≤ ringSlots entry 0 ∨ x.state = 2 →
        exec (.putStore c q v) s = .next (s.setDq q.val { x with put := v.setWidth 32 })) ∧
      (ringSlots entry 0 < (v.setWidth 32 - x.take).toNat → x.state ≠ 2 → exec (.putStore c q v) s =
        .next (error (s.setDq q.val { x with put := v.setWidth 32, state := 2 })))) ∧
    (quValid entry 0 = true → x.state ≠ 0 → x.started ≠ [] → (put - x.take).toNat ≤ ringSlots entry 0 →
      exec (.queueResume c q put) s = .next (s.setDq q.val { x with
        put := put, state := 0, fetched := none, next := x.take + BitVec.ofNat 32 x.started.length })) ∧
    (quValid entry 0 = true → x.state = 0 → (put - x.take).toNat ≤ ringSlots entry 0 →
      exec (.queueResume c q put) s = .next (s.setDq q.val { x with put := put })) ∧
    (quValid entry 0 = false → v.toNat < 2 ^ 33 → exec (.putStore c q v) s = .next s) ∧
    (2 ^ 33 ≤ v.toNat → exec (.putStore c q v) s = late (16 * q.val) ∧
      exec (.watchStore c w v) s = late (0x10000 + 8 * w.val)) ∧
    (waValid s.queuePlan w.val = true → v.toNat < 2 ^ 33 →
      exec (.watchStore c w v) s = .next (s.setWatch w.val { arm := v.getLsbD 32, target := v.setWidth 32 })) ∧
    (v.toNat < 2 ^ 32 → exec (.counterStore c ctr v) s = .next (s.setCtr ctr.toNat (v.setWidth 32)) ∧
      (v ≠ 0 → (s.setCtr ctr.toNat (v.setWidth 32)).ctr ctr.toNat = v.setWidth 32)) ∧
    (2 ^ 32 ≤ v.toNat → exec (.counterStore c ctr v) s = late (0x20000 + 8 * ctr.toNat)) ∧
    (s.dockRuns = true → s.enabled .dock = true → waValid s.queuePlan w.val = true → (s.watch w.val).arm = true →
      ((s.ctr (waCtr s.queuePlan w.val) - (s.watch w.val).target).toNat < 2 ^ 31 →
        exec (.watchFire w) s = .next (s.offerEvent (0x100 + w.val) (.dock w))) ∧
      (2 ^ 31 ≤ (s.ctr (waCtr s.queuePlan w.val) - (s.watch w.val).target).toNat → exec (.watchFire w) s = .next s))

/-- R256 to R260, R264, R265: descriptors. The next one of a RUNNING queue is fetched from its ring once PUT has passed it;
one with a reserved field ends with CAUSE 1. It starts when its wait is reached, with FENCE nothing of its queue is in
progress, and no ready queue stands before it in the rotation from the queue that started last: NOP is finished as it starts; a
WRITE or a READ to this node leaves over the local loop with the lowest tag free and is checked there at once; one whose local
range is not local memory ends with CAUSE 3. R260 to R263, R266: the end of an operation. An acknowledgement gives the operation
that it answers its CAUSE and flags, and CAUSE 0x0B, a route lost in transit, is also recorded as 0x22; read data goes to local
memory, and the operation ends once memory has acknowledged every line, with CAUSE 0x0A where memory failed; an operation without
an answer in time ends with CAUSE 0x0C and is recorded as 0x22, its time standing still on a NODE link held by LINK_TX_HOLD, and
its tag stays in use until a late answer, which is discarded, frees it. The oldest started descriptor whose outcome is known
finishes: its record is written where it asks for one, TAKE rises, QCOUNT rises on success and DONE_CTR when it asks for it; a
failure raises ERR_CTR and stops a queue that has STOP set. -/
def Obligations.DockDescriptors : Prop :=
  (∀ (q : QueueId) (s : State), s.dockStarts = true → (s.dq q.val).state = 0 →
    let x := s.dq q.val
    let entry := s.queueEntry q.val
    (∀ l : Line, quValid entry 0 = true → x.fetched = none → x.old = none → 0 < (x.put - x.next).toNat →
      (x.put - x.next).toNat ≤ ringSlots entry 0 →
      s.lineHeld (quRingBase entry 0 / 64 + x.next.toNat % ringSlots entry 0) = false →
      s.engineBytes (quRingBase entry 0 + 64 * (x.next.toNat % ringSlots entry 0)) 64 =
        some ({ len := 64, bits := l.toNat }, false) →
      (dsRefused (quBound entry 0) (quWaitN entry 0) (descBytes l) = 0 →
        exec (.descriptorFetch q) s = .next (s.setDq q.val { x with fetched := some (x.next, l) })) ∧
      (3 ≤ l.toNat % 16 → exec (.descriptorFetch q) s = .next (s.setDq q.val { x with
        next := x.next + 1, started := x.started ++ [{ n := x.next, desc := l, outcome := some (1, 0) }] }))) ∧
    (x.put = x.next → exec (.descriptorFetch q) s = .next s) ∧
    (∀ (n : BitVec 32) (l : Line), x.fetched = some (n, l) → s.waitReached q.val (descBytes l) = true →
      (l.getLsbD 8 = true → x.started = []) →
      let behind (y : Nat) : Nat := (y + 4095 - s.dk.lastQ % 4096) % 4096
      let starts (out : Option (BitVec 8 × BitVec 3)) : State :=
        let t := s.setDq q.val { x with fetched := none, next := n + 1, started := x.started ++ [{ n := n, desc := l, outcome := out }] }
        { t with dk := { t.dk with lastQ := q.val } }
      let len := l.toNat / 2 ^ 32 % 2 ^ 24
      let local_ := l.toNat / 2 ^ 64 % 2 ^ 48
      let remote := l.toNat / 2 ^ 128 % 2 ^ 48
      ((∃ y ∈ s.dk.queues, behind y.1 < behind q.val ∧ s.queueReady y.1 = true) → exec (.nopDescriptor q) s = .next s ∧
        exec (.writeDescriptor q) s = .next s ∧ exec (.readDescriptor q) s = .next s) ∧
      ((∀ y ∈ s.dk.queues, behind y.1 < behind q.val → s.queueReady y.1 = false) →
      (l.toNat % 16 = 0 → exec (.nopDescriptor q) s = .next (starts (some (0, 0)))) ∧
      (l.toNat % 16 = 1 → s.rangeCovers local_ len = false → exec (.writeDescriptor q) s = .next (starts (some (3, 0)))) ∧
      (l.toNat % 16 = 2 → s.rangeCovers local_ len = false → exec (.readDescriptor q) s = .next (starts (some (3, 0)))) ∧
      (quBound entry 0 = false → BitVec.ofNat 15 (l.toNat / 2 ^ 176 % 2 ^ 15) = s.si.nodeId → s.dk.ops = [] → s.dk.late = [] →
        s.rangeCovers local_ len = true →
        (l.toNat % 16 = 2 → ∃ t : State, exec (.readDescriptor q) s = .next t ∧ t.dk.queues = (starts none).dk.queues ∧
          ∃ op a, t.dk.ops = [op] ∧ t.dk.arriving = s.dk.arriving ++ [a] ∧ op.kind = .read ∧ op.route = .loop ∧ op.tag = 0 ∧
            op.owner = .queue q.val n ∧ op.len = len ∧ op.local_ = BitVec.ofNat 48 local_ ∧ a.kind = .read ∧ a.len = len ∧
            a.addr = BitVec.ofNat 48 remote ∧ a.src = s.si.nodeId ∧ s.checked a false = a) ∧
        (∀ data : Blob, l.toNat % 16 = 1 → len ≠ 0 → s.engineBytes local_ len = some (data, false) →
          s.rangeHeld local_ len = false → ∃ t : State,
          exec (.writeDescriptor q) s = .next t ∧ t.dk.queues = (starts none).dk.queues ∧
          ∃ op a, t.dk.ops = [op] ∧ t.dk.arriving = s.dk.arriving ++ [a] ∧ op.kind = .write ∧ op.route = .loop ∧
            op.owner = .queue q.val n ∧ a.kind = .write ∧ a.len = len ∧ a.addr = BitVec.ofNat 48 remote ∧ a.data = data ∧
            a.notify = l.getLsbD 10 ∧ s.checked a false = a)))) ∧
    (∀ (n : BitVec 32) (l : Line), x.fetched = some (n, l) → s.waitReached q.val (descBytes l) = false →
      exec (.nopDescriptor q) s = .next s ∧ exec (.writeDescriptor q) s = .next s ∧ exec (.readDescriptor q) s = .next s)) ∧
  (∀ (s : State), s.dockRuns = true →
    (∀ (a : Answer) (rest : List Answer) (op : RemoteOp) (q : Nat) (n : BitVec 32), s.dk.answers = a :: rest →
      s.answered a = some op → op.owner = .queue q n →
      let u : State := { s with dk := { s.dk with answers := rest, ops := s.dk.ops.filter (·.id != op.id),
                                                   acks := s.dk.acks.filter (·.owner != AckOwner.remote op.id) } }
      let ends : State := u.setDq q { u.dq q with started := (u.dq q).started.map fun d =>
        if d.n == n && d.outcome.isNone then { d with outcome := some (a.cause, a.flags) } else d }
      let out : State := if a.cause = 0x0B then ends.detect (plainFault 0x22 op.route.inst) else ends
      (a.isRead = false → exec .ack s = .next out) ∧
      (a.isRead = true → a.cause ≠ 0 → exec .readData s = .next out) ∧
      (a.isRead = true → a.cause = 0 → a.data.len = op.len → op.len ≠ 0 → s.rangeHeld op.local_.toNat op.len = false →
        let lines := s.ackLines op.local_.toNat op.len
        let stored : State := State.engineStore { s with dk := { s.dk with answers := rest } } op.local_.toNat (a.data.slice 0 op.len)
        (lines = [] → exec .readData s = .next (stored.opEnds op 0 a.flags)) ∧
        (lines ≠ [] → exec .readData s = .next ((stored.readStored op 0 a.flags).awaitAcks (.remote op.id) lines)))) ∧
    (∀ (line : Nat) (op : RemoteOp) (cause : BitVec 8) (flags : BitVec 3) (bad : Bool),
      s.dk.acks = [{ line := line, owner := .remote op.id }] → s.dk.ops.find? (·.id == op.id) = some op →
      op.stored = some (cause, flags) → s.dockAcked line bad =
        State.opEnds { s with dk := { s.dk with acks := [] } } op (if bad then 0x0A else cause) flags) ∧
    (∀ (a : Answer) (rest : List Answer), s.dk.answers = a :: rest → s.answered a = none →
      let u : State := { s with dk := { s.dk with answers := rest } }
      let v : State := { s with dk := { s.dk with answers := rest, late := [] } }
      (s.dk.late = [] → (a.isRead = false → exec .ack s = .next u) ∧ (a.isRead = true → exec .readData s = .next u)) ∧
      (∀ op : RemoteOp, s.dk.late = [op] → op.tag = a.tag → op.route = a.route → (op.kind = .read ↔ a.isRead = true) →
        (a.isRead = false → exec .ack s = .next v) ∧ (a.isRead = true → exec .readData s = .next v))) ∧
    (∀ (i : Nat) (op : RemoteOp), s.dk.ops[i]? = some op → op.answer = none →
      let u := s.opEnds op 0x0C 0
      let lost (inst : Nat) : State := State.detect { u with dk := { u.dk with late := u.dk.late ++ [op] } } (plainFault 0x22 inst)
      (op.route = .loop → exec (.operationTimeout i) s = .next (lost 48)) ∧
      (∀ l : LinkId, op.route = .link l →
        (s.role l ≠ 0 ∨ s.txHold = false → exec (.operationTimeout i) s = .next (lost l.val)) ∧
        (s.role l = 0 → s.txHold = true → exec (.operationTimeout i) s = .next s))) ∧
    (∀ (q : QueueId) (d : Started) (rest : List Started) (flags : BitVec 3), (s.dq q.val).started = d :: rest →
      rest ≠ [] →
      let x := s.dq q.val
      let entry := s.queueEntry q.val
      let slot := d.n.toNat % ringSlots entry 0
      let record : Blob := { len := 16, bits := 16 * s.topCause + flags.toNat * 2 ^ 16 +
        (d.desc.toNat / 2 ^ 32 % 2 ^ 24) * 2 ^ 32 + s.time.toNat * 2 ^ 64 }
      (d.outcome = some (0, flags) → d.desc.getLsbD 9 = false → d.desc.getLsbD 11 = true →
        s.lineHeld (quRingBase entry 0 / 64 + slot) = false → exec (.descriptorFinish q) s = .next
          ((s.engineStore (quRingBase entry 0 + 64 * slot + 48) record).setDq q.val
            { x with qcount := x.qcount + 1, take := x.take + 1, started := rest })) ∧
      (d.desc.getLsbD 11 = false →
      (d.outcome = some (0, flags) → d.desc.getLsbD 9 = false → exec (.descriptorFinish q) s = .next (s.setDq q.val
        { x with qcount := x.qcount + 1, take := x.take + 1, started := rest })) ∧
      (d.outcome = some (0, flags) → d.desc.getLsbD 9 = true → exec (.descriptorFinish q) s = .next
        ((s.raiseCtr (BitVec.ofNat 16 (d.desc.toNat / 2 ^ 240))).setDq q.val
          { x with qcount := x.qcount + 1, take := x.take + 1, started := rest })) ∧
      (∀ cause : BitVec 8, d.outcome = some (cause, flags) → cause ≠ 0 → cause.toNat ≤ 8 → exec (.descriptorFinish q) s = .next
        ((s.queueError q.val).setDq q.val { x with
          take := x.take + 1, started := rest
          state := if quStop (s.queueEntry q.val) 0 = true ∧ x.state = 0 then 1 else x.state })))))

/-- R252, R268: an operation that arrives at this block is checked at its first flit, in this order: no region (CAUSE 5), the
permission or the node range of the region (6), its end (7), its attribute (8); the region and its entry are kept with it. A
refused one is answered with its CAUSE. A WRITE to plain memory is stored, and answered once memory has acknowledged its lines
(R260); a READ is answered with the bytes, or with CAUSE 0x0A where they are poisoned; an append goes to its ring's owner. Each
answer of the local loop carries the tag, the CAUSE and the data. -/
def Obligations.DockArrivals : Prop :=
  (∀ (op : ArrivingOp) (s : State),
    let p := s.regions
    let a := op.addr.toNat
    let c := s.checked op false
    let allowed (r : Nat) : Prop := (if op.kind = .read then regRd p r else regWr p r) = true ∧
      regNodeLo p r ≤ op.src.toNat ∧ op.src.toNat ≤ regNodeHi p r
    let size (r : Nat) : Nat := [2, 2, 4, 5].getD (prXfmt s.programs (regEntry p r)) 8
    let fits (r : Nat) : Prop := match op.kind with
      | .read => True
      | .append => regAttr p r = 2 ∧ op.len ≤ 2 ^ regSlotLog2 p r
      | .write =>
        (regAttr p r = 0 → regEntryEn p r = true → op.len % 128 = 0) ∧
        (regAttr p r = 1 → (a - regBase p r) % 8 = 0 ∧ op.len % size r = 0 ∧
          a + 8 * (op.len / size r) ≤ regBase p r + regLen p r) ∧
        (2 ≤ regAttr p r → op.len ≤ 2 ^ regSlotLog2 p r)
    (findRegion p a = none → c.cause = 5) ∧
    (∀ r, findRegion p a = some r →
      c.region = r ∧ c.entry = BitVec.ofNat 256 (p.slice (32 * r) 32).bits ∧ (¬ allowed r → c.cause = 6) ∧
      (allowed r → regBase p r + regLen p r < a + op.len → c.cause = 7) ∧
      (allowed r → a + op.len ≤ regBase p r + regLen p r → (fits r → c.cause = 0) ∧ (¬ fits r → c.cause = 8)))) ∧
  (∀ (op : ArrivingOp) (rest : List ArrivingOp) (s : State), s.dockRuns = true → s.enabled .dock = true →
    s.dk.arriving = op :: rest → op.via = .loop → op.notify = false →
    let u : State := { s with dk := { s.dk with arriving := rest } }
    let a := op.addr.toNat
    let answers (t : State) (cause : BitVec 8) (flags : BitVec 3) (data : Blob) : State := { t with dk := { t.dk with
      answers := t.dk.answers ++ [{ route := .loop, src := s.si.nodeId, tag := op.tag, isRead := op.kind == .read,
                                    cause := cause, flags := flags, data := data }] } }
    let runs (out : Host.Outcome State Fault Refusal) : Prop :=
      (op.kind = .write → exec .arrivingWrite s = out) ∧ (op.kind = .read → exec .arrivingRead s = out) ∧
      (op.kind = .append → exec .arrivingAppend s = out)
    (op.cause ≠ 0 → runs (.next (answers u op.cause 0 Blob.empty))) ∧
    (op.cause = 0 → op.kind = .write → regAttr op.ent 0 = 0 → regEntryEn op.ent 0 = false → op.data.len ≠ 0 →
      s.rangeHeld a op.len = false →
      let stored : State := u.engineStore a op.data
      let lines := stored.ackLines a op.data.len
      (lines = [] → exec .arrivingWrite s = .next (answers stored 0 0 Blob.empty)) ∧
      (lines ≠ [] → exec .arrivingWrite s =
        .next ((stored.beginServing op lines.length .answer).1.awaitAcks (.served s.dk.nextId) lines))) ∧
    (∀ (id : Nat) (flags : BitVec 3) (cause : Nat) (x : Served), s.servedOp id = some x → x.op = op → x.left = 1 → x.fin = .answer →
      x.cause = 0 → op.kind ≠ .read → s.serve id (fun x => x.applied flags cause) = answers
        { s with dk := { s.dk with serving := s.dk.serving.filter (·.id != id) } } (BitVec.ofNat 8 cause) (x.flags ||| flags)
        Blob.empty) ∧
    (op.cause = 0 → op.kind = .read → op.len ≠ 0 → s.rangeHeld a op.len = false → ∀ data bad,
      s.engineBytes a op.len = some (data, bad) →
      exec .arrivingRead s = .next (if bad then answers u 0x0A 0 Blob.empty else answers u 0 0 data)) ∧
    (op.cause = 0 → op.kind = .append → ∃ t : State, exec .arrivingAppend s = .next t ∧
        t.dk.appends = s.dk.appends ++ [(s.dk.nextId, op.region)] ∧ t.dk.arriving = rest ∧ t.mem = s.mem))

/-- R275 to R280, R282: hawser chains. An own position is armed for run RUNS + 1 once START_CTR has reached it, while DOCK is
enabled; a run without cells is complete at once. An armed position of a strand reads the next frame of operands, decoded to
A40, and one of a braid the frame of the strand's result, once the strand has written it; a read that fails sets ERR and poisons
the frame's operand. Position 0 launches its frames. A later position adds its operands to the frame that comes and forwards it,
unless the frame is poisoned, which passes unchanged; a frame is one flit on the link of the position. The last position writes a
good frame's cells to RESULT + 240 f (here A40 cells into plain memory), and a poisoned one nowhere. When the last frame of a run
has been forwarded, or written and acknowledged, RUNS and DONE_CTR rise and the position is disarmed. -/
def Obligations.HawserRuns : Prop :=
  (∀ (i : ChainId) (pos : Nat) (s : State), s.hawserRuns = true → s.ownPos i.val = some pos →
    let p := s.hawserPlan
    let x := s.chain i.val
    let frames := (chNcells p i.val + 47) / 48
    let over_ (t : State) : State :=
      (t.setChain i.val { x with runs := x.runs + 1, armed := false, frame := 0, operands := [] }).raiseCtr (chDoneCtr p i.val)
    let ended (t : State) (f : Nat) : State := if f + 1 < frames ∨ x.writes ≠ []
      then t.setChain i.val { x with frame := f + 1, operands := x.operands.filter (·.1 != f) }
      else over_ t
    let reached := (s.ctr (chStartCtr p i.val) - (x.runs + 1)).toNat < 2 ^ 31
    let armed := x.armed = true ∧ s.enabled .dock = true ∧ reached
    (s.bw.fStop = false → s.enabled .dock = true → chValid p i.val = true → x.armed = false →
      (reached → chNcells p i.val ≠ 0 →
        exec (.runArm i) s = .next (s.setChain i.val { x with armed := true, frame := 0, operands := [], writes := [] })) ∧
      (reached → chNcells p i.val = 0 → s.pastStop = false →
        exec (.runArm i) s = .next ((s.setChain i.val { x with runs := x.runs + 1 }).raiseCtr (chDoneCtr p i.val))) ∧
      (¬ reached → exec (.runArm i) s = .next s)) ∧
    (armed → x.operands.length < 16 → s.bw.fStop = false →
      let f := x.frame + x.operands.length
      let elem := chFirst p i.val + pos
      let strand := elStrand p elem
      let y := s.chain strand
      let braid := chBraid p i.val
      let written := (y.runs - (x.runs + 1)).toNat < 2 ^ 31 ∨
        (y.runs = x.runs ∧ y.armed = true ∧ f < y.frame ∧ y.writes.contains f = false)
      let fmt := if braid then 3 else chInFmt p i.val
      let size := if fmt ≤ 1 then 2 else if fmt = 2 then 4 else 5
      let n := Nat.min 48 (chNcells p i.val - 48 * f)
      let a := (if braid then chResult p strand else elOperand p elem) + size * 48 * f
      f < frames → s.rangeHeld a (size * n) = false →
      (braid = true → ¬ written → exec (.operandRead i) s = .next s) ∧
      ((braid = true → written) →
        (∀ data : Blob, s.engineBytes a (size * n) = some (data, false) → ∃ cells, exec (.operandRead i) s =
          .next (s.setChain i.val { x with operands := x.operands ++ [(f, false, cells)] }) ∧ cells.length = 48 ∧
          (∀ k, n ≤ k → k < 48 → cells[k]? = some 0) ∧
          (fmt = 3 → ∀ k, k < n → cells[k]? = some (BitVec.ofNat 40 (data.field (5 * k) 0 40)))) ∧
        (s.engineBytes a (size * n) = none → ∃ t : State, exec (.operandRead i) s = .next t ∧ (t.chain i.val).err = true ∧
          (t.chain i.val).armed = true ∧ ∃ zeros, (t.chain i.val).operands = x.operands ++ [(f, true, zeros)]))) ∧
    (∀ bad own, pos = 0 → armed → aget x.frame x.operands = some (bad, own) →
      (x.frame ≠ 0 ∨ (s.pastStop = false ∧ s.bw.fStop = false) → exec (.frameLaunch i) s =
        .next (ended (s.sendFrame i.val 0 x.frame bad own) x.frame)) ∧
      (x.frame = 0 → s.pastStop = true ∨ s.bw.fStop = true → exec (.frameLaunch i) s = .next s)) ∧
    (∀ (fr : HwFrame) (rest : List HwFrame) (bad : Bool) (own : List Cell40), s.hw.frames = fr :: rest → fr.chain = i.val →
      fr.via = none → fr.frame = x.frame → aget x.frame x.operands = some (bad, own) → 0 < pos →
      let u : State := { s with hw := { s.hw with frames := rest } }
      let sums := List.zipWith (fun v w => toA40 (fmtA40.add (a40 v) (a40 w)).1) fr.cells own
      (¬ armed → exec (.hawserFrame 0) s = .next s) ∧
      (armed →
      (pos + 1 < chNpos p i.val → fr.poison = true →
        exec (.hawserFrame 0) s = .next (ended (u.sendFrame i.val pos x.frame true fr.cells) x.frame)) ∧
      (pos + 1 < chNpos p i.val → fr.poison = false → bad = false → ∃ t : State, exec (.hawserFrame 0) s = .next t ∧
        t.hw.frames = rest ∧ t.lk = (u.sendFrame i.val pos x.frame false sums).lk) ∧
      (chNpos p i.val ≤ pos + 1 → fr.poison = true → s.resultHeld i.val x.frame = false →
        exec (.hawserFrame 0) s = .next (ended u x.frame)) ∧
      (∀ r, pos + 1 = chNpos p i.val → fr.poison = false → bad = false → s.resultHeld i.val x.frame = false →
        chResFmt p i.val = 0 → (∀ r', findRegion s.regions (chResult p i.val) = some r' → regAttr s.regions r' ≠ 1) →
        let cells := sums.take (Nat.min 48 (chNcells p i.val - 48 * x.frame))
        let a := chResult p i.val + 240 * x.frame
        cells ≠ [] → a < 2 ^ 48 → findRegion s.regions a = some r → regWr s.regions r = true →
        regNodeLo s.regions r ≤ s.si.nodeId.toNat → s.si.nodeId.toNat ≤ regNodeHi s.regions r →
        a + 5 * cells.length ≤ regBase s.regions r + regLen s.regions r → regAttr s.regions r = 0 →
        regEntryEn s.regions r = false → ∃ t : State, exec (.hawserFrame 0) s = .next t ∧ t.hw.frames = rest ∧
          t.mem = (u.engineStore a (resultBytes 0 cells)).mem ∧ t.l2 = (u.engineStore a (resultBytes 0 cells)).l2 ∧
          t.lk = u.lk))) ∧
    (∀ f, x.armed = true → frames ≤ x.frame → x.writes = [f] → s.chainWritten i.val f 0 =
      (s.setChain i.val { x with writes := [], runs := x.runs + 1, armed := false, frame := 0, operands := [] }).raiseCtr
        (chDoneCtr p i.val))) ∧
  (∀ (i pos f : Nat) (poison : Bool) (cells : List Cell40) (s : State),
    let p := s.hawserPlan
    let n : LinkId := Fin.ofNat 48 (elLink p (chFirst p i + pos))
    i < 1024 → f < 2 ^ 27 → pos < 512 → (s.link n).state ≠ .retired → ∃ g : TxFlit,
      s.sendFrame i pos f poison cells = s.setLink n { s.link n with txq := (s.link n).txq ++ [g] } ∧
      g.head.toNat % 4 = 2 ∧ g.head.getLsbD 2 = decide (f = 0) ∧
      g.head.getLsbD 3 = decide (f + 1 = (chNcells p i + 47) / 48) ∧ g.head.toNat / 2 ^ 4 % 2 ^ 10 = i ∧
      g.head.toNat / 2 ^ 14 % 2 ^ 27 = f ∧ g.head.toNat / 2 ^ 41 % 2 ^ 9 = pos ∧ g.head.getLsbD 50 = poison ∧
      g.head.toNat / 2 ^ 60 = 1 ∧
      ∀ k, k < 48 → cells.length = 48 → cells[k]? = some (BitVec.ofNat 40 (g.payload.toNat / 2 ^ (40 * k)))) ∧
  (∀ (cells : List Cell40), (resultBytes 0 cells).len = 5 * cells.length ∧
    ∀ k c, cells[k]? = some c → (resultBytes 0 cells).field (5 * k) 0 40 = c.toNat)

/-- R28, R289, R291, R297, R298: a link's bring-up and end. The rise of LPn_UP takes a link that is down into bring-up with
its sequence numbers at 0 and every credit held. INIT, and a marker that gives a round trip, complete it; the marker sets
the round trip and the hop count, of which the direction out of the lower node id has the larger half. The fall of LPn_UP
retires a link that is up, with cause 0x5, and takes one in bring-up down, where what waits to be sent waits on; a retired link
stays retired. -/
def Obligations.LinkBringUp : Prop :=
  ∀ (n : LinkId) (s : State),
    let k := s.link n
    (k.lpUp = false → s.linkClock = true → s.enabled .link = true → k.state = .down → ∃ t : State,
      exec (.lpnUpRise n) s = .next t ∧ (t.link n).state = .bringUp ∧ (t.link n).lpUp = true ∧ (t.link n).txSeq = 0 ∧
      (t.link n).rxSeq = 0 ∧ (t.link n).credit = [32, 32, 32, 32, 32, 32, 32, 32, 64, 8] ∧ (t.link n).tlink = k.tlink ∧
      (t.link n).txq = k.txq ∧ ∀ m, m ≠ n → t.link m = s.link m) ∧
    (k.state = .retired → ∃ t : State, exec (.lpnUpRise n) s = .next t ∧ (t.link n).state = .retired) ∧
    (k.state = .up → ∃ t : State, exec (.lpnUpFall n) s = .next t ∧ (t.link n).state = .retired ∧
      (t.link n).txq = [] ∧ (t.link n).retry = [] ∧ t.bw.attn.getLsbD 5 = true) ∧
    (k.state = .bringUp → ∃ t : State, exec (.lpnUpFall n) s = .next t ∧ (t.link n).state = .down ∧
      (t.link n).txq = k.txq ∧ (t.link n).retry = []) ∧
    (s.linkRuns n = true →
      (∀ node role, s.role n ≠ 1 ∨ linkPeer s.linkPlan n.val = node.toNat → exec (.initReceive n node role) s =
        .next (s.setLink n { k with
          initRx := true, state := if k.state = .bringUp ∧ k.lastT ≠ [] then .up else k.state })) ∧
      (∀ node role, s.role n = 1 → linkPeer s.linkPlan n.val ≠ node.toNat → exec (.initReceive n node role) s =
        .next (s.detect { plainFault 0x21 n.val with covered := true })) ∧
      (∀ tTx now, exec (.markerReceive n tTx 0 0 now) s = .next (s.setLink n { k with lastTx := tTx, lastRx := now })) ∧
      (∀ tTx pTx pRx now, pTx ≠ 0 ∨ pRx ≠ 0 → ∃ t : State, exec (.markerReceive n tTx pTx pRx now) s = .next t ∧
        let r := ((now - pTx) - (tTx - pRx)).toNat
        let half := if s.role n ≠ 1 ∨ s.si.nodeId.toNat < linkPeer s.linkPlan n.val then (r + 1) / 2 else r / 2
        (t.link n).rtt = BitVec.ofNat 16 r ∧ (t.link n).lastT.head? = some (BitVec.ofNat 16 half) ∧
        (t.link n).lastTx = tTx ∧ (t.link n).lastRx = now ∧
        (k.state = .bringUp → k.initRx = true → (t.link n).state = .up) ∧
        (s.ck.source ≠ .refLocal → k.lastT.head? = some (BitVec.ofNat 16 half) → (t.link n).tlink = BitVec.ofNat 16 half)))

/-- R26, R284 to R288, R297: a slot of a link. Every slot counts, and its flit goes on the signals; with READY low it is held
there unchanged, and the slot ends when READY is high. Slot 0 sends a marker. A due NAK goes before replayed flits, and those
before new ones. With nothing to send an idle flit goes out. A data flit, here the only one that waits, takes a credit of its
channel and rank and a place in the retry buffer under the next sequence number, and raises the counter that it was given (R260).
A NAK received replays the retry buffer from the SEQ that it names. R268, R286: an operation for this block stays in its receive
buffer, and no credit is owed for it, while the dock is full; otherwise it is checked and arrives, and its credit is owed. R27, R28, R285, R288: reception. A partial flit (FIRST misplaced) or one whose CRC fails is
discarded, counted, recorded as 0x1F, and asks for one NAK. A sequenced flit is taken only at the SEQ that is expected next;
its credits and ACK count, and what it acknowledges leaves the retry buffer. AGREE, DENY, WAKE and WAKEACK are the events
0x3, 0x4, 0x6 and 0x7 of the sleep machine (Table 12). -/
def Obligations.LinkFlits : Prop :=
  (∀ (n : LinkId) (now : Word) (s : State), s.linkRuns n = true →
    let k := s.link n
    let quiet := k.slStop = false ∧ k.slot ≠ 0 ∧ k.nakDue = false ∧ k.ctlq = [] ∧ k.state = .up
    let u : State := { s with pins := { s.pins with lpTx := s.pins.lpTx ||| 1#48 <<< n.val } }
    (k.rx = [] → k.hold = true → exec (.flitSlot n false now) s = .next s ∧
      exec (.flitSlot n true now) s = .next (s.setLink n { k with hold := false })) ∧
    (k.rx = [] → k.hold = false → ∀ ready : Bool,
      (k.nakDue = true → k.slot ≠ 0 → k.owed = [0, 0, 0, 0, 0, 0, 0, 0, 0, 0] →
        exec (.flitSlot n ready now) s = .next (u.setLink n { k with
          nakDue := false, slot := k.slot + 1, hold := !ready
          out := encodeFlit { head := ctlHead 2, payload := 0 } k.rxSeq (k.rxSeq - 1) })) ∧
      (∀ q f rest, k.nakDue = false → k.replay = (q, f) :: rest → exec (.flitSlot n ready now) s =
        .next (u.setLink n { k with
          replay := rest, slot := k.slot + 1, hold := !ready, out := encodeFlit f q (k.rxSeq - 1) })) ∧
      (k.slStop = false → k.slot = 0 → k.replay = [] → k.retry.length < 64 → 0 < k.credit.getD 9 0 → ∃ t : State,
        exec (.flitSlot n ready now) s = .next t ∧ (t.link n).slot = 1 ∧ (t.link n).hold = !ready ∧
        (t.link n).txSeq = k.txSeq + 1 ∧ ∃ g : TxFlit, (t.link n).retry = k.retry ++ [(k.txSeq, g)] ∧
          g.head.toNat / 2 ^ 60 = 3 ∧ g.payload.toNat = now.toNat + k.lastTx.toNat * 2 ^ 64 + k.lastRx.toNat * 2 ^ 128 ∧
          (t.link n).out = encodeFlit g k.txSeq (k.rxSeq - 1)) ∧
      (∀ f, quiet → k.replay = [] → k.txq = [f] → k.retry.length < 64 → s.role n = 1 → k.slState = smAwake k.machine →
        flVc f.head = 0 → 0 < k.credit.getD (flRank f.head) 0 → ∃ t : State, exec (.flitSlot n ready now) s = .next t ∧
          (t.link n).txq = [] ∧ (t.link n).txSeq = k.txSeq + 1 ∧ (t.link n).slot = k.slot + 1 ∧ (t.link n).hold = !ready ∧
          (t.link n).credit.getD (flRank f.head) 0 = k.credit.getD (flRank f.head) 0 - 1 ∧
          (∀ c : Ctr, f.note = some c → t.ctr c.toNat = s.ctr c.toNat + 1) ∧
          ∃ g : TxFlit, (t.link n).retry = k.retry ++ [(k.txSeq, g)] ∧ g.payload = f.payload ∧
            (t.link n).out = encodeFlit g k.txSeq (k.rxSeq - 1)) ∧
      (quiet → k.replay = [] → k.txq = [] → ∃ t : State, exec (.flitSlot n ready now) s = .next t ∧
        (t.link n).txSeq = k.txSeq ∧ (t.link n).retry = k.retry ∧ (t.link n).credit = k.credit ∧
        (t.link n).slot = k.slot + 1)) ∧
    (∀ seq : BitVec 16, (k.replaySq = seq → k.replayN < 15) →
      let kept := k.retry.filter fun e => decide (2 ^ 15 ≤ (seq - 1 - e.1).toNat)
      exec (.nakReceive n seq) s = .next (s.setLink n { k with
        retry := kept, replay := kept, replaySq := seq
        replayN := if k.replaySq = seq then k.replayN + 1 else 1
        replays := if k.replays = 0xFFFF then k.replays else k.replays + 1 })) ∧
    (∀ seq : BitVec 16, k.replaySq = seq → k.replayN = 15 → ∃ t : State, exec (.nakReceive n seq) s = .next t ∧
      (t.link n).state = .retired)) ∧
  (∀ (n : LinkId) (flit : BitVec 2048) (now : Word) (s : State), s.linkRuns n = true →
    let k := s.link n
    let type := flit.toNat / 2 ^ 60 % 16
    let seq := BitVec.ofNat 16 (flit.toNat / 2 ^ 2016)
    let ack := BitVec.ofNat 16 (flit.toNat / 2 ^ 2032)
    let discarded : State := (s.setLink n { k with
      crcFail := if k.crcFail = 0xFFFF then k.crcFail else k.crcFail + 1
      nakDue := k.nakDue || !k.nakOpen, nakOpen := true }).detect { plainFault 0x1F n.val with covered := k.nakOpen }
    (exec (.flitReceive n false flit now) s = .next discarded) ∧
    (rxGood flit = false → exec (.flitReceive n true flit now) s = .next discarded) ∧
    (rxGood flit = true → type ≠ 0 → type ≠ 2 → seq ≠ k.rxSeq → exec (.flitReceive n true flit now) s = .next discarded) ∧
    (rxGood flit = true → type = 0 → ∃ t : State, exec (.flitReceive n true flit now) s = .next t ∧
      (t.link n).rxSeq = k.rxSeq ∧ (t.link n).retry = k.retry.filter fun e => decide (2 ^ 15 ≤ (ack - e.1).toNat)) ∧
    (rxGood flit = true → seq = k.rxSeq → k.wakes = 0 → ∀ ev : Nat, (type, ev) ∈ [(6, 3), (7, 4), (8, 6), (9, 7)] →
      let e := smEntry k.machine k.slState ev
      BitVec.ofNat 4 e ≠ smAwake k.machine → e / 16 % 16 ≠ 4 → ∃ t : State, exec (.flitReceive n true flit now) s = .next t ∧
        (t.link n).rxSeq = k.rxSeq + 1 ∧ (t.link n).slState = if e = 0 then k.slState else BitVec.ofNat 4 e) ∧
    (rxGood flit = true → type = 1 → flit.toNat % 4 = 2 → seq = k.rxSeq → smEntry k.machine k.slState 10 = 0 → ∃ t : State,
      exec (.flitReceive n true flit now) s = .next t ∧ (t.link n).rxSeq = k.rxSeq + 1 ∧ (t.link n).nakOpen = false ∧
      t.hw.frames.length = s.hw.frames.length + 1 ∧
      ∀ f, t.hw.frames.getLast? = some f → f.chain = flit.toNat / 2 ^ 4 % 2 ^ 10 ∧ f.via = some n) ∧
    (rxGood flit = true → type = 1 → flit.toNat % 4 = 0 → BitVec.ofNat 15 (flit.toNat / 2 ^ 5) = s.si.nodeId → seq = k.rxSeq →
      smEntry k.machine k.slState 10 = 0 → k.rx = [] →
      (s.dockFull n = true → ∃ t : State, exec (.flitReceive n true flit now) s = .next t ∧ (t.link n).rx = [flit] ∧
        (t.link n).owed = k.owed ∧ t.dk.arriving = s.dk.arriving) ∧
      (s.dockFull n = false → flit.getLsbD 4 = true → flit.toNat / 2 ^ 64 % 256 = 2 → ∃ t : State,
        exec (.flitReceive n true flit now) s = .next t ∧ (t.link n).rx = [] ∧
        (t.link n).owed = bumpAt k.owed (flit.toNat / 4 % 4) 1 ∧ ∃ a : ArrivingOp, t.dk.arriving = s.dk.arriving ++ [a] ∧
          a.kind = .read ∧ a.via = .link n ∧ a.src = BitVec.ofNat 15 (flit.toNat / 2 ^ 20) ∧
          a.tag = BitVec.ofNat 16 (flit.toNat / 2 ^ 35) ∧ a.len = flit.toNat / 2 ^ 96 % 2 ^ 24 ∧
          a.addr = BitVec.ofNat 48 (flit.toNat / 2 ^ 128) ∧ s.checked a false = a)))

/-- R300 to R303: the sleep machine. Each event runs the entry of the machine for the state and the event: the next state, a
timer, and an action, which may queue a control flit and stop or start the transmitter; a pair at 0x0000 does nothing. IDLE
needs the idle conditions, TX_PEND a waiting flit, SLEEP_TIMER a running timer, which it stops, and CAL_DUE the slack state.
-/
def Obligations.SleepMachine : Prop :=
  ∀ (n : LinkId) (s : State), s.linkRuns n = true →
    let k := s.link n
    let entry (ev : Nat) : Nat := smEntry k.machine k.slState ev
    let runs (i : Instr) (k : Link) (ev : Nat) : Prop :=
      (entry ev = 0 → exec i s = .next (s.setLink n k)) ∧
      (entry ev ≠ 0 → (BitVec.ofNat 4 (entry ev) ≠ smAwake k.machine ∨ BitVec.ofNat 4 (entry ev) = k.slState) →
        (entry ev / 16 % 16 = 4 → k.wakes < 15) → k.wakes < 16 → ∃ t : State, exec i s = .next t ∧ ∃ wakes,
        let action := entry ev / 16 % 16
        t.link n = { k with
          slState := BitVec.ofNat 4 (entry ev), slTimer := BitVec.ofNat 2 (entry ev / 256), wakes := wakes
          slStop := if action = 2 ∨ action = 6 then true else if action = 5 ∨ action = 7 then false else k.slStop
          ctlq := k.ctlq ++ if action = 1 then [5] else if action = 2 then [6] else if action = 3 then [7]
            else if action = 4 then [8] else if action = 5 then [9] else [] })
    (smEnable k.machine = true → s.linkIdle n = true → runs (.idle n) k 0) ∧
    (smEnable k.machine = false ∨ s.linkIdle n = false → exec (.idle n) s = .next s) ∧
    (s.linkIdle n = true → runs (.sleep n) k 2) ∧ (s.linkIdle n = false → runs (.sleep n) k 1) ∧
    runs (.agree n) k 3 ∧ runs (.deny n) k 4 ∧ (k.txq ≠ [] → runs (.txPend n) k 5) ∧ runs (.wake n) k 6 ∧
    runs (.wakeack n) k 7 ∧ (k.slTimer ≠ 0 → runs (.sleepTimer n) { k with slTimer := 0 } 8) ∧
    (k.slTimer = 0 → exec (.sleepTimer n) s = .next s) ∧ (k.slState = smSlack k.machine → runs (.calDue n) k 9) ∧
    (k.slState ≠ smSlack k.machine → exec (.calDue n) s = .next s)

/-- R9, R11, R12, R29 to R33, R44, R64, R65: a request of the host. One under an id that is in use, or before the root is
locked, does not transfer. One that is misaligned or narrower than 8 bytes is answered WIDTH; one for an address with no
register NOADDR; a write with a reserved bit REFUSED with code 0x0001. A read is answered DONE with the register's value,
and clears what the register's reading clears. An earlier request of the same window holds a reply back; a reply that leaves
shows the highest attention cause above its outcome. R9: the fields that a read clears: LOSTQ, LOST, a slice's skip count
and a link's error counts. A write of a writable register changes its fields and nothing else: a read-only register keeps its
value, a field of kind W1C clears where 1 is written, and a register of kind RW reads back what was written while every other
register reads as before. -/
def Obligations.HostPort : Prop :=
  ((∀ id write a be v (s : State), ¬ s.HostFree id → exec (.hostRequest id write a be v) s = .next s) ∧
  (∀ id write (a : BitVec 24) be v (s : State), s.HostFree id → (a.toNat % 8 ≠ 0 ∨ be ≠ 0xFF) →
    exec (.hostRequest id write a be v) s = .next ((s.transferred id (windowOf a.toNat id)).answer id .width)) ∧
  (∀ id write (a : BitVec 24) v (s : State), s.HostFree id → a.toNat % 8 = 0 → regAt a.toNat = none →
    (windowOf a.toNat id = 0 → s.si.check = none) →
    exec (.hostRequest id write a 0xFF v) s = .next ((s.transferred id (windowOf a.toNat id)).answer id .noaddr)) ∧
  (∀ id (a : BitVec 24) v r (s : State), a.toNat % 8 = 0 → regAt a.toNat = some r → s.HostOpen id (windowOf a.toNat id) r →
    r.berthCore = none → r ≠ .inject → v &&& r.reserved ≠ 0 →
    exec (.registerWrite id a v) s = .next ((s.transferred id (windowOf a.toNat id)).answer id (.refused 0x0001))) ∧
  (∀ id (a : BitVec 24) v (s : State), exec (.registerWrite id a v) s = exec (.hostRequest id true a 0xFF v) s) ∧
  (∀ id (a : BitVec 24) r (s : State), a.toNat % 8 = 0 → regAt a.toNat = some r → s.HostOpen id (windowOf a.toNat id) r →
    r.berthCore = none → s.windowDamaged (windowOf a.toNat id) = false → exec (.readClear id a) s =
      .next (((s.transferred id (windowOf a.toNat id)).afterRead r).answer id (.done (s.regValue r))) ∧
      exec (.hostRequest id false a 0xFF 0) s =
        .next (((s.transferred id (windowOf a.toNat id)).afterRead r).answer id (.done (s.regValue r)))) ∧
  (∀ id (a : BitVec 24) v r (s : State), a.toNat % 8 = 0 → regAt a.toNat = some r → s.HostOpen id (windowOf a.toNat id) r →
    v &&& r.reserved = 0 →
    let t := s.transferred id (windowOf a.toNat id)
    let writes (f : State → State) : Prop := exec (.registerWrite id a v) s = .next ((f t).answer id (.done 0)) ∧
      exec (.hostRequest id true a 0xFF v) s = .next ((f t).answer id (.done 0))
    let readsBack (u : State) (r : HReg) : Prop := u.regValue r = v ∧
      ∀ b r', b % 8 = 0 → regAt b = some r' → r' ≠ r → u.regValue r' = s.regValue r'
    (r ∈ [.siCommitStatus, .siHarbourStatus, .mark0, .mark1, .ckDrift, .tide, .dkStatus] ∨ (∃ k, r = .capAddr k ∨ r = .capTime k) ∨
      (∃ n, r = .pfskip n ∨ r = .poison n) ∨ (∃ n, r = .lkStatus n ∨ r = .lkCal n ∨ r = .lkErr n) ∨ (∃ n, r = .dbgStat n) →
      writes fun u => u) ∧
    (r = .l1ctl → writes (fun u => { u with l2 := { u.l2 with ien := v.setWidth 16, den := BitVec.ofNat 16 (v.toNat / 65536) } }) ∧
      readsBack { s with l2 := { s.l2 with ien := v.setWidth 16, den := BitVec.ofNat 16 (v.toNat / 65536) } } .l1ctl) ∧
    (∀ n, r = .qyScrub n → 16 ≤ v.toNat % 65536 →
      writes (fun u => u.setEngine n { u.engine n with interval := v.setWidth 16, scrubEn := v.getLsbD 32 }) ∧
      readsBack (s.setEngine n { s.engine n with interval := v.setWidth 16, scrubEn := v.getLsbD 32 }) (.qyScrub n)) ∧
    (∀ n, r = .qyScrub n → v.toNat % 65536 < 16 → exec (.registerWrite id a v) s = .next (t.answer id (.refused 0x0006))) ∧
    (∀ off, r = .staging off → writes (fun u => u.mapSi fun i => i.stage off v) ∧
      readsBack (s.mapSi fun i => i.stage off v) (.staging off)) ∧
    (∀ n, r = .qyStatus n → writes fun u => u.setEngine n { u.engine n with
      psat := (u.engine n).psat && !v.getLsbD 0, pinv := (u.engine n).pinv && !v.getLsbD 1 }) ∧
    (∀ n, r = .qyLerr n → writes fun u => u.setEngine n { u.engine n with lerrV := (u.engine n).lerrV && !v.getLsbD 63 }) ∧
    (∀ i, r = .hwChain i → writes fun u => u.setChain i.val { u.chain i.val with
      sat := (u.chain i.val).sat && !v.getLsbD 33, err := (u.chain i.val).err && !v.getLsbD 34 }) ∧
    (r = .ckStatus → writes fun u => u.mapCk fun k => { k with timeStep := k.timeStep && !v.getLsbD 40 }) ∧
    (r = .logstat → writes fun u => u.mapBw fun w => { w with logErr := w.logErr && !v.getLsbD 40 }) ∧
    (r = .bwPend 0 → writes fun u => u.mapBw fun w => { w with pendC := w.pendC &&& ~~~v.setWidth 41 }) ∧
    (r = .bwPend 1 → writes fun u => u.mapBw fun w => { w with pendU := w.pendU &&& ~~~v.setWidth 41 }) ∧
    (r = .bwPend 2 → s.bw.doubleF = false → writes fun u => u.mapBw fun w =>
      { w with pendF := w.pendF &&& ~~~(v.setWidth 41 &&& w.freed) }) ∧
    (∀ k : Fin 3, r = .capInfo k → k ≠ 2 → v.getLsbD 63 = true → writes fun u => u.mapBw fun w =>
      { w with caps := w.caps.set k Capture.empty })) ∧
  (∀ id (s : State) q r, s.host.outstanding.find? (fun x => x.id == id) = some q → q.reply = some r →
    (s.host.outstanding.takeWhile (fun x => x.id != id)).all (fun x => x.window != q.window) = true → s.rootRuns = true →
    ∃ t : State, exec (.hostReply id) s = .next t ∧ q ∉ t.host.outstanding ∧ t.host.rsp.id = id ∧ t.pins.hpRsp = true ∧
      t.host.rsp.data = r.data ∧ t.host.rsp.rdata = r.rdata ∧
      t.host.rsp.status = BitVec.ofNat 8 (16 * s.topCause + r.outcome.toNat)) ∧
  (∀ id (s : State) q, s.host.outstanding.find? (fun x => x.id == id) = some q → q.reply = none →
    exec (.hostReply id) s = .next s)) ∧
  (∀ (s : State), (s.afterRead .bwStatus).bw.lostq = 0 ∧ (s.afterRead .logstat).bw.logLost = 0 ∧
    (∀ n, (s.afterRead (.pfskip n)).l2.skips[n] = 0) ∧
    (∀ n, ((s.afterRead (.lkErr n)).link n).replays = 0 ∧ ((s.afterRead (.lkErr n)).link n).crcFail = 0) ∧
    (∀ n m, m ≠ n → (s.afterRead (.lkErr n)).link m = s.link m) ∧
    (∀ r, r ≠ .bwStatus → r ≠ .logstat → (∀ n, r ≠ .pfskip n) → (∀ n, r ≠ .lkErr n) → s.afterRead r = s))

/-- R53 to R56, R106: the staging area and commits. A staging write replaces the eight bytes at its offset and no other.
COMMIT starts a commit of the section, DISCARD drops its pending copy; a reserved section id of a DISCARD is REFUSED with
0x0106. A commit that ends well makes its section pending, MANIFEST active at once with the node's identity; one that fails
records its reason and raises cause 0x8. -/
def Obligations.Commits : Prop :=
  (∀ id (off : BitVec 24) v, off.toNat % 8 = 0 → off.toNat < 0x800000 →
    HostWrites (.stagingWrite id off v) id 32 (.staging off.toNat) fun s => s.mapSi fun i => i.stage off.toNat v) ∧
  (∀ (i : Si) off (v : Word) x, (i.stage off v).staged x 0 8 =
    if off ≤ x ∧ x < off + 8 then v.toNat / 2 ^ (8 * (x - off)) % 256 else i.staged x 0 8) ∧
  (∀ id (sect : BitVec 8), HostWrites (.commit id sect) id 0 .siCommit fun s => s.mapSi fun i =>
    { i with commit := some (i.commitJob sect.toNat), csSection := sect, csState := 1 }) ∧
  (∀ id (sect : BitVec 8), sectReserved sect.toNat = false → HostWrites (.discard id sect) id 0 .siCommit fun s =>
    s.mapSi fun i => { i with pend := adel sect.toNat i.pend }) ∧
  (∀ id (sect : BitVec 8) (s : State), sectReserved sect.toNat = true → s.HostOpen id 0 .siCommit →
    exec (.discard id sect) s = .next ((s.transferred id 0).answer id (.refused 0x0106))) ∧
  ∀ (s : State) (j : CommitJob), s.live = true → s.si.commit = some j →
    (j.reason = 0 → j.sect ≠ secManifest → exec .commitDone s =
      .next (s.mapSi fun i => { i with commit := none, csState := 2, pend := aput j.sect j.body i.pend })) ∧
    (j.reason = 0 → j.sect = secManifest → s.si.enable = 0 → ∃ t : State, exec .commitDone s = .next t ∧
      t.sect secManifest = j.body.body ∧ t.si.nodeId = j.nodeId ∧ t.si.serial = j.serial ∧ t.si.pend = s.si.pend ∧
      t.si.csState = 2 ∧ t.si.commit = none) ∧
    (j.reason ≠ 0 ∨ (j.sect = secManifest ∧ s.si.enable ≠ 0) → ∃ t : State, exec .commitDone s = .next t ∧
      t.si.csState = 3 ∧ t.si.csReason = (if j.reason ≠ 0 then BitVec.ofNat 16 j.reason else 0x010A) ∧
      t.si.commit = none ∧ t.si.pend = s.si.pend ∧ t.si.active = s.si.active ∧ t.bw.attn.getLsbD 8 = true)

/-- R58 to R60, R62, R64: enabling and releasing units. A write of SI_ENABLE whose one difference is a unit that is to be
enabled, with its prerequisites, starts the unit's check and stays unanswered; a check that finds nothing accepts, and one
that finds something is REFUSED with its reason and drops the unit's pending sections. A write whose one difference releases
a unit is turned away for CLOCK and SAFETY, while another unit depends on it and while it has operations in flight, and
clears its bit otherwise. R59, R64: the end of a check of a unit, with no request waiting behind it: acceptance sets the
unit's bit, refusal drops its pending sections, and either answers the request. -/
def Obligations.UnitRequests : Prop :=
  (∀ (id : HostId) (v : Word) (s : State), s.HostOpen id 0 .siEnable → v &&& HReg.siEnable.reserved = 0 →
    let t := s.transferred id 0
    let asks := allUnits.filter fun u => bitAt v u.bit && (!s.enabled u || (!u.isCore && !(s.pendingOf u).isEmpty))
    let drops := allUnits.filter fun u => !bitAt v u.bit && s.enabled u
    (asks = [] → drops = [] → exec (.unitRequest id v) s = .next (t.answer id (.done 0))) ∧
    (1 < asks.length + drops.length → exec (.unitRequest id v) s = .next (t.answer id (.refused 0x0003)) ∧
      exec (.unitRelease id v) s = .next (t.answer id (.refused 0x0003))) ∧
    (∀ u, asks = [u] → drops = [] → s.si.commit = none →
      (s.si.harbour.closing = true → exec (.unitRequest id v) s = .next (t.answer id (.refused 0x0007))) ∧
      (s.si.harbour.closing = false → s.prereqs u = false →
        exec (.unitRequest id v) s = .next (t.answer id (.refused 0x0004))) ∧
      (s.si.harbour.closing = false → s.prereqs u = true →
        exec (.unitRequest id v) s = .next (t.mapSi fun i => { i with check := some (u, id) }))) ∧
    (∀ u, asks = [] → drops = [u] → s.si.harbour.closing = false →
      (u = .clock ∨ u = .safety → exec (.unitRelease id v) s = .next (t.answer id (.refused 0x0008))) ∧
      (u ≠ .clock → u ≠ .safety →
        (s.hasDependent u = true → exec (.unitRelease id v) s = .next (t.answer id (.refused 0x0005))) ∧
        (s.hasDependent u = false → s.inFlight u = true →
          exec (.unitRelease id v) s = .next (t.answer id (.refused 0x0007))) ∧
        (s.hasDependent u = false → s.inFlight u = false → ∃ r : State, exec (.unitRelease id v) s = .next r ∧
          r.enabled u = false ∧ (∀ x, x ∈ allUnits → x ≠ u → r.enabled x = s.enabled x) ∧
          (∀ b ∈ r.host.outstanding, b.id = id → b.reply = some (.done 0)))))) ∧
  (∀ (s : State) u id, s.live = true → s.si.check = some (u, id) → s.host.waiting = [] →
    let t := s.mapSi fun i => { i with check := none }
    (t.checkReason u = 0 → ∃ r : State, exec .consistencyCheckDone s = .next r ∧ r.si.check = none ∧
      r.enabled u = true ∧ (∀ x ∈ t.pendingOf u, aget x r.si.pend = none) ∧
      (∀ b ∈ r.host.outstanding, b.id = id → b.reply = some (.done 0))) ∧
    (t.checkReason u ≠ 0 → ∃ r : State, exec .consistencyCheckDone s = .next r ∧ r.si.check = none ∧
      r.si.enable = s.si.enable ∧ r.si.active = s.si.active ∧ (∀ x ∈ t.pendingOf u, aget x r.si.pend = none) ∧
      (∀ b ∈ r.host.outstanding, b.id = id → b.reply = some (.refused (t.checkReason u)))))

/-- R66, R129, R308, R315, R331 to R333, R340, R345: the writes of the breakwater's and the clock unit's registers. BW_ATTN
clears the causes written 1. SAFE clears only with no F bit pending, no stop demand or stop fault and no expired keepalive;
STOP_FAULT only with a discrepancy count of 0. RELEASE outside the safe state arms the outputs written 1, inside it arms
none; KICK ends an expiry and starts the window anew. LOG_ENABLE takes the ring with the PUT and TAKE of its control slot. RESELECT asks for a new
search. A gate changes unless a served unit is enabled (0x0002), a child stays open (0x0005) or its parent is closed
(0x0004). R340: BW_INJECT is DENIED outside test mode. In test mode it records the fault as a detected one is recorded, and
the pending bit of its class shows it where no earlier fault is unacknowledged; behind faults that wait for the collector it
waits as they do. -/
def Obligations.BreakwaterAndClockWrites : Prop :=
  ((∀ id (v : Word), v &&& HReg.bwAttn.reserved = 0 → HostWrites (.bwAttnWrite id v) id 1 .bwAttn fun s =>
    s.mapBw fun w => { w with attn := w.attn &&& ~~~v.setWidth 16 }) ∧
  (∀ id, HostWrites (.safeClear id) id 1 .bwStatus fun s => s.mapBw fun w =>
    { w with safe := w.safe && !(w.pendF == 0 && !w.stopA && !w.stopB && !w.stopFault && !w.keepExp) }) ∧
  (∀ id, HostWrites (.stopFaultClear id) id 1 .bwStatus fun s => s.mapBw fun w =>
    { w with stopFault := w.stopFault && w.discCnt != 0 }) ∧
  (∀ id outputs, HostWrites (.release id outputs) id 1 .bwOutctl fun s => s.mapBw fun w =>
    { w with release := outputs, armed := if w.safe then 0 else outputs }) ∧
  (∀ id, HostWrites (.kick id) id 1 .bwKeep fun s => s.mapBw fun w => { w with keepExp := false, keepAt := s.time }) ∧
  (∀ id base size, HostWrites (.logEnable id base size) id 1 .logctl fun s =>
    if s.bw.logEn then s.mapBw fun w => { w with logBase := base, logSize := size, logEn := true }
    else s.mapBw fun w => { w with
      logBase := base, logSize := size, logEn := true, ringBase := base, ringSize := size
      logPut := BitVec.ofNat 64 ((s.engineWord (base.toNat * 4096)).getD 0)
      logTake := BitVec.ofNat 64 ((s.engineWord (base.toNat * 4096 + 8)).getD 0) }) ∧
  (∀ id, HostWrites (.reselect id) id 2 .ckCtl fun s => s.mapCk fun k => { k with reselect := true }) ∧
  (∀ id (v : Word) (s : State), v &&& HReg.ckGate.reserved = 0 → s.HostOpen id 2 .ckGate →
    ((∀ i, i < 21 → s.gateCode (v.setWidth 21) i = 0) → exec (.gateWrite id v) s =
      .next (((s.transferred id 2).mapCk fun k => { k with gates := v.setWidth 21 }).answer id (.done 0))) ∧
    (∀ i, i < 21 → s.gateCode (v.setWidth 21) i ≠ 0 → (∀ j, j < i → s.gateCode (v.setWidth 21) j = 0) →
      exec (.gateWrite id v) s = .next ((s.transferred id 2).answer id (.refused (s.gateCode (v.setWidth 21) i))))) ∧
  ∀ (s : State) (v : BitVec 21) (n : CoreId), s.gateCode v n.val =
    if s.ck.gates.getLsbD n.val then
      (if v.getLsbD n.val = false ∧ s.enabled (.core n) = true then 0x0002 else 0)
    else if v.getLsbD n.val = true ∧ v.getLsbD 16 = false then 0x0004 else 0) ∧
  (∀ (id : HostId) (src : BitVec 6) (inst : BitVec 8) (s : State), s.HostOpen id 1 .inject →
    (s.testMode = false → exec (.inject id src inst) s = .next ((s.transferred id 1).answer id .denied)) ∧
    (s.testMode = true → 0x28 < src.toNat →
      exec (.inject id src inst) s = .next ((s.transferred id 1).answer id (.refused 0x0006))) ∧
    (s.testMode = true → src.toNat ≤ 0x28 → ∃ t : State, exec (.inject id src inst) s = .next t ∧
      (src ≠ 0x20 → s.bw.queue ≠ [] → s.bw.queue.length < 256 → t.bw.queue = s.bw.queue ++
        [{ ev := plainFault src.toNat inst.toNat, time := s.time, injected := true }]) ∧
      (src ≠ 0x20 → s.bw.queue = [] → s.bw.unacked = [] → (t.bw.pendOf (faultClass src.toNat)).getLsbD src.toNat = true ∧
        (t.bw.safe = (s.bw.safe || faultClass src.toNat == 2 || (faultClass src.toNat == 1 && faultSafety src.toNat)))) ∧
      ∀ b ∈ t.host.outstanding, b.id = id → b.reply = some (.done 0)))

/-- R112, R120, R129, R212: the writes of the pilot's and the L2's registers. A doorbell offers the event of each ring
written 1 to its targets. A tile save falls due after the entries that are queued, and acts at once in a quiet unit with
none. A maintenance operation acts on every slice and reads busy until L2_MAINT_DONE; a clean writes the valid bytes of each
dirty line to memory, in which no other line changes, and leaves every line where it is, no longer dirty. R46, R222: the array
tests of a core and of the L2: DENIED outside test mode, REFUSED while the unit is enabled, and busy otherwise until the test is
done with its result; then nothing of what the arrays held is left: the caches are empty, and the registers hold free patterns
(the model's choice, log entry 103). -/
def Obligations.PilotAndL2Writes : Prop :=
  ((∀ id ring, HostWrites (.doorbellRing id ring) id 3 .doorbell fun s => (List.range 16).foldl
    (fun s i => if ring.getLsbD i then s.offerEvent (0x10 + i) .doorbell else s) s) ∧
  (∀ (s : State) n src, n < 4096 → (evValid s.pilotPlan n = false → s.offerEvent n src = s) ∧
    (evValid s.pilotPlan n = true →
      let of (t : State) (c : CoreId) (o : Offer) : Prop := o ∈ t.pl.offers ∧ o.id = BitVec.ofNat 12 n ∧ o.core = c ∧ o.src = src
      (∀ c, (∃ o, of (s.offerEvent n src) c o) ↔ c ∈ evTargets s.pilotPlan n ∨ ∃ o, of s c o) ∧
      ∀ o ∈ (s.offerEvent n src).pl.offers, o ∈ s.pl.offers ∨ (o.src = src ∧ o.terms = evTerms s.pilotPlan n))) ∧
  (∀ id (save : BitVec 16) (s : State), s.HostOpen id 3 .tsave →
    (∀ c : CoreId, save.getLsbD c.val = true → (s.tile c).queue ≠ []) → ∃ t : State,
      exec (.tileSave id save) s = .next t ∧ ∀ c : CoreId, t.tile c =
        if save.getLsbD c.val = true ∧ (s.tile c).save = none then { s.tile c with save := some (s.tile c).queue.length }
        else s.tile c) ∧
  (∀ id (c : CoreId) (s : State), s.HostOpen id 3 .tsave → (s.tile c).queue = [] → (s.tile c).drain = none →
    (s.tile c).save = none → s.meshRuns = true → s.ck.supEpisode = false → (s.core c).saving = false →
    s.pocketHeld c (s.tile c).owner = false → ∃ t : State,
      exec (.tileSave id (1#16 <<< c.val)) s = .next t ∧ (t.tile c).owner = none ∧ (t.tile c).save = none) ∧
  (∀ id, let f (g : State → State) (s : State) : State := if s.l2.maintBusy = true ∨ s.meshRuns = false then s
      else { g s with l2 := { (g s).l2 with maintBusy := true } }
    HostWrites (.cleanAll id) id 4 .maint (f State.cleanAll) ∧
    HostWrites (.invalidateAll id) id 4 .maint (f State.invalidateAll) ∧
    HostWrites (.cleanAndInvalidate id) id 4 .maint (f fun s => s.cleanAll.invalidateAll)) ∧
  (∀ s : State, s.memOk →
    (∀ line x, s.l2.find line = some x → line ∈ s.l2.order → x.dirty = true → x.poison = 0 →
      cellsLine s.cleanAll.mem line = mergeLine (cellsLine s.mem line) x.data x.mask) ∧
    (∀ line, line ∉ s.l2.order → cellsLine s.cleanAll.mem line = cellsLine s.mem line) ∧
    (∀ line, (s.cleanAll.l2.find line).map (fun x => (x.data, x.mask)) = (s.l2.find line).map fun x => (x.data, x.mask)) ∧
    (∀ line ∈ s.l2.order, ∀ x, s.cleanAll.l2.find line = some x → x.dirty = false)) ∧
  (∀ s : State, s.invalidateAll.l2.lines = [] ∧ s.invalidateAll.l2.order = [] ∧ s.invalidateAll.mem = s.mem ∧
    s.invalidateAll.l2.scratch = s.l2.scratch) ∧
  ∀ s : State, s.meshRuns = true → exec .l2MaintDone s = .next { s with l2 := { s.l2 with maintBusy := false } }) ∧
  ((∀ id (n : CoreId) (s : State), s.HostOpen id (16 + n.val) (.dbgAtest n) →
    let t := s.transferred id (16 + n.val)
    (s.testMode = false → exec (.coreArrayTest id n) s = .next (t.answer id .denied)) ∧
    (s.testMode = true → s.enabled (.core n) = true → exec (.coreArrayTest id n) s = .next (t.answer id (.refused 0x0002))) ∧
    (s.testMode = true → s.enabled (.core n) = false → exec (.coreArrayTest id n) s =
      .next ((t.setCore n { s.core n with atestBusy := true }).answer id (.done 0)))) ∧
  (∀ id (s : State), s.HostOpen id 4 .l2Atest →
    let t := s.transferred id 4
    (s.testMode = false → exec (.l2ArrayTest id) s = .next (t.answer id .denied)) ∧
    (s.testMode = true → s.enabled .l2 = true → exec (.l2ArrayTest id) s = .next (t.answer id (.refused 0x0002))) ∧
    (s.testMode = true → s.enabled .l2 = false → exec (.l2ArrayTest id) s =
      .next (({ t with l2 := { s.l2 with atestBusy := true } } : State).answer id (.done 0)))) ∧
  ∀ (fail : Bool) (s : State), s.live = true →
    (∀ n, (s.core n).atestBusy = true → s.enabled (.core n) = true → exec (.arrayTestDone (some n) fail) s =
      .next (s.setCore n { s.core n with atestBusy := false, atestFail := fail })) ∧
    (∀ n, (s.core n).atestBusy = true → s.enabled (.core n) = false → ∃ t : State,
      exec (.arrayTestDone (some n) fail) s = .next t ∧ (t.core n).atestBusy = false ∧ (t.core n).atestFail = fail ∧
      (t.core n).l1i = L1.empty ∧ (t.core n).l1d = L1.empty ∧ (t.core n).lineBuf = [] ∧ (t.core n).sb = [] ∧
      (∀ (b : BerthId) (g : Reg), (t.berth n b).g[g] = (Config.testPattern n.val 0 (32 * b.val + g.val)).setWidth 64) ∧
      (∀ m, m ≠ n → t.core m = s.core m) ∧ t.mem = s.mem) ∧
    (∀ n, (s.core n).atestBusy = false → exec (.arrayTestDone (some n) fail) s = .next s) ∧
    (s.l2.atestBusy = true → s.enabled .l2 = true → exec (.arrayTestDone none fail) s =
      .next { s with l2 := { s.l2 with atestBusy := false, atestFail := fail } }) ∧
    (s.l2.atestBusy = true → s.enabled .l2 = false → exec (.arrayTestDone none fail) s = .next { s with l2 := { s.l2 with
      lines := [], ptrs := [], order := [], poison := [], scratch := [], scrPoison := [], tested := true
      atestBusy := false, atestFail := fail } }) ∧
    (s.l2.atestBusy = false → exec (.arrayTestDone none fail) s = .next s))

/-- R45, R47, R48: the debugger. HALT stops a core that runs, at once or, where its head instruction is a customer instruction
that awaits its response, after that; RESUME lets a halted one go on and clears its reason; STEP executes the one instruction at
the PC of a halted core (said here of ADD, ADDI, BR and NOP), which is halted afterwards with REASON 3. A berth register of a core that is not halted is REFUSED
with 0x0113; of a halted core it reads and writes the selected berth. A debug request waits while the DEBUG gate is closed;
it reaches the debug windows only. The oldest trace record leaves on the trace port. -/
def Obligations.Debugger : Prop :=
  (∀ id n, HostWrites (.halt id n) id (16 + n.val) (.dbgCtl n) fun s => if (s.core n).halted then s else s.haltCore n 1) ∧
  (∀ id n, HostWrites (.resume id n) id (16 + n.val) (.dbgCtl n) fun s =>
    if (s.core n).halted then (s.setCore n { s.core n with halted := false, reason := 0 }).settle n else s) ∧
  (∀ id n, HostWrites (.step id n) id (16 + n.val) (.dbgCtl n) fun s => if (s.core n).halted then s.stepCore n else s) ∧
  (∀ (s : State) n, (s.headSent n = false → ((s.haltCore n 1).core n).halted = true ∧ ((s.haltCore n 1).core n).reason = 1) ∧
    (s.headSent n = true → s.haltCore n 1 = s.setCore n { s.core n with stalled := none, rob := [], haltDue := some 1 }) ∧
    ((s.core n).halted = true → ((s.stepCore n).core n).halted = true ∨ ((s.stepCore n).core n).haltDue.isSome = true)) ∧
  (∀ (s u v : State) (n : CoreId) (b : BerthId) (w : BitVec 32) (i : Instr), (s.core n).halted = true →
    let free := s.setCore n { s.core n with halted := false }
    free.takeWaiting n = free → free.runner n = some b → free.fetchWord n (s.berth n b).pc.toNat = (u, .word w) →
    w.toNat / 2 ^ 22 % 64 ≠ 0x24 → decodeGregon n w 0 = some i →
    ((∃ x rd ra rb, i = .add x rd ra rb) ∨ (∃ x rd ra imm, i = .addi x rd ra imm) ∨ (∃ x disp, i = .br x disp) ∨
      ∃ x, i = .nop x) →
    exec i u = .next v → (v.core n).halted = false → (v.core n).stalled = none → v.headSent n = false → ∃ t : State,
      s.stepCore n = t ∧ (t.core n).halted = true ∧ (t.core n).reason = 3 ∧ t.mem = v.mem ∧ ∀ b', t.berth n b' = v.berth n b') ∧
  (∀ id n write (o : BitVec 16) v r (s : State), o.toNat % 8 = 0 → regAt (dbgAddr n o.toNat) = some r →
    r.berthCore = some n → s.HostOpen id (16 + n.val) r → s.windowDamaged (16 + n.val) = false →
    let t := s.transferred id (16 + n.val)
    let b := (s.core n).berthSel
    let run := exec (.berthRegisterAccess id n write o v) s
    ((s.core n).halted = false → run = .next (t.answer id (.refused 0x0113))) ∧
    ((s.core n).halted = true → write = false → run = .next (t.answer id (.done (s.regValue r)))) ∧
    ((s.core n).halted = true → write = true → v &&& r.reserved = 0 →
      (∀ g, r = .dbgG n g → run = .next ((t.mapBerth n b fun y => y.setReg g v).answer id (.done 0))) ∧
      (r = .dbgP n → run = .next ((t.mapBerth n b fun y => { y with p := v.setWidth 8 ||| 1 }).answer id (.done 0))) ∧
      (r = .dbgPc n → run = .next ((t.mapBerth n b fun y => { y with pc := v }).answer id (.done 0))) ∧
      (∀ c, r = .dbgCr n c →
        (c = .time ∨ c.badCode v = true → run = .next (t.answer id (.refused 0x0006))) ∧
        (c ≠ .time → c.badCode v = false → run = .next ((t.crApply n b c v).answer id (.done 0)))))) ∧
  (∀ (n : CoreId) (g : Reg), regAt (dbgAddr n (0x100 + 8 * g.val)) = some (.dbgG n g) ∧
    regAt (dbgAddr n 0x200) = some (.dbgP n) ∧ regAt (dbgAddr n 0x208) = some (.dbgPc n)) ∧
  (∀ (s : State) n, s.regValue (.dbgPc n) = (s.berth n (s.core n).berthSel).pc &&& 0x0000FFFFFFFFFFFC) ∧
  (∀ req v (s : State), s.live = false ∨ s.ck.gates.getLsbD 20 = false → exec (.debugRequest req v) s = .next s) ∧
  (∀ (req v : Word) (s : State), s.live = true → s.ck.gates.getLsbD 20 = true →
    let a := req.toNat % 2 ^ 24
    let sent (r : Reply) : State := { s with dbg := { s.dbg with beats := debugBeats s.topCause r } }
    (bitsNat req 62 24 ≠ 0 → exec (.debugRequest req v) s = .next (sent (.refused 0x0001))) ∧
    (bitsNat req 62 24 = 0 → a < 0x100000 ∨ 0x200000 ≤ a → exec (.debugRequest req v) s = .next (sent .noaddr)) ∧
    (bitsNat req 62 24 = 0 → 0x100000 ≤ a → a < 0x200000 → a % 8 ≠ 0 →
      exec (.debugRequest req v) s = .next (sent .width)) ∧
    (∀ r, bitsNat req 62 24 = 0 → 0x100000 ≤ a → a < 0x200000 → a % 8 = 0 → regAt a = some r →
      s.locked (windowOf a 0) = false → s.berthClosed r = false → req.getLsbD 63 = false →
      s.windowDamaged (windowOf a 0) = false → exec (.debugRequest req v) s = .next (sent (.done (s.regValue r))))) ∧
  ∀ (s : State) w rest, s.dbg.trace = w :: rest → exec .traceSend s =
    .next (if s.live = true ∧ s.ck.gates.getLsbD 20 = true then { s with dbg := { s.dbg with trace := rest, sent := w } } else s)

/-- R347 to R351: a harbour closing. GO in the open state starts the notice and offers event 0x006; a notice of 0 or above
1000 is REFUSED. Notice ends when every enabled core is closed or its limit has passed; the cores that are not closed are
stuck. The drain ends when what was in progress is done or its limit has passed, and marks what is left. Then, every save of tile
state acknowledged, the clean ends, the elapsed time is set and cause 0x9 raised. REOPEN in the closed state opens the block. -/
def Obligations.HarbourClosing : Prop :=
  (∀ id (notice : BitVec 10), notice ≠ 0 → notice.toNat ≤ 1000 →
    HostWrites (.harbourGo id notice) id 0 .siHarbour (fun s => if s.si.harbour = .open then
      (s.mapSi fun i => { i with
        notice := notice, harbour := .notice, stuck := 0, elapsed := 0, incomplete := 0, goTime := s.time
        cut := Cut.empty }).offerEvent 0x006 .latch else s) ∧
    HostWrites (.harbourReopen id notice) id 0 .siHarbour (fun s => if s.si.harbour = .closed then
      (s.mapSi fun i => { i with notice := notice }).reopen else s)) ∧
  (∀ id (notice : BitVec 10) (s : State), notice = 0 ∨ 1000 < notice.toNat → s.HostOpen id 0 .siHarbour →
    exec (.harbourGo id notice) s = .next ((s.transferred id 0).answer id (.refused 0x0006)) ∧
    exec (.harbourReopen id notice) s = .next ((s.transferred id 0).answer id (.refused 0x0006))) ∧
  (∀ s : State, (∀ c, (s.core c).stuck = false) → s.reopen = s.mapSi fun i => { i with harbour := .open }) ∧
  (∀ s : State, s.live = true → s.si.harbour = .notice →
    (s.openCores = [] ∨ 1000 * s.si.notice.toNat ≤ s.time.toNat - s.si.goTime.toNat → ∃ t : State,
      exec .noticeEnd s = .next t ∧ t.si.harbour = .drain ∧ t.si.stopTime = s.time ∧
      (∀ c : CoreId, t.si.stuck.getLsbD c.val = s.openCores.contains c ∧
        (t.core c).stuck = ((s.core c).stuck || s.openCores.contains c)) ∧
      t.si.incomplete.getLsbD 0 = !s.openCores.isEmpty) ∧
    (s.openCores ≠ [] → s.time.toNat - s.si.goTime.toNat < 1000 * s.si.notice.toNat → exec .noticeEnd s = .next s)) ∧
  (∀ s : State, s.live = true → s.si.harbour = .drain →
    let open_ := s.dockOpen || s.quayOpen || s.hawserOpen || s.tilesOpen
    (open_ = true → s.time.toNat - s.si.stopTime.toNat < 0x100000 → exec .drainEnd s = .next s) ∧
    (open_ = false ∨ 0x100000 ≤ s.time.toNat - s.si.stopTime.toNat → (∀ c, (s.tile c).owner = none) →
      ∃ t : State, exec .drainEnd s = .next t ∧ t.si.harbour = .swept ∧ t.si.incomplete.getLsbD 1 = s.dockOpen ∧
        t.si.incomplete.getLsbD 2 = s.quayOpen ∧ t.si.incomplete.getLsbD 3 = s.hawserOpen ∧
        t.si.incomplete.getLsbD 5 = s.si.untested ∧ ∀ i, i = 0 ∨ i = 6 ∨ i = 7 →
        t.si.incomplete.getLsbD i = s.si.incomplete.getLsbD i)) ∧
  ∀ s : State, s.live = true → s.si.harbour = .swept → (∀ c, (s.core c).saving = false) → ∃ t : State,
    exec .harbourClosed s = .next t ∧
    t.si.harbour = .closed ∧ t.bw.attn.getLsbD 9 = true ∧
    t.si.elapsed = BitVec.ofNat 32 (min (2 ^ 32 - 1) (s.time.toNat - s.si.goTime.toNat))

/-- R18, R57, R305, R306, R317: the resets. PORST_N low and SUP_RESET hold the block: every register is at its reset value,
and memory, pins and waiting commands stay. WRST_N leaves the root, the time, the staging area, the committed sections, the
F faults and the counts, and clears the cores, the other units and the other faults; the safe state is entered, every core runs
on the divider of the plan, and a SUP_WARN that is high starts an episode. Once
released the root locks to REF_LOCAL with a time of zero. A change of TEST_MODE outside PORST_N is the fault 0x0A. -/
def Obligations.Resets : Prop :=
  ∀ s : State,
    (∃ t : State, exec .porstNAssert s = .next t ∧ t.porst = true ∧ t.rootLocked = false ∧ t.time = 0 ∧
      t.cores = State.reset.cores ∧ t.bw = State.reset.bw ∧ t.si = State.reset.si ∧ t.l2 = State.reset.l2 ∧
      t.qy = State.reset.qy ∧ t.dk = State.reset.dk ∧ t.hw = State.reset.hw ∧ t.mem = s.mem ∧ t.pending = s.pending ∧
      t.supHold = s.supHold ∧
      exec .supReset s = .next { t with porst := s.porst, supHold := true }) ∧
    exec .porstNDeassert s = .next { s with porst := false } ∧
    exec .supResetRelease s = .next { s with supHold := false } ∧
    (s.porst = false → s.supHold = false → ∃ t : State, exec .wrstNAssert s = .next t ∧ t.rootLocked = s.rootLocked ∧
      t.time = s.time ∧ t.mem = s.mem ∧ t.pending = s.pending ∧ t.cores = State.reset.cores ∧ t.l2 = State.reset.l2 ∧
      t.qy = State.reset.qy ∧ t.dk = State.reset.dk ∧ t.hw = State.reset.hw ∧
      t.si.staging = s.si.staging ∧ t.si.active = s.si.active ∧ t.si.pend = s.si.pend ∧
      t.si.enable = s.si.enable &&& 0x201 ∧ t.bw.safe = true ∧ t.bw.release = 0 ∧ t.bw.pendF = s.bw.pendF ∧
      t.bw.pendC = 0 ∧ t.bw.pendU = 0 ∧ t.bw.caps[2] = s.bw.caps[2] ∧ t.bw.caps[0] = Capture.empty ∧
      t.bw.caps[1] = Capture.empty ∧ t.bw.counts = s.bw.counts ∧ t.bw.doubleF = s.bw.doubleF ∧
      t.bw.logSeq = s.bw.logSeq ∧ t.ck.source = s.ck.source ∧ t.ck.stopped = false ∧
      t.ck.throttle = State.reset.ck.throttle ∧ (∀ n : CoreId, t.ck.divs[n] = BitVec.ofNat 3 (Nat.max (coreDiv s.clockPlan n.val) 3)) ∧
      t.ck.supEpisode = (s.supWarn && s.rootLocked)) ∧
    (s.porst = true ∨ s.supHold = true → exec .wrstNAssert s = .next s) ∧
    (s.porst = false → s.supHold = false → s.rootLocked = false → s.ck.localUp = true →
      (s.supWarn = false → exec .rootLock s = .next { s with rootLocked := true, time := 0 }) ∧
      (s.supWarn = true → ∃ t : State, exec .rootLock s = .next t ∧ t.rootLocked = true ∧ t.ck.supEpisode = true)) ∧
    (s.porst = true ∨ s.supHold = true ∨ s.rootLocked = true ∨ s.ck.localUp = false → exec .rootLock s = .next s) ∧
    (∀ level, s.porst = true ∨ s.supHold = true ∨ level = s.testMode →
      exec (.testModeChange level) s = .next { s with testMode := level }) ∧
    (∀ level, s.porst = false → s.supHold = false → level ≠ s.testMode → exec (.testModeChange level) s =
      .next (({ s with testMode := level } : State).detect (plainFault 0x0A 0)))

/-- R306, R308 to R310, R318: references. Losing a selected link marks it bad and goes on to the next candidate with cause
0xA, to REF_LOCAL with cause 0xB where there is none, and with neither into holdover, where no link is left, the stopped domains
stop and 0x06 is a fault. In CLUSTER mode a candidate is joined from REF_LOCAL. A source that returns in holdover is locked to. Each
change of source sets TIME_STEP. R311, Table 3 of "Clocks, reference and supply events": a window of the drift monitor. It
records its readings and the case that they give, an absent reading as 0x8000. In cases 1 and 3 nothing else changes; in the
cases that warn, cause 0xA is raised once an episode; case 6 marks the alternate bad. -/
def Obligations.ReferencesAndDrift : Prop :=
  (∀ s : State, s.rootRuns = true →
    (∀ n present, s.ck.source = .link n →
      let t := s.mapCk fun k => { k with
        present := setBit present n.val false, bad := setBit k.bad n.val true }
      (∀ m, t.altRef = some m → exec (.referenceLoss present) s =
        .next ((t.mapCk fun k => { k with source := .link m, timeStep := true }).raiseCause 0xA)) ∧
      (t.altRef = none → s.ck.localUp = true → exec (.referenceLoss present) s =
        .next ((t.mapCk fun k => { k with source := .refLocal, timeStep := true }).raiseCause 0xB)) ∧
      (t.altRef = none → s.ck.localUp = false → exec (.referenceLoss present) s = .next ((s.mapCk fun k => { k with
        present := setBit present n.val false, source := .holdover, stopped := true }).detect (plainFault 0x06 0)))) ∧
    (s.ck.source ≠ .refLocal → s.ck.localUp = true → exec .refLocalAbsent s =
      .next ((s.mapCk fun k => { k with localUp := false, aonTime := true }).detect (plainFault 0x0B 0))) ∧
    (s.ck.source = .refLocal → s.ck.localUp = true → (∃ t : State, exec .refLocalAbsent s = .next t ∧
      t.ck.localUp = false ∧ t.ck.aonTime = true ∧
      ((∃ m, t.ck.source = .link m) ∨ (t.ck.source = .holdover ∧ t.ck.stopped = true))) ∧
      ∀ present, ∃ t : State, exec (.referenceLoss present) s = .next t ∧ t.ck.localUp = false ∧
        ((∃ m, t.ck.source = .link m) ∨ (t.ck.source = .holdover ∧ t.ck.stopped = true))) ∧
    (s.ck.source = .refLocal → exec .refLocalPresent s =
      .next (s.mapCk fun k => { k with localUp := true, aonTime := false })) ∧
    (s.ck.source = .holdover → exec .refLocalPresent s = .next (s.mapCk fun k =>
      { k with localUp := true, aonTime := false, source := .refLocal, timeStep := true }) ∧
      exec (.sourceReturn none) s = .next (s.mapCk fun k =>
        { k with localUp := true, aonTime := false, source := .refLocal, timeStep := true }) ∧
      (∀ n : LinkId, (candidates s.clockPlan).contains n.val = true → s.ck.bad.getLsbD n.val = false →
        exec (.sourceReturn (some n)) s = .next (s.mapCk fun k =>
          { k with present := setBit k.present n.val true, source := .link n, timeStep := true }))) ∧
    (∀ n present m, s.ck.source = .link n → refLocalMode s.clockPlan = true → exec .refLocalPresent s =
      .next (s.mapCk fun k => { k with localUp := true, aonTime := false, source := .refLocal, timeStep := true }) ∧
      exec (.referenceJoin present) s = .next (s.mapCk fun k => { k with present := present }) ∧
      exec (.sourceReturn (some m)) s = .next (s.mapCk fun k => { k with present := setBit k.present m.val true })) ∧
    (∀ present, s.clusterMode = true → s.ck.source = .refLocal →
      let t := s.mapCk fun k => { k with present := present }
      (∀ m, t.altRef = some m → exec (.referenceJoin present) s =
        .next (t.mapCk fun k => { k with source := .link m, timeStep := true })) ∧
      (t.altRef = none → exec (.referenceJoin present) s = .next t)) ∧
    (s.ck.source ≠ .holdover → ∃ t : State, exec .lossOfEverySource s = .next t ∧ t.ck.source = .holdover ∧
      t.ck.stopped = true ∧ t.ck.present = 0 ∧ t.ck.localUp = false) ∧
    (s.ck.source = .holdover → exec .lossOfEverySource s = .next s)) ∧
  (∀ (dA dL : Option (BitVec 16)) (s : State), s.rootRuns = true →
    let case_ := driftCase (10 * warnPpm s.clockPlan) (dA.map (·.toInt)) (dL.map (·.toInt))
    ∃ t : State, exec (.driftWindowEnd dA dL) s = .next t ∧
      t.ck.dAlt = dA.getD 0x8000 ∧ t.ck.dLocal = dL.getD 0x8000 ∧
      t.ck.noMajority = (case_ == 2 || case_ == 7) ∧ t.ck.localDev = (case_ == 4) ∧
      t.ck.agree = (if case_ = 1 ∨ case_ = 3 then s.ck.agree + 1 else 0) ∧
      (case_ = 1 ∨ case_ = 3 ∨ case_ = 4 → t.bw = s.bw ∧ t.ck.source = s.ck.source ∧ t.ck.bad = s.ck.bad) ∧
      (case_ = 1 ∨ case_ = 3 → t.ck.episode = (s.ck.episode && decide (s.ck.agree < 15))) ∧
      (case_ = 2 ∨ case_ = 5 ∨ case_ = 6 ∨ case_ = 7 → t.ck.episode = true ∧
        t.bw.attn.getLsbD 0xA = (s.bw.attn.getLsbD 0xA || !s.ck.episode)) ∧
      (∀ m, case_ = 6 → s.clusterMode = true → s.altRef = some m → t.ck.bad.getLsbD m.val = true ∧
        t.ck.source = s.ck.source) ∧
      (s.clusterMode = false → t.ck.source = s.ck.source ∧ t.ck.bad = s.ck.bad))

/-- R313, R314, R316: the throttle rises at once to the divider that the estimate asks for and falls only after four
evaluations in a row below the current entry's threshold by more than the hysteresis. Every core then runs on the largest of
its own, the throttle's and the supply episode's divider. A supply warning starts an episode with cause 0xC, in which the L2 is
cleaned and every write of a slice goes through to memory and makes no line dirty; the episode ends after the warning has been
low. -/
def Obligations.SupplyAndDividers : Prop :=
  (∀ (s : State) (line : Nat) (data : Line) (mask : BitVec 64) (w : Option CoreId), s.ck.supEpisode = true →
    s.scratchLine line = false → s.memOk →
    let t := s.sliceWrite line data mask w
    cellsLine t.mem line = mergeLine (cellsLine s.mem line) data mask ∧
    (∀ other, other ≠ line → cellsLine t.mem other = cellsLine s.mem other) ∧ t.l2.order = s.l2.order ∧
    (∀ x, s.l2.find line = some x → ∃ y, t.l2.find line = some y ∧ y.data = mergeLine x.data data mask ∧ y.dirty = x.dirty)) ∧
  ∀ s : State, s.rootRuns = true →
    (∀ pEst : BitVec 10,
      let p := s.sect secThrottle
      let ix := List.range (thEntries p)
      let want := (ix.filter fun i => thThresh p i ≤ pEst.toNat).foldl (fun d i => max d (thDiv p i)) 3
      let limit := match ix.find? fun i => thDiv p i == s.ck.throttle with | some i => thThresh p i | none => 2 ^ 10 + 256
      (s.ck.throttle ≤ want → exec (.throttleEvaluation pEst) s =
        .next (s.mapCk fun k => { k with pEst := pEst, throttle := want, below := 0 })) ∧
      (want < s.ck.throttle → pEst.toNat + thHyst p < limit → exec (.throttleEvaluation pEst) s =
        .next (s.mapCk fun k => if 3 ≤ k.below then { k with pEst := pEst, throttle := want, below := 0 }
          else { k with pEst := pEst, below := k.below + 1 })) ∧
      (want < s.ck.throttle → limit ≤ pEst.toNat + thHyst p → exec (.throttleEvaluation pEst) s =
        .next (s.mapCk fun k => { k with pEst := pEst, below := 0 }))) ∧
    (∃ t : State, exec .dividerChangeSequence s = .next t ∧ t = s.mapCk (fun _ => t.ck) ∧ ∀ n : CoreId,
      t.ck.divs[n] = BitVec.ofNat 3 (max (coreDiv s.clockPlan n.val)
        (max s.ck.throttle (if s.ck.supEpisode then 6 else 3)))) ∧
    (s.ck.supEpisode = true →
      exec .supWarnRise s = .next (({ s with supWarn := true } : State).mapCk fun k => { k with supCount := false }) ∧
      exec .supWarnFall s = .next (({ s with supWarn := false } : State).mapCk fun k => { k with supCount := true }) ∧
      exec .supplyEpisodeEnd s = .next (if s.ck.supCount then
        s.mapCk fun k => { k with supEpisode := false, supCount := false } else s)) ∧
    (s.ck.supEpisode = false →
      (∃ t : State, exec .supWarnRise s = .next t ∧ t.supWarn = true ∧ t.ck.supEpisode = true ∧
        t.ck.supCount = false ∧ t.bw.attn.getLsbD 0xC = true ∧
        (s.live = true → t.mem = s.cleanAll.mem ∧ t.l2 = s.cleanAll.l2)) ∧
      exec .supWarnFall s = .next { s with supWarn := false } ∧ exec .supplyEpisodeEnd s = .next s)

/-- R331, R333, R334, R336, R337: stop inputs and self-tests. A channel's filtered demand changes when its input has
differed from it for eight time edges; a demand enters the safe state. The discrepancy count runs while the channels
disagree, and at its limit 0x07 is a fault. A keepalive whose window has passed without a kick is 0x08 while an output is
released. The start-up test runs once after a reset; a failure is 0x09. A self-test period starts at a multiple of I while SAFETY
is enabled, and the known-answer tests of the enabled cores and of the quay engines fall due in it at their times; a failed
breakwater test is 0x04. A tile test that is due runs once no TMMA occupies the array, and a failure is 0x0F. -/
def Obligations.StopInputsAndSelfTests : Prop :=
  ∀ s : State, s.rootRuns = true →
    (∀ a b edges, 0 < edges →
      let fa : Bool := if a = s.bw.stopA ∨ s.bw.runA + edges < 8 then s.bw.stopA else a
      let fb : Bool := if (!b) = s.bw.stopB ∨ s.bw.runB + edges < 8 then s.bw.stopB else !b
      ∃ t : State, exec (.stopDemandChange a b edges) s = .next t ∧ t.bw.stopA = fa ∧ t.bw.stopB = fb ∧
        (fa = true ∨ fb = true → t.bw.safe = true) ∧
        (a ≠ b → t.bw.discCnt = 0 ∧ t.bw.stopFault = s.bw.stopFault ∧ (fa = false → fb = false → t.bw.safe = s.bw.safe)) ∧
        (a = b → s.discLimit < 2 ^ 21 → t.bw.discCnt.toNat = min s.discLimit (s.bw.discCnt.toNat + edges)) ∧
        (a = b → s.bw.discCnt.toNat < s.discLimit → s.discLimit ≤ s.bw.discCnt.toNat + edges → t.bw.stopFault = true)) ∧
    (s.bw.discCnt.toNat + 1 = s.discLimit → exec .stopDiscrepancyFault s = .next ((s.mapBw fun w =>
      { w with discCnt := BitVec.ofNat 21 s.discLimit, stopFault := true }).detect (plainFault 0x07 0))) ∧
    (s.bw.discCnt.toNat + 1 ≠ s.discLimit → exec .stopDiscrepancyFault s = .next s) ∧
    (let window := (planKeep (s.sect secSafety) + 1) * 10000
     (s.anyReleased = true → window ≤ (s.time - s.bw.keepAt).toNat → exec .keepaliveExpiry s =
        .next ((s.mapBw fun w => { w with keepExp := true }).detect (plainFault 0x08 0))) ∧
      (s.anyReleased = false ∨ (s.time - s.bw.keepAt).toNat < window → exec .keepaliveExpiry s = .next s)) ∧
    (s.bw.startupOk = false → s.bw.startupFailed = false →
      exec (.startupSelfTest true) s = .next (s.mapBw fun w => { w with startupOk := true }) ∧
      exec (.startupSelfTest false) s =
        .next ((s.mapBw fun w => { w with startupFailed := true }).detect (plainFault 0x09 0))) ∧
    (∀ pass, s.bw.startupOk = true ∨ s.bw.startupFailed = true → exec (.startupSelfTest pass) s = .next s) ∧
    (let interval := 25000 * planStest (s.sect secSafety)
     let begun := (s.mapBw fun w => { w with periodAt := some s.time }).testsDue
     (s.enabled .safety = true → s.time.toNat % interval = 0 → s.bw.periodAt ≠ some s.time →
        exec (.selfTestPeriodStart true) s = .next begun ∧
        exec (.selfTestPeriodStart false) s = .next (begun.detect (plainFault 0x04 0))) ∧
      (s.enabled .safety = false ∨ s.time.toNat % interval ≠ 0 → ∀ pass, exec (.selfTestPeriodStart pass) s = .next s) ∧
      (∀ start, s.enabled .safety = true → s.bw.periodAt = some start →
        let passed := (s.time - start).toNat
        (∀ c : CoreId, (s.testsDue.tile c).katDue = ((s.tile c).katDue || (s.enabled (.core c) &&
          decide (c.val * interval ≤ 16 * passed ∧ 16 * passed < c.val * interval + 16)))) ∧
        ∀ n : SliceId, (s.testsDue.engine n).test = ((s.engine n).test || (s.enabled .quay &&
          decide ((2 * n.val + 1) * interval ≤ 32 * passed ∧
            32 * passed < (2 * n.val + 1) * interval + 32))))) ∧
    ∀ c,
      ((s.tile c).katDue = false ∨ (s.tile c).arrayBusy = true → ∀ pass, exec (.tileKnownAnswerTest c pass) s = .next s) ∧
      (s.tileRuns c = true → (s.tile c).katDue = true → (s.tile c).arrayBusy = false →
        let ended := s.setTile c { s.tile c with katDue := false }
        exec (.tileKnownAnswerTest c true) s = .next ended ∧
        exec (.tileKnownAnswerTest c false) s = .next (ended.detect (plainFault 0x0F c.val)))

/-- R321 to R327, R330, R338, R340: faults. Arrivals queue in increasing source id with the time of their detection, and the oldest
fault is accepted (the first clauses speak of faults without a handling action of their own): its class is that of its source, one
class higher where its instance has an unacknowledged fault of that class, its pending bit and a free capture show it, its instance
counts it, and it waits for its acknowledgement unless it is merged or injected; a fatal one enters the safe state and stops new
work. A second fatal fault is a double one. One that finds the queue full is lost: LOSTQ counts it, its pending bit shows it, and no
capture does (log entry 101). An acknowledgement takes away the first such C- or U-class fault. R345, R346: the fault log. The oldest
entry is written at its slot of the ring, with its sequence number, then PUT at the base, when the ring has room and its addresses
are mapped; the event 0x007 is offered. Without room nothing happens. A write that fails sets WERR, turns logging off, keeps the
entry and records no fault. Cause 0x1 holds while the buffer holds an entry or PUT differs from TAKE. TAKE is read again from the
control slot. -/
def Obligations.FaultsAndLog : Prop :=
  ((∀ (s : State) arrivals, s.porst = true ∨ s.supHold = true → exec (.faultRecord arrivals) s = .next s) ∧
  (∀ s : State, s.porst = false → s.supHold = false →
    let plain (e : FaultEvent) : Prop := ∀ u : State, u.handlingAction e = u
    let now (e : FaultEvent) : QueuedFault := { ev := e, time := s.time, injected := false }
    (∀ e, s.bw.queue = [] → plain e → exec (.faultRecord [e]) s = .next ((s.sense e).acceptFault (now e))) ∧
    (∀ q rest, s.bw.queue = q :: rest → exec (.faultRecord []) s =
      .next ((s.mapBw fun w => { w with queue := rest }).acceptFault q)) ∧
    (∀ e q rest, s.bw.queue = q :: rest → rest.length < 255 → plain e → exec (.faultRecord [e]) s =
      .next (((s.sense e).mapBw fun w => { w with queue := rest ++ [now e] }).acceptFault q)) ∧
    (s.bw.queue = [] → exec (.faultRecord []) s = .next s) ∧
    (∀ e f, s.bw.queue = [] → e.src.toNat < f.src.toNat → plain e → plain f → exec (.faultRecord [f, e]) s =
      .next ((((s.sense e).sense f).mapBw fun w => { w with queue := [now f] }).acceptFault (now e)))) ∧
  (∀ (e : FaultEvent) (s : State), e.src = 0x06 ∨ e.src = 0x07 ∨ e.src = 0x08 ∨ e.src = 0x0A → s.handlingAction e = s) ∧
  (∀ (s : State) (q : QueuedFault), 256 ≤ s.bw.queue.length →
    let t := s.queueFault q
    t.bw.queue = s.bw.queue ∧ t.bw.lostq = satInc s.bw.lostq ∧ t.bw.caps = s.bw.caps ∧ t.bw.logBuf = s.bw.logBuf ∧
    (s.bw.unacked = [] → q.ev.src.toNat < 41 → (t.bw.pendOf (faultClass q.ev.src.toNat)).getLsbD q.ev.src.toNat = true)) ∧
  (∀ (s : State) (e : FaultEvent),
    let fatal := faultClass e.src.toNat == 2 || faultSafety e.src.toNat
    (s.sense e).bw.safe = (s.bw.safe || fatal) ∧ (fatal = true → (s.sense e).bw.release = 0)) ∧
  (∀ (s : State) (q : QueuedFault),
    let e := q.ev
    let key := faultKey e.src e.inst
    let same := s.bw.unacked.any fun u => faultKey u.src u.inst == key && u.cls.toNat == faultClass e.src.toNat
    let merged := e.covered && s.bw.unacked.any fun u => faultKey u.src u.inst == key
    let up := !merged && same && faultClass e.src.toNat < 2
    let cls := faultClass e.src.toNat + b2n up
    let t := s.acceptFault q
    let fatal := cls == 2 || (cls == 1 && faultSafety e.src.toNat)
    (e.src.toNat < 41 → (t.bw.pendOf cls).getLsbD e.src.toNat = true) ∧
    (∀ k, k < 3 → ∀ i, (k ≠ cls ∨ i ≠ e.src.toNat) → (t.bw.pendOf k).getLsbD i = (s.bw.pendOf k).getLsbD i) ∧
    t.bw.safe = (s.bw.safe || fatal) ∧ (fatal = true → t.bw.release = 0) ∧ t.bw.fStop = (s.bw.fStop || cls == 2) ∧
    t.bw.doubleF = (s.bw.doubleF || (cls == 2 && s.bw.unacked.any fun u => u.cls == 2)) ∧
    t.bw.unacked = (if (merged || (q.injected && decide (cls < 2))) = true then s.bw.unacked
      else s.bw.unacked ++ [{ src := e.src, inst := e.inst, cls := BitVec.ofNat 2 cls }]) ∧
    t.bw.counts = (if key.1 = 0 then s.bw.counts else bumpCount cls key.1 key.2 s.bw.counts) ∧
    (∀ k : Fin 3, k.val = cls → s.bw.caps[k].valid = false → t.bw.caps[k] =
      { valid := true, esc := up, count := 0, ev := shownEvent e, time := q.time }) ∧
    (∀ k : Fin 3, k.val = cls → s.bw.caps[k].valid = true → t.bw.caps[k] =
      { s.bw.caps[k] with count := satInc s.bw.caps[k].count }) ∧
    (∀ k : Fin 3, k.val ≠ cls → t.bw.caps[k] = s.bw.caps[k])) ∧
  (∀ (s : State) src inst before after u, s.bw.unacked = before ++ u :: after → u.src = src → u.inst = inst → u.cls ≠ 2 →
    (∀ w ∈ before, ¬ (w.src = src ∧ w.inst = inst ∧ w.cls ≠ 2)) →
    exec (.faultAcknowledge src inst) s = .next (s.mapBw fun b => { b with unacked := before ++ after })) ∧
  ∀ (s : State) src inst, (∀ w ∈ s.bw.unacked, ¬ (w.src = src ∧ w.inst = inst ∧ w.cls ≠ 2)) →
    exec (.faultAcknowledge src inst) s = .next s) ∧
  (∀ s : State,
    (∀ e rest, s.bw.logBuf = e :: rest → s.rootRuns = true → s.bw.logEn = true →
      let base := s.bw.ringBase.toNat * 4096
      let slots := 64 * 2 ^ s.bw.ringSize.toNat
      let a := base + 64 + 32 * (s.bw.logPut.toNat % slots)
      let used := (s.bw.logPut + 1 - s.bw.logTake).toNat
      let free := s.rangeHeld a 32 = false ∧ s.lineHeld (base / 64) = false
      let record : Blob := { len := 32, bits := logRecord e s.bw.logSeq }
      let written : State := (s.engineStore a record).engineStore base { len := 8, bits := (s.bw.logPut + 1).toNat }
      (slots < used → exec .logRecordWrite s = .next s) ∧
      (used ≤ slots → free → s.mappedAll a 32 = true → s.mapped base = true → ∃ t : State,
        exec .logRecordWrite s = .next t ∧ t.bw.logBuf = rest ∧ t.bw.logPut = s.bw.logPut + 1 ∧
        t.bw.logSeq = s.bw.logSeq + 1 ∧ t.bw.logEn = true ∧ t.bw.logErr = s.bw.logErr ∧ t.mem = written.mem ∧
        t.l2 = written.l2 ∧ t.pl.offers = (written.offerEvent 0x007 .latch).pl.offers) ∧
      (used ≤ slots → free → s.mappedAll a 32 = false ∨ s.mapped base = false → exec .logRecordWrite s =
        .next (s.mapBw fun w => { w with logErr := true, logEn := false })) ∧
      exec .logWriteError s = .next (s.mapBw fun w => { w with logErr := true, logEn := false })) ∧
    (s.bw.logBuf = [] → exec .logRecordWrite s = .next s ∧ exec .logWriteError s = .next s) ∧
    (∀ v, s.rootRuns = true → s.bw.logEn = true → s.engineWord (s.bw.ringBase.toNat * 4096 + 8) = some v →
      exec .logTakeReread s = .next (s.mapBw fun w => { w with logTake := BitVec.ofNat 64 v })) ∧
    (s.attnBits.getLsbD 1 = (!s.bw.logBuf.isEmpty || s.bw.logPut != s.bw.logTake)) ∧
    ∀ (e : LogEntry) (seq : BitVec 32), (logRecord e seq) % 2 ^ 64 = e.time.toNat ∧
      logRecord e seq / 2 ^ 64 % 2 ^ 8 = (if e.event then 2 else 1) ∧
      logRecord e seq / 2 ^ 72 % 2 ^ 8 = e.code.toNat ∧ logRecord e seq / 2 ^ 80 % 4 = e.cls.toNat ∧
      logRecord e seq / 2 ^ 82 % 2 = b2n e.esc ∧ logRecord e seq / 2 ^ 92 % 16 = e.ev.access.toNat ∧
      logRecord e seq / 2 ^ 96 % 2 ^ 16 = e.ev.master.toNat ∧ logRecord e seq / 2 ^ 128 % 2 ^ 48 = e.ev.addr.toNat ∧
      logRecord e seq / 2 ^ 192 = seq.toNat)

/-- Log entry 1 (the model's own step): with command c at the front of the queue, a step runs c on the block with the rest
of the queue. -/
def Obligations.StepRunsFront : Prop :=
  ∀ (c : Instr) (rest : List Instr) (s : State), step { s with pending := c :: rest } = exec c { s with pending := rest }

/-- Log entries 1 and 89, the model's choices: with an empty queue one TIME tick passes. Before the root is locked nothing changes.
After it, while no instruction waits to be tried again, no halt is due and no flit waits in a receive buffer, TIME advances by one,
the cycle counter of an enabled core with its clock advances by 96 divided by its divider, every VALID and credit is low again, the
keepalive window begins anew while no output is released, the known-answer tests that are due are marked so, and nothing but these
and the clock unit changes. -/
def Obligations.IdleTick : Prop :=
  ∀ s : State, s.pending = [] →
    (s.rootRuns = false → step s = .next s) ∧
    (s.rootRuns = true → (∀ c, (s.core c).stalled = none ∧ (s.core c).haltDue = none) → (∀ n, (s.link n).rx = []) →
      ∃ t : State, step s = .next t ∧ t.time = s.time + 1 ∧
      t = { s with time := t.time, ck := t.ck, cores := t.cores, pins := t.pins, bw := { s.bw with keepAt := t.bw.keepAt }
                   qy := { s.qy with eng := t.qy.eng } } ∧
      (s.ck.reselect = false → t.ck = s.ck) ∧ t.ck.reselect = false ∧
      t.bw.keepAt = (if s.anyReleased then s.bw.keepAt else t.time) ∧
      t.pins.hpRsp = false ∧ t.pins.credit = false ∧ t.pins.tpCmd = false ∧ t.pins.cpReq = 0 ∧ t.pins.lpTx = 0 ∧
      (∀ n : SliceId, t.pins.mp[n] = { s.pins.mp[n] with rdValid := false, wrValid := false } ∧
        t.engine n = { s.engine n with test := (t.engine n).test }) ∧
      (s.bw.periodAt = none → t.qy = s.qy ∧ ∀ c, t.tile c = s.tile c) ∧
      ∀ c : CoreId, t.core c =
          { s.core c with cyc := (t.core c).cyc, tile := { s.tile c with katDue := (t.tile c).katDue } } ∧
        (t.core c).cyc = if s.enabled (.core c) = true ∧ s.ck.gates.getLsbD c.val = true ∧ s.ck.gates.getLsbD 16 = true ∧
          s.ck.stopped = false ∧ s.ck.divs[c] ≠ 0 then (s.core c).cyc + BitVec.ofNat 64 (96 / s.ck.divs[c].toNat)
          else (s.core c).cyc)

/-- R71: g0 reads as zero and a write to it is discarded; p0 reads as 1; an instruction that names p0 as a predicate
destination raises illegal opcode. After PORST_N or WRST_N every g and p register of every berth reads zero, except p0. -/
def Obligations.RegistersAfterReset : Prop :=
  (∀ (y : Berth) r v, y.reg 0 = 0 ∧ y.setReg 0 v = y ∧ y.pred 0 = true ∧ (r ≠ 0 → (y.setReg r v).reg r = v)) ∧
  (∀ (x : Issue) (pa pb : PReg) (rd ra rb : Reg) (imm : BitVec 10) (size : Size) (c : Cond) (s : State) (b : BerthId),
    s.runner x.core = some b → (s.core x.core).stalled = none → (s.berth x.core b).midway = false →
    ∀ i ∈ [Instr.cmp x 0 ra rb c, .cmpi x 0 ra imm c, .pand x 0 pa pb, .por x 0 pa pb,
      .pxor x 0 pa pb, .pandn x 0 pa pb, .pnot x 0 pa, .scmp x rd ra rb size 0, .sscan x rd ra rb size 0],
      exec i s = .next ((s.issued x b).raise x.core b 1 0)) ∧
  ∀ (s t : State), exec .porstNAssert s = .next t ∨ (s.porst = false ∧ s.supHold = false ∧ exec .wrstNAssert s = .next t) →
    ∀ c b, (∀ r, (t.berth c b).reg r = 0) ∧ ∀ n : PReg, (t.berth c b).pred n = (n == 0)

/-- Memory and scratch are in canonical form after reset. -/
def Obligations.ResetSound : Prop :=
  State.reset.memOk

/-- Every step keeps memory and scratch in canonical form: addresses strictly rising, and no entry that equals what an
unlisted address reads as. -/
def Obligations.StepKeepsSound : Prop :=
  ∀ s t : State, s.memOk → step s = .next t → t.memOk

/-- R68, R69, R72, R134, Tables 1 and 2 of "Gregon: registers and instructions": decoding the word of an instruction of a
core, with the word after it as its body where it is a REP, gives the instruction back, every operand at every value. -/
def Obligations.DecodeEncode : Prop :=
  ∀ (i : Instr) (x : Issue) (w next : BitVec 32), i.issue = some x → encodeGregon i = some w →
    decodeGregon x.core w (i.bodyWord next) = some i

/-- R68, R69, Tables 1 to 3: words written out by hand from the spec's tables, with the spec's own worked example first. -/
def Obligations.DecodeWords : Prop :=
  ∀ (c : CoreId) (next : BitVec 32),
    let always : Issue := { core := c, sense := false, pred := 0 }
    decodeGregon c 0x20464FF8 next = some (.addi { core := c, sense := false, pred := 2 } 3 4 0xFF8) ∧
    decodeGregon c 0x00061100 next = some (.add always 3 1 2) ∧
    decodeGregon c 0x90061101 next = some (.sub { core := c, sense := true, pred := 1 } 3 1 2) ∧
    decodeGregon c 0x06000001 next = some (.br always 1) ∧
    decodeGregon c 0x0AB04400 next = some (.tmma always 3 0 1 0 true) ∧
    decodeGregon c 0x03C00000 next = none ∧
    decodeGregon c 0x80000000 next = some (.add { core := c, sense := true, pred := 0 } 0 0 0)
end

