-- ==== Sys2Proof/Laws/Encoding.lean ====
section
/-! SUPPORT. The fields of an encoded instruction word, as the decoder reads them: each is the field of its low 22 bits,
and the sense, predicate and major are those encoded. -/

namespace Sys2Proof.Laws

theorem gregonWord_toNat (x : Issue) (major low : Nat) (hm : major < 64) (hl : low < 2 ^ 22) :
    (gregonWord x major low).toNat = (if x.sense then 2 ^ 31 else 0) + 2 ^ 28 * x.pred.val + 2 ^ 22 * major + low := by
  unfold gregonWord
  have := x.pred.isLt
  rw [BitVec.toNat_ofNat, Nat.mod_eq_of_lt]
  split <;> omega

theorem gregonWord_field (x : Issue) (major low hi lo : Nat) (hm : major < 64) (hl : low < 2 ^ 22) :
    wordField (gregonWord x major low) hi lo =
      (((if x.sense then 2 ^ 31 else 0) + 2 ^ 28 * x.pred.val + 2 ^ 22 * major + low) / 2 ^ lo) % 2 ^ (hi + 1 - lo) := by
  rw [wordField, gregonWord_toNat x major low hm hl, Nat.shiftRight_eq_div_pow]

theorem gregonWord_sense (x : Issue) (major low : Nat) (hm : major < 64) (hl : low < 2 ^ 22) :
    (wordField (gregonWord x major low) 31 31 == 1) = x.sense := by
  rw [gregonWord_field x major low _ _ hm hl]
  have := x.pred.isLt
  cases hs : x.sense <;> simp <;> omega

theorem gregonWord_pred (x : Issue) (major low : Nat) (hm : major < 64) (hl : low < 2 ^ 22) :
    pregField (gregonWord x major low) 28 = x.pred := by
  unfold pregField
  apply Fin.ext
  rw [gregonWord_toNat x major low hm hl, Nat.shiftRight_eq_div_pow]
  have := x.pred.isLt
  simp only [Fin.ofNat]
  split <;> omega

theorem gregonWord_major (x : Issue) (major low : Nat) (hm : major < 64) (hl : low < 2 ^ 22) :
    wordField (gregonWord x major low) 27 22 = major := by
  rw [gregonWord_field x major low _ _ hm hl]
  have := x.pred.isLt
  split <;> omega

theorem gregonWord_split (x : Issue) (major low : Nat) :
    (if x.sense then 2 ^ 31 else 0) + 2 ^ 28 * x.pred.val + 2 ^ 22 * major + low =
      2 ^ 22 * ((if x.sense then 2 ^ 9 else 0) + 2 ^ 6 * x.pred.val + major) + low := by
  split <;> omega

/-- A field below bit 22 is the field of the low part. -/
theorem gregonWord_low (x : Issue) (major low hi lo : Nat) (hm : major < 64) (hl : low < 2 ^ 22) (hh : hi < 22)
    (hlo : lo ≤ hi) : wordField (gregonWord x major low) hi lo = low / 2 ^ lo % 2 ^ (hi + 1 - lo) := by
  rw [gregonWord_field x major low _ _ hm hl, gregonWord_split]
  generalize ((if x.sense then 2 ^ 9 else 0) + 2 ^ 6 * x.pred.val + major) = k
  have e : 2 ^ 22 = 2 ^ lo * (2 ^ (hi + 1 - lo) * 2 ^ (21 - hi)) := by
    rw [← Nat.pow_add, ← Nat.pow_add]; congr 1; omega
  rw [e, Nat.mul_assoc, Nat.mul_add_div (Nat.two_pow_pos lo), Nat.mul_assoc, Nat.mul_add_mod]

/-- The low `n` bits of the word are those of the low part. -/
theorem gregonWord_mod (x : Issue) (major low n : Nat) (hm : major < 64) (hl : low < 2 ^ 22) (hn : n ≤ 22) :
    (gregonWord x major low).toNat % 2 ^ n = low % 2 ^ n := by
  rw [gregonWord_toNat x major low hm hl, gregonWord_split]
  generalize ((if x.sense then 2 ^ 9 else 0) + 2 ^ 6 * x.pred.val + major) = k
  have e : 2 ^ 22 = 2 ^ n * 2 ^ (22 - n) := by rw [← Nat.pow_add]; congr 1; omega
  rw [e, Nat.mul_assoc, Nat.mul_add_mod]

/-- Bits from `lo` of the word, `k` of them, below bit 22. -/
theorem gregonWord_shift (x : Issue) (major low lo k : Nat) (hm : major < 64) (hl : low < 2 ^ 22) (hk : lo + k ≤ 22)
    (h0 : 0 < k) : (gregonWord x major low).toNat >>> lo % 2 ^ k = low / 2 ^ lo % 2 ^ k := by
  have h := gregonWord_low x major low (lo + k - 1) lo hm hl (by omega) (by omega)
  rw [wordField, show lo + k - 1 + 1 - lo = k by omega] at h
  exact h

theorem gregonWord_reg (x : Issue) (major low lo : Nat) (r : Reg) (hm : major < 64) (hl : low < 2 ^ 22) (hk : lo + 5 ≤ 22)
    (h : low / 2 ^ lo % 32 = r.val) : regField (gregonWord x major low) lo = r := by
  apply Fin.ext
  exact (gregonWord_shift x major low lo 5 hm hl hk (by omega)).trans h

theorem gregonWord_fin8 (x : Issue) (major low lo : Nat) (r : Fin 8) (hm : major < 64) (hl : low < 2 ^ 22) (hk : lo + 3 ≤ 22)
    (h : low / 2 ^ lo % 8 = r.val) : Fin.ofNat 8 ((gregonWord x major low).toNat >>> lo) = r := by
  apply Fin.ext
  exact (gregonWord_shift x major low lo 3 hm hl hk (by omega)).trans h

theorem gregonWord_fin4 (x : Issue) (major low lo : Nat) (r : Fin 4) (hm : major < 64) (hl : low < 2 ^ 22) (hk : lo + 2 ≤ 22)
    (h : low / 2 ^ lo % 4 = r.val) : Fin.ofNat 4 ((gregonWord x major low).toNat >>> lo) = r := by
  apply Fin.ext
  exact (gregonWord_shift x major low lo 2 hm hl hk (by omega)).trans h

theorem gregonWord_imm {n : Nat} (x : Issue) (major low : Nat) (v : BitVec n) (hm : major < 64) (hl : low < 2 ^ 22)
    (hn : n ≤ 22) (h : low % 2 ^ n = v.toNat) : BitVec.ofNat n (gregonWord x major low).toNat = v := by
  apply BitVec.eq_of_toNat_eq
  rw [BitVec.toNat_ofNat, gregonWord_mod x major low n hm hl hn, h]

theorem ofNat_eq {n : Nat} (v : BitVec n) (k : Nat) (h : k = v.toNat) : BitVec.ofNat n k = v := by
  subst h; simp

theorem sizeField_code (z : Size) (k : Nat) (h : k % 4 = sizeCode z) : sizeField k = z := by
  unfold sizeField; rw [h]; cases z <;> rfl

theorem sizeCode_lt (z : Size) : sizeCode z < 4 := by cases z <;> decide

theorem condField_code (k : Cond) : condField (condCode k) = some k := by cases k <;> rfl

theorem condCode_lt (k : Cond) : condCode k < 8 := by cases k <;> decide

end Sys2Proof.Laws
end

