-- ==== Sys2Proof/Laws/State.lean ====
section
/-! SUPPORT. What each update of a part of the state leaves alone and writes, one lemma for a field: true by unfolding, so
that no later proof unfolds a record update. -/

namespace Sys2Proof.Machine

-- setCore

@[simp] theorem State.setCore_porst (s : State) (c : CoreId) (x : Core) : (s.setCore c x).porst = s.porst := rfl
@[simp] theorem State.setCore_supHold (s : State) (c : CoreId) (x : Core) : (s.setCore c x).supHold = s.supHold := rfl
@[simp] theorem State.setCore_rootLocked (s : State) (c : CoreId) (x : Core) : (s.setCore c x).rootLocked = s.rootLocked := rfl
@[simp] theorem State.setCore_testMode (s : State) (c : CoreId) (x : Core) : (s.setCore c x).testMode = s.testMode := rfl
@[simp] theorem State.setCore_cpPresent (s : State) (c : CoreId) (x : Core) : (s.setCore c x).cpPresent = s.cpPresent := rfl
@[simp] theorem State.setCore_supWarn (s : State) (c : CoreId) (x : Core) : (s.setCore c x).supWarn = s.supWarn := rfl
@[simp] theorem State.setCore_time (s : State) (c : CoreId) (x : Core) : (s.setCore c x).time = s.time := rfl
@[simp] theorem State.setCore_si (s : State) (c : CoreId) (x : Core) : (s.setCore c x).si = s.si := rfl
@[simp] theorem State.setCore_host (s : State) (c : CoreId) (x : Core) : (s.setCore c x).host = s.host := rfl
@[simp] theorem State.setCore_dbg (s : State) (c : CoreId) (x : Core) : (s.setCore c x).dbg = s.dbg := rfl
@[simp] theorem State.setCore_ck (s : State) (c : CoreId) (x : Core) : (s.setCore c x).ck = s.ck := rfl
@[simp] theorem State.setCore_bw (s : State) (c : CoreId) (x : Core) : (s.setCore c x).bw = s.bw := rfl
@[simp] theorem State.setCore_pl (s : State) (c : CoreId) (x : Core) : (s.setCore c x).pl = s.pl := rfl
@[simp] theorem State.setCore_tp (s : State) (c : CoreId) (x : Core) : (s.setCore c x).tp = s.tp := rfl
@[simp] theorem State.setCore_cores (s : State) (c : CoreId) (x : Core) : (s.setCore c x).cores = s.cores.set c x := rfl
@[simp] theorem State.setCore_l2 (s : State) (c : CoreId) (x : Core) : (s.setCore c x).l2 = s.l2 := rfl
@[simp] theorem State.setCore_mem (s : State) (c : CoreId) (x : Core) : (s.setCore c x).mem = s.mem := rfl
@[simp] theorem State.setCore_ports (s : State) (c : CoreId) (x : Core) : (s.setCore c x).ports = s.ports := rfl
@[simp] theorem State.setCore_memBad (s : State) (c : CoreId) (x : Core) : (s.setCore c x).memBad = s.memBad := rfl
@[simp] theorem State.setCore_pins (s : State) (c : CoreId) (x : Core) : (s.setCore c x).pins = s.pins := rfl
@[simp] theorem State.setCore_qy (s : State) (c : CoreId) (x : Core) : (s.setCore c x).qy = s.qy := rfl
@[simp] theorem State.setCore_dk (s : State) (c : CoreId) (x : Core) : (s.setCore c x).dk = s.dk := rfl
@[simp] theorem State.setCore_hw (s : State) (c : CoreId) (x : Core) : (s.setCore c x).hw = s.hw := rfl
@[simp] theorem State.setCore_lk (s : State) (c : CoreId) (x : Core) : (s.setCore c x).lk = s.lk := rfl
@[simp] theorem State.setCore_pending (s : State) (c : CoreId) (x : Core) : (s.setCore c x).pending = s.pending := rfl

-- stall

@[simp] theorem State.stall_porst (s : State) (c : CoreId) (i : Instr) : (s.stall c i).porst = s.porst := rfl
@[simp] theorem State.stall_supHold (s : State) (c : CoreId) (i : Instr) : (s.stall c i).supHold = s.supHold := rfl
@[simp] theorem State.stall_rootLocked (s : State) (c : CoreId) (i : Instr) : (s.stall c i).rootLocked = s.rootLocked := rfl
@[simp] theorem State.stall_testMode (s : State) (c : CoreId) (i : Instr) : (s.stall c i).testMode = s.testMode := rfl
@[simp] theorem State.stall_cpPresent (s : State) (c : CoreId) (i : Instr) : (s.stall c i).cpPresent = s.cpPresent := rfl
@[simp] theorem State.stall_supWarn (s : State) (c : CoreId) (i : Instr) : (s.stall c i).supWarn = s.supWarn := rfl
@[simp] theorem State.stall_time (s : State) (c : CoreId) (i : Instr) : (s.stall c i).time = s.time := rfl
@[simp] theorem State.stall_si (s : State) (c : CoreId) (i : Instr) : (s.stall c i).si = s.si := rfl
@[simp] theorem State.stall_host (s : State) (c : CoreId) (i : Instr) : (s.stall c i).host = s.host := rfl
@[simp] theorem State.stall_dbg (s : State) (c : CoreId) (i : Instr) : (s.stall c i).dbg = s.dbg := rfl
@[simp] theorem State.stall_ck (s : State) (c : CoreId) (i : Instr) : (s.stall c i).ck = s.ck := rfl
@[simp] theorem State.stall_bw (s : State) (c : CoreId) (i : Instr) : (s.stall c i).bw = s.bw := rfl
@[simp] theorem State.stall_pl (s : State) (c : CoreId) (i : Instr) : (s.stall c i).pl = s.pl := rfl
@[simp] theorem State.stall_tp (s : State) (c : CoreId) (i : Instr) : (s.stall c i).tp = s.tp := rfl
@[simp] theorem State.stall_cores (s : State) (c : CoreId) (i : Instr) : (s.stall c i).cores = s.cores.set c ((s.core c).stall i) := rfl
@[simp] theorem State.stall_l2 (s : State) (c : CoreId) (i : Instr) : (s.stall c i).l2 = s.l2 := rfl
@[simp] theorem State.stall_mem (s : State) (c : CoreId) (i : Instr) : (s.stall c i).mem = s.mem := rfl
@[simp] theorem State.stall_ports (s : State) (c : CoreId) (i : Instr) : (s.stall c i).ports = s.ports := rfl
@[simp] theorem State.stall_memBad (s : State) (c : CoreId) (i : Instr) : (s.stall c i).memBad = s.memBad := rfl
@[simp] theorem State.stall_pins (s : State) (c : CoreId) (i : Instr) : (s.stall c i).pins = s.pins := rfl
@[simp] theorem State.stall_qy (s : State) (c : CoreId) (i : Instr) : (s.stall c i).qy = s.qy := rfl
@[simp] theorem State.stall_dk (s : State) (c : CoreId) (i : Instr) : (s.stall c i).dk = s.dk := rfl
@[simp] theorem State.stall_hw (s : State) (c : CoreId) (i : Instr) : (s.stall c i).hw = s.hw := rfl
@[simp] theorem State.stall_lk (s : State) (c : CoreId) (i : Instr) : (s.stall c i).lk = s.lk := rfl
@[simp] theorem State.stall_pending (s : State) (c : CoreId) (i : Instr) : (s.stall c i).pending = s.pending := rfl

-- setBerth

@[simp] theorem State.setBerth_porst (s : State) (c : CoreId) (b : BerthId) (x : Berth) : (s.setBerth c b x).porst = s.porst := rfl
@[simp] theorem State.setBerth_supHold (s : State) (c : CoreId) (b : BerthId) (x : Berth) : (s.setBerth c b x).supHold = s.supHold := rfl
@[simp] theorem State.setBerth_rootLocked (s : State) (c : CoreId) (b : BerthId) (x : Berth) : (s.setBerth c b x).rootLocked = s.rootLocked := rfl
@[simp] theorem State.setBerth_testMode (s : State) (c : CoreId) (b : BerthId) (x : Berth) : (s.setBerth c b x).testMode = s.testMode := rfl
@[simp] theorem State.setBerth_cpPresent (s : State) (c : CoreId) (b : BerthId) (x : Berth) : (s.setBerth c b x).cpPresent = s.cpPresent := rfl
@[simp] theorem State.setBerth_supWarn (s : State) (c : CoreId) (b : BerthId) (x : Berth) : (s.setBerth c b x).supWarn = s.supWarn := rfl
@[simp] theorem State.setBerth_time (s : State) (c : CoreId) (b : BerthId) (x : Berth) : (s.setBerth c b x).time = s.time := rfl
@[simp] theorem State.setBerth_si (s : State) (c : CoreId) (b : BerthId) (x : Berth) : (s.setBerth c b x).si = s.si := rfl
@[simp] theorem State.setBerth_host (s : State) (c : CoreId) (b : BerthId) (x : Berth) : (s.setBerth c b x).host = s.host := rfl
@[simp] theorem State.setBerth_dbg (s : State) (c : CoreId) (b : BerthId) (x : Berth) : (s.setBerth c b x).dbg = s.dbg := rfl
@[simp] theorem State.setBerth_ck (s : State) (c : CoreId) (b : BerthId) (x : Berth) : (s.setBerth c b x).ck = s.ck := rfl
@[simp] theorem State.setBerth_bw (s : State) (c : CoreId) (b : BerthId) (x : Berth) : (s.setBerth c b x).bw = s.bw := rfl
@[simp] theorem State.setBerth_pl (s : State) (c : CoreId) (b : BerthId) (x : Berth) : (s.setBerth c b x).pl = s.pl := rfl
@[simp] theorem State.setBerth_tp (s : State) (c : CoreId) (b : BerthId) (x : Berth) : (s.setBerth c b x).tp = s.tp := rfl
@[simp] theorem State.setBerth_l2 (s : State) (c : CoreId) (b : BerthId) (x : Berth) : (s.setBerth c b x).l2 = s.l2 := rfl
@[simp] theorem State.setBerth_mem (s : State) (c : CoreId) (b : BerthId) (x : Berth) : (s.setBerth c b x).mem = s.mem := rfl
@[simp] theorem State.setBerth_ports (s : State) (c : CoreId) (b : BerthId) (x : Berth) : (s.setBerth c b x).ports = s.ports := rfl
@[simp] theorem State.setBerth_memBad (s : State) (c : CoreId) (b : BerthId) (x : Berth) : (s.setBerth c b x).memBad = s.memBad := rfl
@[simp] theorem State.setBerth_pins (s : State) (c : CoreId) (b : BerthId) (x : Berth) : (s.setBerth c b x).pins = s.pins := rfl
@[simp] theorem State.setBerth_qy (s : State) (c : CoreId) (b : BerthId) (x : Berth) : (s.setBerth c b x).qy = s.qy := rfl
@[simp] theorem State.setBerth_dk (s : State) (c : CoreId) (b : BerthId) (x : Berth) : (s.setBerth c b x).dk = s.dk := rfl
@[simp] theorem State.setBerth_hw (s : State) (c : CoreId) (b : BerthId) (x : Berth) : (s.setBerth c b x).hw = s.hw := rfl
@[simp] theorem State.setBerth_lk (s : State) (c : CoreId) (b : BerthId) (x : Berth) : (s.setBerth c b x).lk = s.lk := rfl
@[simp] theorem State.setBerth_pending (s : State) (c : CoreId) (b : BerthId) (x : Berth) : (s.setBerth c b x).pending = s.pending := rfl

-- mapBerth

@[simp] theorem State.mapBerth_porst (s : State) (c : CoreId) (b : BerthId) (f : Berth → Berth) : (s.mapBerth c b f).porst = s.porst := rfl
@[simp] theorem State.mapBerth_supHold (s : State) (c : CoreId) (b : BerthId) (f : Berth → Berth) : (s.mapBerth c b f).supHold = s.supHold := rfl
@[simp] theorem State.mapBerth_rootLocked (s : State) (c : CoreId) (b : BerthId) (f : Berth → Berth) : (s.mapBerth c b f).rootLocked = s.rootLocked := rfl
@[simp] theorem State.mapBerth_testMode (s : State) (c : CoreId) (b : BerthId) (f : Berth → Berth) : (s.mapBerth c b f).testMode = s.testMode := rfl
@[simp] theorem State.mapBerth_cpPresent (s : State) (c : CoreId) (b : BerthId) (f : Berth → Berth) : (s.mapBerth c b f).cpPresent = s.cpPresent := rfl
@[simp] theorem State.mapBerth_supWarn (s : State) (c : CoreId) (b : BerthId) (f : Berth → Berth) : (s.mapBerth c b f).supWarn = s.supWarn := rfl
@[simp] theorem State.mapBerth_time (s : State) (c : CoreId) (b : BerthId) (f : Berth → Berth) : (s.mapBerth c b f).time = s.time := rfl
@[simp] theorem State.mapBerth_si (s : State) (c : CoreId) (b : BerthId) (f : Berth → Berth) : (s.mapBerth c b f).si = s.si := rfl
@[simp] theorem State.mapBerth_host (s : State) (c : CoreId) (b : BerthId) (f : Berth → Berth) : (s.mapBerth c b f).host = s.host := rfl
@[simp] theorem State.mapBerth_dbg (s : State) (c : CoreId) (b : BerthId) (f : Berth → Berth) : (s.mapBerth c b f).dbg = s.dbg := rfl
@[simp] theorem State.mapBerth_ck (s : State) (c : CoreId) (b : BerthId) (f : Berth → Berth) : (s.mapBerth c b f).ck = s.ck := rfl
@[simp] theorem State.mapBerth_bw (s : State) (c : CoreId) (b : BerthId) (f : Berth → Berth) : (s.mapBerth c b f).bw = s.bw := rfl
@[simp] theorem State.mapBerth_pl (s : State) (c : CoreId) (b : BerthId) (f : Berth → Berth) : (s.mapBerth c b f).pl = s.pl := rfl
@[simp] theorem State.mapBerth_tp (s : State) (c : CoreId) (b : BerthId) (f : Berth → Berth) : (s.mapBerth c b f).tp = s.tp := rfl
@[simp] theorem State.mapBerth_l2 (s : State) (c : CoreId) (b : BerthId) (f : Berth → Berth) : (s.mapBerth c b f).l2 = s.l2 := rfl
@[simp] theorem State.mapBerth_mem (s : State) (c : CoreId) (b : BerthId) (f : Berth → Berth) : (s.mapBerth c b f).mem = s.mem := rfl
@[simp] theorem State.mapBerth_ports (s : State) (c : CoreId) (b : BerthId) (f : Berth → Berth) : (s.mapBerth c b f).ports = s.ports := rfl
@[simp] theorem State.mapBerth_memBad (s : State) (c : CoreId) (b : BerthId) (f : Berth → Berth) : (s.mapBerth c b f).memBad = s.memBad := rfl
@[simp] theorem State.mapBerth_pins (s : State) (c : CoreId) (b : BerthId) (f : Berth → Berth) : (s.mapBerth c b f).pins = s.pins := rfl
@[simp] theorem State.mapBerth_qy (s : State) (c : CoreId) (b : BerthId) (f : Berth → Berth) : (s.mapBerth c b f).qy = s.qy := rfl
@[simp] theorem State.mapBerth_dk (s : State) (c : CoreId) (b : BerthId) (f : Berth → Berth) : (s.mapBerth c b f).dk = s.dk := rfl
@[simp] theorem State.mapBerth_hw (s : State) (c : CoreId) (b : BerthId) (f : Berth → Berth) : (s.mapBerth c b f).hw = s.hw := rfl
@[simp] theorem State.mapBerth_lk (s : State) (c : CoreId) (b : BerthId) (f : Berth → Berth) : (s.mapBerth c b f).lk = s.lk := rfl
@[simp] theorem State.mapBerth_pending (s : State) (c : CoreId) (b : BerthId) (f : Berth → Berth) : (s.mapBerth c b f).pending = s.pending := rfl

-- setTile

@[simp] theorem State.setTile_porst (s : State) (c : CoreId) (t : TileUnit) : (s.setTile c t).porst = s.porst := rfl
@[simp] theorem State.setTile_supHold (s : State) (c : CoreId) (t : TileUnit) : (s.setTile c t).supHold = s.supHold := rfl
@[simp] theorem State.setTile_rootLocked (s : State) (c : CoreId) (t : TileUnit) : (s.setTile c t).rootLocked = s.rootLocked := rfl
@[simp] theorem State.setTile_testMode (s : State) (c : CoreId) (t : TileUnit) : (s.setTile c t).testMode = s.testMode := rfl
@[simp] theorem State.setTile_cpPresent (s : State) (c : CoreId) (t : TileUnit) : (s.setTile c t).cpPresent = s.cpPresent := rfl
@[simp] theorem State.setTile_supWarn (s : State) (c : CoreId) (t : TileUnit) : (s.setTile c t).supWarn = s.supWarn := rfl
@[simp] theorem State.setTile_time (s : State) (c : CoreId) (t : TileUnit) : (s.setTile c t).time = s.time := rfl
@[simp] theorem State.setTile_si (s : State) (c : CoreId) (t : TileUnit) : (s.setTile c t).si = s.si := rfl
@[simp] theorem State.setTile_host (s : State) (c : CoreId) (t : TileUnit) : (s.setTile c t).host = s.host := rfl
@[simp] theorem State.setTile_dbg (s : State) (c : CoreId) (t : TileUnit) : (s.setTile c t).dbg = s.dbg := rfl
@[simp] theorem State.setTile_ck (s : State) (c : CoreId) (t : TileUnit) : (s.setTile c t).ck = s.ck := rfl
@[simp] theorem State.setTile_bw (s : State) (c : CoreId) (t : TileUnit) : (s.setTile c t).bw = s.bw := rfl
@[simp] theorem State.setTile_pl (s : State) (c : CoreId) (t : TileUnit) : (s.setTile c t).pl = s.pl := rfl
@[simp] theorem State.setTile_tp (s : State) (c : CoreId) (t : TileUnit) : (s.setTile c t).tp = s.tp := rfl
@[simp] theorem State.setTile_l2 (s : State) (c : CoreId) (t : TileUnit) : (s.setTile c t).l2 = s.l2 := rfl
@[simp] theorem State.setTile_mem (s : State) (c : CoreId) (t : TileUnit) : (s.setTile c t).mem = s.mem := rfl
@[simp] theorem State.setTile_ports (s : State) (c : CoreId) (t : TileUnit) : (s.setTile c t).ports = s.ports := rfl
@[simp] theorem State.setTile_memBad (s : State) (c : CoreId) (t : TileUnit) : (s.setTile c t).memBad = s.memBad := rfl
@[simp] theorem State.setTile_pins (s : State) (c : CoreId) (t : TileUnit) : (s.setTile c t).pins = s.pins := rfl
@[simp] theorem State.setTile_qy (s : State) (c : CoreId) (t : TileUnit) : (s.setTile c t).qy = s.qy := rfl
@[simp] theorem State.setTile_dk (s : State) (c : CoreId) (t : TileUnit) : (s.setTile c t).dk = s.dk := rfl
@[simp] theorem State.setTile_hw (s : State) (c : CoreId) (t : TileUnit) : (s.setTile c t).hw = s.hw := rfl
@[simp] theorem State.setTile_lk (s : State) (c : CoreId) (t : TileUnit) : (s.setTile c t).lk = s.lk := rfl
@[simp] theorem State.setTile_pending (s : State) (c : CoreId) (t : TileUnit) : (s.setTile c t).pending = s.pending := rfl

-- setTst

@[simp] theorem State.setTst_porst (s : State) (c : CoreId) (x : TileState) : (s.setTst c x).porst = s.porst := rfl
@[simp] theorem State.setTst_supHold (s : State) (c : CoreId) (x : TileState) : (s.setTst c x).supHold = s.supHold := rfl
@[simp] theorem State.setTst_rootLocked (s : State) (c : CoreId) (x : TileState) : (s.setTst c x).rootLocked = s.rootLocked := rfl
@[simp] theorem State.setTst_testMode (s : State) (c : CoreId) (x : TileState) : (s.setTst c x).testMode = s.testMode := rfl
@[simp] theorem State.setTst_cpPresent (s : State) (c : CoreId) (x : TileState) : (s.setTst c x).cpPresent = s.cpPresent := rfl
@[simp] theorem State.setTst_supWarn (s : State) (c : CoreId) (x : TileState) : (s.setTst c x).supWarn = s.supWarn := rfl
@[simp] theorem State.setTst_time (s : State) (c : CoreId) (x : TileState) : (s.setTst c x).time = s.time := rfl
@[simp] theorem State.setTst_si (s : State) (c : CoreId) (x : TileState) : (s.setTst c x).si = s.si := rfl
@[simp] theorem State.setTst_host (s : State) (c : CoreId) (x : TileState) : (s.setTst c x).host = s.host := rfl
@[simp] theorem State.setTst_dbg (s : State) (c : CoreId) (x : TileState) : (s.setTst c x).dbg = s.dbg := rfl
@[simp] theorem State.setTst_ck (s : State) (c : CoreId) (x : TileState) : (s.setTst c x).ck = s.ck := rfl
@[simp] theorem State.setTst_bw (s : State) (c : CoreId) (x : TileState) : (s.setTst c x).bw = s.bw := rfl
@[simp] theorem State.setTst_pl (s : State) (c : CoreId) (x : TileState) : (s.setTst c x).pl = s.pl := rfl
@[simp] theorem State.setTst_tp (s : State) (c : CoreId) (x : TileState) : (s.setTst c x).tp = s.tp := rfl
@[simp] theorem State.setTst_l2 (s : State) (c : CoreId) (x : TileState) : (s.setTst c x).l2 = s.l2 := rfl
@[simp] theorem State.setTst_mem (s : State) (c : CoreId) (x : TileState) : (s.setTst c x).mem = s.mem := rfl
@[simp] theorem State.setTst_ports (s : State) (c : CoreId) (x : TileState) : (s.setTst c x).ports = s.ports := rfl
@[simp] theorem State.setTst_memBad (s : State) (c : CoreId) (x : TileState) : (s.setTst c x).memBad = s.memBad := rfl
@[simp] theorem State.setTst_pins (s : State) (c : CoreId) (x : TileState) : (s.setTst c x).pins = s.pins := rfl
@[simp] theorem State.setTst_qy (s : State) (c : CoreId) (x : TileState) : (s.setTst c x).qy = s.qy := rfl
@[simp] theorem State.setTst_dk (s : State) (c : CoreId) (x : TileState) : (s.setTst c x).dk = s.dk := rfl
@[simp] theorem State.setTst_hw (s : State) (c : CoreId) (x : TileState) : (s.setTst c x).hw = s.hw := rfl
@[simp] theorem State.setTst_lk (s : State) (c : CoreId) (x : TileState) : (s.setTst c x).lk = s.lk := rfl
@[simp] theorem State.setTst_pending (s : State) (c : CoreId) (x : TileState) : (s.setTst c x).pending = s.pending := rfl

-- setEntry

@[simp] theorem State.setEntry_porst (s : State) (c : CoreId) (i : Nat) (e : TileEntry) : (s.setEntry c i e).porst = s.porst := rfl
@[simp] theorem State.setEntry_supHold (s : State) (c : CoreId) (i : Nat) (e : TileEntry) : (s.setEntry c i e).supHold = s.supHold := rfl
@[simp] theorem State.setEntry_rootLocked (s : State) (c : CoreId) (i : Nat) (e : TileEntry) : (s.setEntry c i e).rootLocked = s.rootLocked := rfl
@[simp] theorem State.setEntry_testMode (s : State) (c : CoreId) (i : Nat) (e : TileEntry) : (s.setEntry c i e).testMode = s.testMode := rfl
@[simp] theorem State.setEntry_cpPresent (s : State) (c : CoreId) (i : Nat) (e : TileEntry) : (s.setEntry c i e).cpPresent = s.cpPresent := rfl
@[simp] theorem State.setEntry_supWarn (s : State) (c : CoreId) (i : Nat) (e : TileEntry) : (s.setEntry c i e).supWarn = s.supWarn := rfl
@[simp] theorem State.setEntry_time (s : State) (c : CoreId) (i : Nat) (e : TileEntry) : (s.setEntry c i e).time = s.time := rfl
@[simp] theorem State.setEntry_si (s : State) (c : CoreId) (i : Nat) (e : TileEntry) : (s.setEntry c i e).si = s.si := rfl
@[simp] theorem State.setEntry_host (s : State) (c : CoreId) (i : Nat) (e : TileEntry) : (s.setEntry c i e).host = s.host := rfl
@[simp] theorem State.setEntry_dbg (s : State) (c : CoreId) (i : Nat) (e : TileEntry) : (s.setEntry c i e).dbg = s.dbg := rfl
@[simp] theorem State.setEntry_ck (s : State) (c : CoreId) (i : Nat) (e : TileEntry) : (s.setEntry c i e).ck = s.ck := rfl
@[simp] theorem State.setEntry_bw (s : State) (c : CoreId) (i : Nat) (e : TileEntry) : (s.setEntry c i e).bw = s.bw := rfl
@[simp] theorem State.setEntry_pl (s : State) (c : CoreId) (i : Nat) (e : TileEntry) : (s.setEntry c i e).pl = s.pl := rfl
@[simp] theorem State.setEntry_tp (s : State) (c : CoreId) (i : Nat) (e : TileEntry) : (s.setEntry c i e).tp = s.tp := rfl
@[simp] theorem State.setEntry_l2 (s : State) (c : CoreId) (i : Nat) (e : TileEntry) : (s.setEntry c i e).l2 = s.l2 := rfl
@[simp] theorem State.setEntry_mem (s : State) (c : CoreId) (i : Nat) (e : TileEntry) : (s.setEntry c i e).mem = s.mem := rfl
@[simp] theorem State.setEntry_ports (s : State) (c : CoreId) (i : Nat) (e : TileEntry) : (s.setEntry c i e).ports = s.ports := rfl
@[simp] theorem State.setEntry_memBad (s : State) (c : CoreId) (i : Nat) (e : TileEntry) : (s.setEntry c i e).memBad = s.memBad := rfl
@[simp] theorem State.setEntry_pins (s : State) (c : CoreId) (i : Nat) (e : TileEntry) : (s.setEntry c i e).pins = s.pins := rfl
@[simp] theorem State.setEntry_qy (s : State) (c : CoreId) (i : Nat) (e : TileEntry) : (s.setEntry c i e).qy = s.qy := rfl
@[simp] theorem State.setEntry_dk (s : State) (c : CoreId) (i : Nat) (e : TileEntry) : (s.setEntry c i e).dk = s.dk := rfl
@[simp] theorem State.setEntry_hw (s : State) (c : CoreId) (i : Nat) (e : TileEntry) : (s.setEntry c i e).hw = s.hw := rfl
@[simp] theorem State.setEntry_lk (s : State) (c : CoreId) (i : Nat) (e : TileEntry) : (s.setEntry c i e).lk = s.lk := rfl
@[simp] theorem State.setEntry_pending (s : State) (c : CoreId) (i : Nat) (e : TileEntry) : (s.setEntry c i e).pending = s.pending := rfl

-- listOverflow

@[simp] theorem State.listOverflow_porst (s : State) (c : CoreId) (r : OvRecord) : (s.listOverflow c r).porst = s.porst := rfl
@[simp] theorem State.listOverflow_supHold (s : State) (c : CoreId) (r : OvRecord) : (s.listOverflow c r).supHold = s.supHold := rfl
@[simp] theorem State.listOverflow_rootLocked (s : State) (c : CoreId) (r : OvRecord) : (s.listOverflow c r).rootLocked = s.rootLocked := rfl
@[simp] theorem State.listOverflow_testMode (s : State) (c : CoreId) (r : OvRecord) : (s.listOverflow c r).testMode = s.testMode := rfl
@[simp] theorem State.listOverflow_cpPresent (s : State) (c : CoreId) (r : OvRecord) : (s.listOverflow c r).cpPresent = s.cpPresent := rfl
@[simp] theorem State.listOverflow_supWarn (s : State) (c : CoreId) (r : OvRecord) : (s.listOverflow c r).supWarn = s.supWarn := rfl
@[simp] theorem State.listOverflow_time (s : State) (c : CoreId) (r : OvRecord) : (s.listOverflow c r).time = s.time := rfl
@[simp] theorem State.listOverflow_si (s : State) (c : CoreId) (r : OvRecord) : (s.listOverflow c r).si = s.si := rfl
@[simp] theorem State.listOverflow_host (s : State) (c : CoreId) (r : OvRecord) : (s.listOverflow c r).host = s.host := rfl
@[simp] theorem State.listOverflow_dbg (s : State) (c : CoreId) (r : OvRecord) : (s.listOverflow c r).dbg = s.dbg := rfl
@[simp] theorem State.listOverflow_ck (s : State) (c : CoreId) (r : OvRecord) : (s.listOverflow c r).ck = s.ck := rfl
@[simp] theorem State.listOverflow_bw (s : State) (c : CoreId) (r : OvRecord) : (s.listOverflow c r).bw = s.bw := rfl
@[simp] theorem State.listOverflow_pl (s : State) (c : CoreId) (r : OvRecord) : (s.listOverflow c r).pl = s.pl := rfl
@[simp] theorem State.listOverflow_tp (s : State) (c : CoreId) (r : OvRecord) : (s.listOverflow c r).tp = s.tp := rfl
@[simp] theorem State.listOverflow_l2 (s : State) (c : CoreId) (r : OvRecord) : (s.listOverflow c r).l2 = s.l2 := rfl
@[simp] theorem State.listOverflow_mem (s : State) (c : CoreId) (r : OvRecord) : (s.listOverflow c r).mem = s.mem := rfl
@[simp] theorem State.listOverflow_ports (s : State) (c : CoreId) (r : OvRecord) : (s.listOverflow c r).ports = s.ports := rfl
@[simp] theorem State.listOverflow_memBad (s : State) (c : CoreId) (r : OvRecord) : (s.listOverflow c r).memBad = s.memBad := rfl
@[simp] theorem State.listOverflow_pins (s : State) (c : CoreId) (r : OvRecord) : (s.listOverflow c r).pins = s.pins := rfl
@[simp] theorem State.listOverflow_qy (s : State) (c : CoreId) (r : OvRecord) : (s.listOverflow c r).qy = s.qy := rfl
@[simp] theorem State.listOverflow_dk (s : State) (c : CoreId) (r : OvRecord) : (s.listOverflow c r).dk = s.dk := rfl
@[simp] theorem State.listOverflow_hw (s : State) (c : CoreId) (r : OvRecord) : (s.listOverflow c r).hw = s.hw := rfl
@[simp] theorem State.listOverflow_lk (s : State) (c : CoreId) (r : OvRecord) : (s.listOverflow c r).lk = s.lk := rfl
@[simp] theorem State.listOverflow_pending (s : State) (c : CoreId) (r : OvRecord) : (s.listOverflow c r).pending = s.pending := rfl

-- setEngine

@[simp] theorem State.setEngine_porst (s : State) (n : SliceId) (e : Engine) : (s.setEngine n e).porst = s.porst := rfl
@[simp] theorem State.setEngine_supHold (s : State) (n : SliceId) (e : Engine) : (s.setEngine n e).supHold = s.supHold := rfl
@[simp] theorem State.setEngine_rootLocked (s : State) (n : SliceId) (e : Engine) : (s.setEngine n e).rootLocked = s.rootLocked := rfl
@[simp] theorem State.setEngine_testMode (s : State) (n : SliceId) (e : Engine) : (s.setEngine n e).testMode = s.testMode := rfl
@[simp] theorem State.setEngine_cpPresent (s : State) (n : SliceId) (e : Engine) : (s.setEngine n e).cpPresent = s.cpPresent := rfl
@[simp] theorem State.setEngine_supWarn (s : State) (n : SliceId) (e : Engine) : (s.setEngine n e).supWarn = s.supWarn := rfl
@[simp] theorem State.setEngine_time (s : State) (n : SliceId) (e : Engine) : (s.setEngine n e).time = s.time := rfl
@[simp] theorem State.setEngine_si (s : State) (n : SliceId) (e : Engine) : (s.setEngine n e).si = s.si := rfl
@[simp] theorem State.setEngine_host (s : State) (n : SliceId) (e : Engine) : (s.setEngine n e).host = s.host := rfl
@[simp] theorem State.setEngine_dbg (s : State) (n : SliceId) (e : Engine) : (s.setEngine n e).dbg = s.dbg := rfl
@[simp] theorem State.setEngine_ck (s : State) (n : SliceId) (e : Engine) : (s.setEngine n e).ck = s.ck := rfl
@[simp] theorem State.setEngine_bw (s : State) (n : SliceId) (e : Engine) : (s.setEngine n e).bw = s.bw := rfl
@[simp] theorem State.setEngine_pl (s : State) (n : SliceId) (e : Engine) : (s.setEngine n e).pl = s.pl := rfl
@[simp] theorem State.setEngine_tp (s : State) (n : SliceId) (e : Engine) : (s.setEngine n e).tp = s.tp := rfl
@[simp] theorem State.setEngine_cores (s : State) (n : SliceId) (e : Engine) : (s.setEngine n e).cores = s.cores := rfl
@[simp] theorem State.setEngine_l2 (s : State) (n : SliceId) (e : Engine) : (s.setEngine n e).l2 = s.l2 := rfl
@[simp] theorem State.setEngine_mem (s : State) (n : SliceId) (e : Engine) : (s.setEngine n e).mem = s.mem := rfl
@[simp] theorem State.setEngine_ports (s : State) (n : SliceId) (e : Engine) : (s.setEngine n e).ports = s.ports := rfl
@[simp] theorem State.setEngine_memBad (s : State) (n : SliceId) (e : Engine) : (s.setEngine n e).memBad = s.memBad := rfl
@[simp] theorem State.setEngine_pins (s : State) (n : SliceId) (e : Engine) : (s.setEngine n e).pins = s.pins := rfl
@[simp] theorem State.setEngine_dk (s : State) (n : SliceId) (e : Engine) : (s.setEngine n e).dk = s.dk := rfl
@[simp] theorem State.setEngine_hw (s : State) (n : SliceId) (e : Engine) : (s.setEngine n e).hw = s.hw := rfl
@[simp] theorem State.setEngine_lk (s : State) (n : SliceId) (e : Engine) : (s.setEngine n e).lk = s.lk := rfl
@[simp] theorem State.setEngine_pending (s : State) (n : SliceId) (e : Engine) : (s.setEngine n e).pending = s.pending := rfl

-- setRing

@[simp] theorem State.setRing_porst (s : State) (r : Nat) (o : RingOwner) : (s.setRing r o).porst = s.porst := rfl
@[simp] theorem State.setRing_supHold (s : State) (r : Nat) (o : RingOwner) : (s.setRing r o).supHold = s.supHold := rfl
@[simp] theorem State.setRing_rootLocked (s : State) (r : Nat) (o : RingOwner) : (s.setRing r o).rootLocked = s.rootLocked := rfl
@[simp] theorem State.setRing_testMode (s : State) (r : Nat) (o : RingOwner) : (s.setRing r o).testMode = s.testMode := rfl
@[simp] theorem State.setRing_cpPresent (s : State) (r : Nat) (o : RingOwner) : (s.setRing r o).cpPresent = s.cpPresent := rfl
@[simp] theorem State.setRing_supWarn (s : State) (r : Nat) (o : RingOwner) : (s.setRing r o).supWarn = s.supWarn := rfl
@[simp] theorem State.setRing_time (s : State) (r : Nat) (o : RingOwner) : (s.setRing r o).time = s.time := rfl
@[simp] theorem State.setRing_si (s : State) (r : Nat) (o : RingOwner) : (s.setRing r o).si = s.si := rfl
@[simp] theorem State.setRing_host (s : State) (r : Nat) (o : RingOwner) : (s.setRing r o).host = s.host := rfl
@[simp] theorem State.setRing_dbg (s : State) (r : Nat) (o : RingOwner) : (s.setRing r o).dbg = s.dbg := rfl
@[simp] theorem State.setRing_ck (s : State) (r : Nat) (o : RingOwner) : (s.setRing r o).ck = s.ck := rfl
@[simp] theorem State.setRing_bw (s : State) (r : Nat) (o : RingOwner) : (s.setRing r o).bw = s.bw := rfl
@[simp] theorem State.setRing_pl (s : State) (r : Nat) (o : RingOwner) : (s.setRing r o).pl = s.pl := rfl
@[simp] theorem State.setRing_tp (s : State) (r : Nat) (o : RingOwner) : (s.setRing r o).tp = s.tp := rfl
@[simp] theorem State.setRing_cores (s : State) (r : Nat) (o : RingOwner) : (s.setRing r o).cores = s.cores := rfl
@[simp] theorem State.setRing_l2 (s : State) (r : Nat) (o : RingOwner) : (s.setRing r o).l2 = s.l2 := rfl
@[simp] theorem State.setRing_mem (s : State) (r : Nat) (o : RingOwner) : (s.setRing r o).mem = s.mem := rfl
@[simp] theorem State.setRing_ports (s : State) (r : Nat) (o : RingOwner) : (s.setRing r o).ports = s.ports := rfl
@[simp] theorem State.setRing_memBad (s : State) (r : Nat) (o : RingOwner) : (s.setRing r o).memBad = s.memBad := rfl
@[simp] theorem State.setRing_pins (s : State) (r : Nat) (o : RingOwner) : (s.setRing r o).pins = s.pins := rfl
@[simp] theorem State.setRing_dk (s : State) (r : Nat) (o : RingOwner) : (s.setRing r o).dk = s.dk := rfl
@[simp] theorem State.setRing_hw (s : State) (r : Nat) (o : RingOwner) : (s.setRing r o).hw = s.hw := rfl
@[simp] theorem State.setRing_lk (s : State) (r : Nat) (o : RingOwner) : (s.setRing r o).lk = s.lk := rfl
@[simp] theorem State.setRing_pending (s : State) (r : Nat) (o : RingOwner) : (s.setRing r o).pending = s.pending := rfl

-- setLaunch

@[simp] theorem State.setLaunch_porst (s : State) (l : Launch) : (s.setLaunch l).porst = s.porst := rfl
@[simp] theorem State.setLaunch_supHold (s : State) (l : Launch) : (s.setLaunch l).supHold = s.supHold := rfl
@[simp] theorem State.setLaunch_rootLocked (s : State) (l : Launch) : (s.setLaunch l).rootLocked = s.rootLocked := rfl
@[simp] theorem State.setLaunch_testMode (s : State) (l : Launch) : (s.setLaunch l).testMode = s.testMode := rfl
@[simp] theorem State.setLaunch_cpPresent (s : State) (l : Launch) : (s.setLaunch l).cpPresent = s.cpPresent := rfl
@[simp] theorem State.setLaunch_supWarn (s : State) (l : Launch) : (s.setLaunch l).supWarn = s.supWarn := rfl
@[simp] theorem State.setLaunch_time (s : State) (l : Launch) : (s.setLaunch l).time = s.time := rfl
@[simp] theorem State.setLaunch_si (s : State) (l : Launch) : (s.setLaunch l).si = s.si := rfl
@[simp] theorem State.setLaunch_host (s : State) (l : Launch) : (s.setLaunch l).host = s.host := rfl
@[simp] theorem State.setLaunch_dbg (s : State) (l : Launch) : (s.setLaunch l).dbg = s.dbg := rfl
@[simp] theorem State.setLaunch_ck (s : State) (l : Launch) : (s.setLaunch l).ck = s.ck := rfl
@[simp] theorem State.setLaunch_bw (s : State) (l : Launch) : (s.setLaunch l).bw = s.bw := rfl
@[simp] theorem State.setLaunch_pl (s : State) (l : Launch) : (s.setLaunch l).pl = s.pl := rfl
@[simp] theorem State.setLaunch_tp (s : State) (l : Launch) : (s.setLaunch l).tp = s.tp := rfl
@[simp] theorem State.setLaunch_cores (s : State) (l : Launch) : (s.setLaunch l).cores = s.cores := rfl
@[simp] theorem State.setLaunch_l2 (s : State) (l : Launch) : (s.setLaunch l).l2 = s.l2 := rfl
@[simp] theorem State.setLaunch_mem (s : State) (l : Launch) : (s.setLaunch l).mem = s.mem := rfl
@[simp] theorem State.setLaunch_ports (s : State) (l : Launch) : (s.setLaunch l).ports = s.ports := rfl
@[simp] theorem State.setLaunch_memBad (s : State) (l : Launch) : (s.setLaunch l).memBad = s.memBad := rfl
@[simp] theorem State.setLaunch_pins (s : State) (l : Launch) : (s.setLaunch l).pins = s.pins := rfl
@[simp] theorem State.setLaunch_dk (s : State) (l : Launch) : (s.setLaunch l).dk = s.dk := rfl
@[simp] theorem State.setLaunch_hw (s : State) (l : Launch) : (s.setLaunch l).hw = s.hw := rfl
@[simp] theorem State.setLaunch_lk (s : State) (l : Launch) : (s.setLaunch l).lk = s.lk := rfl
@[simp] theorem State.setLaunch_pending (s : State) (l : Launch) : (s.setLaunch l).pending = s.pending := rfl

-- setLink

@[simp] theorem State.setLink_porst (s : State) (n : LinkId) (k : Link) : (s.setLink n k).porst = s.porst := rfl
@[simp] theorem State.setLink_supHold (s : State) (n : LinkId) (k : Link) : (s.setLink n k).supHold = s.supHold := rfl
@[simp] theorem State.setLink_rootLocked (s : State) (n : LinkId) (k : Link) : (s.setLink n k).rootLocked = s.rootLocked := rfl
@[simp] theorem State.setLink_testMode (s : State) (n : LinkId) (k : Link) : (s.setLink n k).testMode = s.testMode := rfl
@[simp] theorem State.setLink_cpPresent (s : State) (n : LinkId) (k : Link) : (s.setLink n k).cpPresent = s.cpPresent := rfl
@[simp] theorem State.setLink_supWarn (s : State) (n : LinkId) (k : Link) : (s.setLink n k).supWarn = s.supWarn := rfl
@[simp] theorem State.setLink_time (s : State) (n : LinkId) (k : Link) : (s.setLink n k).time = s.time := rfl
@[simp] theorem State.setLink_si (s : State) (n : LinkId) (k : Link) : (s.setLink n k).si = s.si := rfl
@[simp] theorem State.setLink_host (s : State) (n : LinkId) (k : Link) : (s.setLink n k).host = s.host := rfl
@[simp] theorem State.setLink_dbg (s : State) (n : LinkId) (k : Link) : (s.setLink n k).dbg = s.dbg := rfl
@[simp] theorem State.setLink_ck (s : State) (n : LinkId) (k : Link) : (s.setLink n k).ck = s.ck := rfl
@[simp] theorem State.setLink_bw (s : State) (n : LinkId) (k : Link) : (s.setLink n k).bw = s.bw := rfl
@[simp] theorem State.setLink_pl (s : State) (n : LinkId) (k : Link) : (s.setLink n k).pl = s.pl := rfl
@[simp] theorem State.setLink_tp (s : State) (n : LinkId) (k : Link) : (s.setLink n k).tp = s.tp := rfl
@[simp] theorem State.setLink_cores (s : State) (n : LinkId) (k : Link) : (s.setLink n k).cores = s.cores := rfl
@[simp] theorem State.setLink_l2 (s : State) (n : LinkId) (k : Link) : (s.setLink n k).l2 = s.l2 := rfl
@[simp] theorem State.setLink_mem (s : State) (n : LinkId) (k : Link) : (s.setLink n k).mem = s.mem := rfl
@[simp] theorem State.setLink_ports (s : State) (n : LinkId) (k : Link) : (s.setLink n k).ports = s.ports := rfl
@[simp] theorem State.setLink_memBad (s : State) (n : LinkId) (k : Link) : (s.setLink n k).memBad = s.memBad := rfl
@[simp] theorem State.setLink_pins (s : State) (n : LinkId) (k : Link) : (s.setLink n k).pins = s.pins := rfl
@[simp] theorem State.setLink_qy (s : State) (n : LinkId) (k : Link) : (s.setLink n k).qy = s.qy := rfl
@[simp] theorem State.setLink_dk (s : State) (n : LinkId) (k : Link) : (s.setLink n k).dk = s.dk := rfl
@[simp] theorem State.setLink_hw (s : State) (n : LinkId) (k : Link) : (s.setLink n k).hw = s.hw := rfl
@[simp] theorem State.setLink_lk (s : State) (n : LinkId) (k : Link) : (s.setLink n k).lk = s.lk.set n k := rfl
@[simp] theorem State.setLink_pending (s : State) (n : LinkId) (k : Link) : (s.setLink n k).pending = s.pending := rfl

-- oweCredit

@[simp] theorem State.oweCredit_porst (s : State) (n : LinkId) (ix : Nat) : (s.oweCredit n ix).porst = s.porst := rfl
@[simp] theorem State.oweCredit_supHold (s : State) (n : LinkId) (ix : Nat) : (s.oweCredit n ix).supHold = s.supHold := rfl
@[simp] theorem State.oweCredit_rootLocked (s : State) (n : LinkId) (ix : Nat) : (s.oweCredit n ix).rootLocked = s.rootLocked := rfl
@[simp] theorem State.oweCredit_testMode (s : State) (n : LinkId) (ix : Nat) : (s.oweCredit n ix).testMode = s.testMode := rfl
@[simp] theorem State.oweCredit_cpPresent (s : State) (n : LinkId) (ix : Nat) : (s.oweCredit n ix).cpPresent = s.cpPresent := rfl
@[simp] theorem State.oweCredit_supWarn (s : State) (n : LinkId) (ix : Nat) : (s.oweCredit n ix).supWarn = s.supWarn := rfl
@[simp] theorem State.oweCredit_time (s : State) (n : LinkId) (ix : Nat) : (s.oweCredit n ix).time = s.time := rfl
@[simp] theorem State.oweCredit_si (s : State) (n : LinkId) (ix : Nat) : (s.oweCredit n ix).si = s.si := rfl
@[simp] theorem State.oweCredit_host (s : State) (n : LinkId) (ix : Nat) : (s.oweCredit n ix).host = s.host := rfl
@[simp] theorem State.oweCredit_dbg (s : State) (n : LinkId) (ix : Nat) : (s.oweCredit n ix).dbg = s.dbg := rfl
@[simp] theorem State.oweCredit_ck (s : State) (n : LinkId) (ix : Nat) : (s.oweCredit n ix).ck = s.ck := rfl
@[simp] theorem State.oweCredit_bw (s : State) (n : LinkId) (ix : Nat) : (s.oweCredit n ix).bw = s.bw := rfl
@[simp] theorem State.oweCredit_pl (s : State) (n : LinkId) (ix : Nat) : (s.oweCredit n ix).pl = s.pl := rfl
@[simp] theorem State.oweCredit_tp (s : State) (n : LinkId) (ix : Nat) : (s.oweCredit n ix).tp = s.tp := rfl
@[simp] theorem State.oweCredit_cores (s : State) (n : LinkId) (ix : Nat) : (s.oweCredit n ix).cores = s.cores := rfl
@[simp] theorem State.oweCredit_l2 (s : State) (n : LinkId) (ix : Nat) : (s.oweCredit n ix).l2 = s.l2 := rfl
@[simp] theorem State.oweCredit_mem (s : State) (n : LinkId) (ix : Nat) : (s.oweCredit n ix).mem = s.mem := rfl
@[simp] theorem State.oweCredit_ports (s : State) (n : LinkId) (ix : Nat) : (s.oweCredit n ix).ports = s.ports := rfl
@[simp] theorem State.oweCredit_memBad (s : State) (n : LinkId) (ix : Nat) : (s.oweCredit n ix).memBad = s.memBad := rfl
@[simp] theorem State.oweCredit_pins (s : State) (n : LinkId) (ix : Nat) : (s.oweCredit n ix).pins = s.pins := rfl
@[simp] theorem State.oweCredit_qy (s : State) (n : LinkId) (ix : Nat) : (s.oweCredit n ix).qy = s.qy := rfl
@[simp] theorem State.oweCredit_dk (s : State) (n : LinkId) (ix : Nat) : (s.oweCredit n ix).dk = s.dk := rfl
@[simp] theorem State.oweCredit_hw (s : State) (n : LinkId) (ix : Nat) : (s.oweCredit n ix).hw = s.hw := rfl
@[simp] theorem State.oweCredit_pending (s : State) (n : LinkId) (ix : Nat) : (s.oweCredit n ix).pending = s.pending := rfl

-- mapSi

@[simp] theorem State.mapSi_porst (s : State) (f : Si → Si) : (s.mapSi f).porst = s.porst := rfl
@[simp] theorem State.mapSi_supHold (s : State) (f : Si → Si) : (s.mapSi f).supHold = s.supHold := rfl
@[simp] theorem State.mapSi_rootLocked (s : State) (f : Si → Si) : (s.mapSi f).rootLocked = s.rootLocked := rfl
@[simp] theorem State.mapSi_testMode (s : State) (f : Si → Si) : (s.mapSi f).testMode = s.testMode := rfl
@[simp] theorem State.mapSi_cpPresent (s : State) (f : Si → Si) : (s.mapSi f).cpPresent = s.cpPresent := rfl
@[simp] theorem State.mapSi_supWarn (s : State) (f : Si → Si) : (s.mapSi f).supWarn = s.supWarn := rfl
@[simp] theorem State.mapSi_time (s : State) (f : Si → Si) : (s.mapSi f).time = s.time := rfl
@[simp] theorem State.mapSi_si (s : State) (f : Si → Si) : (s.mapSi f).si = f s.si := rfl
@[simp] theorem State.mapSi_host (s : State) (f : Si → Si) : (s.mapSi f).host = s.host := rfl
@[simp] theorem State.mapSi_dbg (s : State) (f : Si → Si) : (s.mapSi f).dbg = s.dbg := rfl
@[simp] theorem State.mapSi_ck (s : State) (f : Si → Si) : (s.mapSi f).ck = s.ck := rfl
@[simp] theorem State.mapSi_bw (s : State) (f : Si → Si) : (s.mapSi f).bw = s.bw := rfl
@[simp] theorem State.mapSi_pl (s : State) (f : Si → Si) : (s.mapSi f).pl = s.pl := rfl
@[simp] theorem State.mapSi_tp (s : State) (f : Si → Si) : (s.mapSi f).tp = s.tp := rfl
@[simp] theorem State.mapSi_cores (s : State) (f : Si → Si) : (s.mapSi f).cores = s.cores := rfl
@[simp] theorem State.mapSi_l2 (s : State) (f : Si → Si) : (s.mapSi f).l2 = s.l2 := rfl
@[simp] theorem State.mapSi_mem (s : State) (f : Si → Si) : (s.mapSi f).mem = s.mem := rfl
@[simp] theorem State.mapSi_ports (s : State) (f : Si → Si) : (s.mapSi f).ports = s.ports := rfl
@[simp] theorem State.mapSi_memBad (s : State) (f : Si → Si) : (s.mapSi f).memBad = s.memBad := rfl
@[simp] theorem State.mapSi_pins (s : State) (f : Si → Si) : (s.mapSi f).pins = s.pins := rfl
@[simp] theorem State.mapSi_qy (s : State) (f : Si → Si) : (s.mapSi f).qy = s.qy := rfl
@[simp] theorem State.mapSi_dk (s : State) (f : Si → Si) : (s.mapSi f).dk = s.dk := rfl
@[simp] theorem State.mapSi_hw (s : State) (f : Si → Si) : (s.mapSi f).hw = s.hw := rfl
@[simp] theorem State.mapSi_lk (s : State) (f : Si → Si) : (s.mapSi f).lk = s.lk := rfl
@[simp] theorem State.mapSi_pending (s : State) (f : Si → Si) : (s.mapSi f).pending = s.pending := rfl

-- mapBw

@[simp] theorem State.mapBw_porst (s : State) (f : Breakwater → Breakwater) : (s.mapBw f).porst = s.porst := rfl
@[simp] theorem State.mapBw_supHold (s : State) (f : Breakwater → Breakwater) : (s.mapBw f).supHold = s.supHold := rfl
@[simp] theorem State.mapBw_rootLocked (s : State) (f : Breakwater → Breakwater) : (s.mapBw f).rootLocked = s.rootLocked := rfl
@[simp] theorem State.mapBw_testMode (s : State) (f : Breakwater → Breakwater) : (s.mapBw f).testMode = s.testMode := rfl
@[simp] theorem State.mapBw_cpPresent (s : State) (f : Breakwater → Breakwater) : (s.mapBw f).cpPresent = s.cpPresent := rfl
@[simp] theorem State.mapBw_supWarn (s : State) (f : Breakwater → Breakwater) : (s.mapBw f).supWarn = s.supWarn := rfl
@[simp] theorem State.mapBw_time (s : State) (f : Breakwater → Breakwater) : (s.mapBw f).time = s.time := rfl
@[simp] theorem State.mapBw_si (s : State) (f : Breakwater → Breakwater) : (s.mapBw f).si = s.si := rfl
@[simp] theorem State.mapBw_host (s : State) (f : Breakwater → Breakwater) : (s.mapBw f).host = s.host := rfl
@[simp] theorem State.mapBw_dbg (s : State) (f : Breakwater → Breakwater) : (s.mapBw f).dbg = s.dbg := rfl
@[simp] theorem State.mapBw_ck (s : State) (f : Breakwater → Breakwater) : (s.mapBw f).ck = s.ck := rfl
@[simp] theorem State.mapBw_bw (s : State) (f : Breakwater → Breakwater) : (s.mapBw f).bw = f s.bw := rfl
@[simp] theorem State.mapBw_pl (s : State) (f : Breakwater → Breakwater) : (s.mapBw f).pl = s.pl := rfl
@[simp] theorem State.mapBw_tp (s : State) (f : Breakwater → Breakwater) : (s.mapBw f).tp = s.tp := rfl
@[simp] theorem State.mapBw_cores (s : State) (f : Breakwater → Breakwater) : (s.mapBw f).cores = s.cores := rfl
@[simp] theorem State.mapBw_l2 (s : State) (f : Breakwater → Breakwater) : (s.mapBw f).l2 = s.l2 := rfl
@[simp] theorem State.mapBw_mem (s : State) (f : Breakwater → Breakwater) : (s.mapBw f).mem = s.mem := rfl
@[simp] theorem State.mapBw_ports (s : State) (f : Breakwater → Breakwater) : (s.mapBw f).ports = s.ports := rfl
@[simp] theorem State.mapBw_memBad (s : State) (f : Breakwater → Breakwater) : (s.mapBw f).memBad = s.memBad := rfl
@[simp] theorem State.mapBw_pins (s : State) (f : Breakwater → Breakwater) : (s.mapBw f).pins = s.pins := rfl
@[simp] theorem State.mapBw_qy (s : State) (f : Breakwater → Breakwater) : (s.mapBw f).qy = s.qy := rfl
@[simp] theorem State.mapBw_dk (s : State) (f : Breakwater → Breakwater) : (s.mapBw f).dk = s.dk := rfl
@[simp] theorem State.mapBw_hw (s : State) (f : Breakwater → Breakwater) : (s.mapBw f).hw = s.hw := rfl
@[simp] theorem State.mapBw_lk (s : State) (f : Breakwater → Breakwater) : (s.mapBw f).lk = s.lk := rfl
@[simp] theorem State.mapBw_pending (s : State) (f : Breakwater → Breakwater) : (s.mapBw f).pending = s.pending := rfl

-- mapCk

@[simp] theorem State.mapCk_porst (s : State) (f : Clocks → Clocks) : (s.mapCk f).porst = s.porst := rfl
@[simp] theorem State.mapCk_supHold (s : State) (f : Clocks → Clocks) : (s.mapCk f).supHold = s.supHold := rfl
@[simp] theorem State.mapCk_rootLocked (s : State) (f : Clocks → Clocks) : (s.mapCk f).rootLocked = s.rootLocked := rfl
@[simp] theorem State.mapCk_testMode (s : State) (f : Clocks → Clocks) : (s.mapCk f).testMode = s.testMode := rfl
@[simp] theorem State.mapCk_cpPresent (s : State) (f : Clocks → Clocks) : (s.mapCk f).cpPresent = s.cpPresent := rfl
@[simp] theorem State.mapCk_supWarn (s : State) (f : Clocks → Clocks) : (s.mapCk f).supWarn = s.supWarn := rfl
@[simp] theorem State.mapCk_time (s : State) (f : Clocks → Clocks) : (s.mapCk f).time = s.time := rfl
@[simp] theorem State.mapCk_si (s : State) (f : Clocks → Clocks) : (s.mapCk f).si = s.si := rfl
@[simp] theorem State.mapCk_host (s : State) (f : Clocks → Clocks) : (s.mapCk f).host = s.host := rfl
@[simp] theorem State.mapCk_dbg (s : State) (f : Clocks → Clocks) : (s.mapCk f).dbg = s.dbg := rfl
@[simp] theorem State.mapCk_ck (s : State) (f : Clocks → Clocks) : (s.mapCk f).ck = f s.ck := rfl
@[simp] theorem State.mapCk_bw (s : State) (f : Clocks → Clocks) : (s.mapCk f).bw = s.bw := rfl
@[simp] theorem State.mapCk_pl (s : State) (f : Clocks → Clocks) : (s.mapCk f).pl = s.pl := rfl
@[simp] theorem State.mapCk_tp (s : State) (f : Clocks → Clocks) : (s.mapCk f).tp = s.tp := rfl
@[simp] theorem State.mapCk_cores (s : State) (f : Clocks → Clocks) : (s.mapCk f).cores = s.cores := rfl
@[simp] theorem State.mapCk_l2 (s : State) (f : Clocks → Clocks) : (s.mapCk f).l2 = s.l2 := rfl
@[simp] theorem State.mapCk_mem (s : State) (f : Clocks → Clocks) : (s.mapCk f).mem = s.mem := rfl
@[simp] theorem State.mapCk_ports (s : State) (f : Clocks → Clocks) : (s.mapCk f).ports = s.ports := rfl
@[simp] theorem State.mapCk_memBad (s : State) (f : Clocks → Clocks) : (s.mapCk f).memBad = s.memBad := rfl
@[simp] theorem State.mapCk_pins (s : State) (f : Clocks → Clocks) : (s.mapCk f).pins = s.pins := rfl
@[simp] theorem State.mapCk_qy (s : State) (f : Clocks → Clocks) : (s.mapCk f).qy = s.qy := rfl
@[simp] theorem State.mapCk_dk (s : State) (f : Clocks → Clocks) : (s.mapCk f).dk = s.dk := rfl
@[simp] theorem State.mapCk_hw (s : State) (f : Clocks → Clocks) : (s.mapCk f).hw = s.hw := rfl
@[simp] theorem State.mapCk_lk (s : State) (f : Clocks → Clocks) : (s.mapCk f).lk = s.lk := rfl
@[simp] theorem State.mapCk_pending (s : State) (f : Clocks → Clocks) : (s.mapCk f).pending = s.pending := rfl

-- raiseCause

@[simp] theorem State.raiseCause_porst (s : State) (n : Nat) : (s.raiseCause n).porst = s.porst := rfl
@[simp] theorem State.raiseCause_supHold (s : State) (n : Nat) : (s.raiseCause n).supHold = s.supHold := rfl
@[simp] theorem State.raiseCause_rootLocked (s : State) (n : Nat) : (s.raiseCause n).rootLocked = s.rootLocked := rfl
@[simp] theorem State.raiseCause_testMode (s : State) (n : Nat) : (s.raiseCause n).testMode = s.testMode := rfl
@[simp] theorem State.raiseCause_cpPresent (s : State) (n : Nat) : (s.raiseCause n).cpPresent = s.cpPresent := rfl
@[simp] theorem State.raiseCause_supWarn (s : State) (n : Nat) : (s.raiseCause n).supWarn = s.supWarn := rfl
@[simp] theorem State.raiseCause_time (s : State) (n : Nat) : (s.raiseCause n).time = s.time := rfl
@[simp] theorem State.raiseCause_si (s : State) (n : Nat) : (s.raiseCause n).si = s.si := rfl
@[simp] theorem State.raiseCause_host (s : State) (n : Nat) : (s.raiseCause n).host = s.host := rfl
@[simp] theorem State.raiseCause_dbg (s : State) (n : Nat) : (s.raiseCause n).dbg = s.dbg := rfl
@[simp] theorem State.raiseCause_ck (s : State) (n : Nat) : (s.raiseCause n).ck = s.ck := rfl
@[simp] theorem State.raiseCause_pl (s : State) (n : Nat) : (s.raiseCause n).pl = s.pl := rfl
@[simp] theorem State.raiseCause_tp (s : State) (n : Nat) : (s.raiseCause n).tp = s.tp := rfl
@[simp] theorem State.raiseCause_cores (s : State) (n : Nat) : (s.raiseCause n).cores = s.cores := rfl
@[simp] theorem State.raiseCause_l2 (s : State) (n : Nat) : (s.raiseCause n).l2 = s.l2 := rfl
@[simp] theorem State.raiseCause_mem (s : State) (n : Nat) : (s.raiseCause n).mem = s.mem := rfl
@[simp] theorem State.raiseCause_ports (s : State) (n : Nat) : (s.raiseCause n).ports = s.ports := rfl
@[simp] theorem State.raiseCause_memBad (s : State) (n : Nat) : (s.raiseCause n).memBad = s.memBad := rfl
@[simp] theorem State.raiseCause_pins (s : State) (n : Nat) : (s.raiseCause n).pins = s.pins := rfl
@[simp] theorem State.raiseCause_qy (s : State) (n : Nat) : (s.raiseCause n).qy = s.qy := rfl
@[simp] theorem State.raiseCause_dk (s : State) (n : Nat) : (s.raiseCause n).dk = s.dk := rfl
@[simp] theorem State.raiseCause_hw (s : State) (n : Nat) : (s.raiseCause n).hw = s.hw := rfl
@[simp] theorem State.raiseCause_lk (s : State) (n : Nat) : (s.raiseCause n).lk = s.lk := rfl
@[simp] theorem State.raiseCause_pending (s : State) (n : Nat) : (s.raiseCause n).pending = s.pending := rfl

-- setPort

@[simp] theorem State.setPort_porst (s : State) (n : SliceId) (l : List PortReq) : (s.setPort n l).porst = s.porst := rfl
@[simp] theorem State.setPort_supHold (s : State) (n : SliceId) (l : List PortReq) : (s.setPort n l).supHold = s.supHold := rfl
@[simp] theorem State.setPort_rootLocked (s : State) (n : SliceId) (l : List PortReq) : (s.setPort n l).rootLocked = s.rootLocked := rfl
@[simp] theorem State.setPort_testMode (s : State) (n : SliceId) (l : List PortReq) : (s.setPort n l).testMode = s.testMode := rfl
@[simp] theorem State.setPort_cpPresent (s : State) (n : SliceId) (l : List PortReq) : (s.setPort n l).cpPresent = s.cpPresent := rfl
@[simp] theorem State.setPort_supWarn (s : State) (n : SliceId) (l : List PortReq) : (s.setPort n l).supWarn = s.supWarn := rfl
@[simp] theorem State.setPort_time (s : State) (n : SliceId) (l : List PortReq) : (s.setPort n l).time = s.time := rfl
@[simp] theorem State.setPort_si (s : State) (n : SliceId) (l : List PortReq) : (s.setPort n l).si = s.si := rfl
@[simp] theorem State.setPort_host (s : State) (n : SliceId) (l : List PortReq) : (s.setPort n l).host = s.host := rfl
@[simp] theorem State.setPort_dbg (s : State) (n : SliceId) (l : List PortReq) : (s.setPort n l).dbg = s.dbg := rfl
@[simp] theorem State.setPort_ck (s : State) (n : SliceId) (l : List PortReq) : (s.setPort n l).ck = s.ck := rfl
@[simp] theorem State.setPort_bw (s : State) (n : SliceId) (l : List PortReq) : (s.setPort n l).bw = s.bw := rfl
@[simp] theorem State.setPort_pl (s : State) (n : SliceId) (l : List PortReq) : (s.setPort n l).pl = s.pl := rfl
@[simp] theorem State.setPort_tp (s : State) (n : SliceId) (l : List PortReq) : (s.setPort n l).tp = s.tp := rfl
@[simp] theorem State.setPort_cores (s : State) (n : SliceId) (l : List PortReq) : (s.setPort n l).cores = s.cores := rfl
@[simp] theorem State.setPort_l2 (s : State) (n : SliceId) (l : List PortReq) : (s.setPort n l).l2 = s.l2 := rfl
@[simp] theorem State.setPort_mem (s : State) (n : SliceId) (l : List PortReq) : (s.setPort n l).mem = s.mem := rfl
@[simp] theorem State.setPort_ports (s : State) (n : SliceId) (l : List PortReq) : (s.setPort n l).ports = s.ports.set n l := rfl
@[simp] theorem State.setPort_memBad (s : State) (n : SliceId) (l : List PortReq) : (s.setPort n l).memBad = s.memBad := rfl
@[simp] theorem State.setPort_pins (s : State) (n : SliceId) (l : List PortReq) : (s.setPort n l).pins = s.pins := rfl
@[simp] theorem State.setPort_qy (s : State) (n : SliceId) (l : List PortReq) : (s.setPort n l).qy = s.qy := rfl
@[simp] theorem State.setPort_dk (s : State) (n : SliceId) (l : List PortReq) : (s.setPort n l).dk = s.dk := rfl
@[simp] theorem State.setPort_hw (s : State) (n : SliceId) (l : List PortReq) : (s.setPort n l).hw = s.hw := rfl
@[simp] theorem State.setPort_lk (s : State) (n : SliceId) (l : List PortReq) : (s.setPort n l).lk = s.lk := rfl
@[simp] theorem State.setPort_pending (s : State) (n : SliceId) (l : List PortReq) : (s.setPort n l).pending = s.pending := rfl

-- setDq

@[simp] theorem State.setDq_porst (s : State) (q : Nat) (x : DQueue) : (s.setDq q x).porst = s.porst := rfl
@[simp] theorem State.setDq_supHold (s : State) (q : Nat) (x : DQueue) : (s.setDq q x).supHold = s.supHold := rfl
@[simp] theorem State.setDq_rootLocked (s : State) (q : Nat) (x : DQueue) : (s.setDq q x).rootLocked = s.rootLocked := rfl
@[simp] theorem State.setDq_testMode (s : State) (q : Nat) (x : DQueue) : (s.setDq q x).testMode = s.testMode := rfl
@[simp] theorem State.setDq_cpPresent (s : State) (q : Nat) (x : DQueue) : (s.setDq q x).cpPresent = s.cpPresent := rfl
@[simp] theorem State.setDq_supWarn (s : State) (q : Nat) (x : DQueue) : (s.setDq q x).supWarn = s.supWarn := rfl
@[simp] theorem State.setDq_time (s : State) (q : Nat) (x : DQueue) : (s.setDq q x).time = s.time := rfl
@[simp] theorem State.setDq_si (s : State) (q : Nat) (x : DQueue) : (s.setDq q x).si = s.si := rfl
@[simp] theorem State.setDq_host (s : State) (q : Nat) (x : DQueue) : (s.setDq q x).host = s.host := rfl
@[simp] theorem State.setDq_dbg (s : State) (q : Nat) (x : DQueue) : (s.setDq q x).dbg = s.dbg := rfl
@[simp] theorem State.setDq_ck (s : State) (q : Nat) (x : DQueue) : (s.setDq q x).ck = s.ck := rfl
@[simp] theorem State.setDq_bw (s : State) (q : Nat) (x : DQueue) : (s.setDq q x).bw = s.bw := rfl
@[simp] theorem State.setDq_pl (s : State) (q : Nat) (x : DQueue) : (s.setDq q x).pl = s.pl := rfl
@[simp] theorem State.setDq_tp (s : State) (q : Nat) (x : DQueue) : (s.setDq q x).tp = s.tp := rfl
@[simp] theorem State.setDq_cores (s : State) (q : Nat) (x : DQueue) : (s.setDq q x).cores = s.cores := rfl
@[simp] theorem State.setDq_l2 (s : State) (q : Nat) (x : DQueue) : (s.setDq q x).l2 = s.l2 := rfl
@[simp] theorem State.setDq_mem (s : State) (q : Nat) (x : DQueue) : (s.setDq q x).mem = s.mem := rfl
@[simp] theorem State.setDq_ports (s : State) (q : Nat) (x : DQueue) : (s.setDq q x).ports = s.ports := rfl
@[simp] theorem State.setDq_memBad (s : State) (q : Nat) (x : DQueue) : (s.setDq q x).memBad = s.memBad := rfl
@[simp] theorem State.setDq_pins (s : State) (q : Nat) (x : DQueue) : (s.setDq q x).pins = s.pins := rfl
@[simp] theorem State.setDq_qy (s : State) (q : Nat) (x : DQueue) : (s.setDq q x).qy = s.qy := rfl
@[simp] theorem State.setDq_hw (s : State) (q : Nat) (x : DQueue) : (s.setDq q x).hw = s.hw := rfl
@[simp] theorem State.setDq_lk (s : State) (q : Nat) (x : DQueue) : (s.setDq q x).lk = s.lk := rfl
@[simp] theorem State.setDq_pending (s : State) (q : Nat) (x : DQueue) : (s.setDq q x).pending = s.pending := rfl

-- setCtr

@[simp] theorem State.setCtr_porst (s : State) (c : Nat) (v : BitVec 32) : (s.setCtr c v).porst = s.porst := rfl
@[simp] theorem State.setCtr_supHold (s : State) (c : Nat) (v : BitVec 32) : (s.setCtr c v).supHold = s.supHold := rfl
@[simp] theorem State.setCtr_rootLocked (s : State) (c : Nat) (v : BitVec 32) : (s.setCtr c v).rootLocked = s.rootLocked := rfl
@[simp] theorem State.setCtr_testMode (s : State) (c : Nat) (v : BitVec 32) : (s.setCtr c v).testMode = s.testMode := rfl
@[simp] theorem State.setCtr_cpPresent (s : State) (c : Nat) (v : BitVec 32) : (s.setCtr c v).cpPresent = s.cpPresent := rfl
@[simp] theorem State.setCtr_supWarn (s : State) (c : Nat) (v : BitVec 32) : (s.setCtr c v).supWarn = s.supWarn := rfl
@[simp] theorem State.setCtr_time (s : State) (c : Nat) (v : BitVec 32) : (s.setCtr c v).time = s.time := rfl
@[simp] theorem State.setCtr_si (s : State) (c : Nat) (v : BitVec 32) : (s.setCtr c v).si = s.si := rfl
@[simp] theorem State.setCtr_host (s : State) (c : Nat) (v : BitVec 32) : (s.setCtr c v).host = s.host := rfl
@[simp] theorem State.setCtr_dbg (s : State) (c : Nat) (v : BitVec 32) : (s.setCtr c v).dbg = s.dbg := rfl
@[simp] theorem State.setCtr_ck (s : State) (c : Nat) (v : BitVec 32) : (s.setCtr c v).ck = s.ck := rfl
@[simp] theorem State.setCtr_bw (s : State) (c : Nat) (v : BitVec 32) : (s.setCtr c v).bw = s.bw := rfl
@[simp] theorem State.setCtr_pl (s : State) (c : Nat) (v : BitVec 32) : (s.setCtr c v).pl = s.pl := rfl
@[simp] theorem State.setCtr_tp (s : State) (c : Nat) (v : BitVec 32) : (s.setCtr c v).tp = s.tp := rfl
@[simp] theorem State.setCtr_cores (s : State) (c : Nat) (v : BitVec 32) : (s.setCtr c v).cores = s.cores := rfl
@[simp] theorem State.setCtr_l2 (s : State) (c : Nat) (v : BitVec 32) : (s.setCtr c v).l2 = s.l2 := rfl
@[simp] theorem State.setCtr_mem (s : State) (c : Nat) (v : BitVec 32) : (s.setCtr c v).mem = s.mem := rfl
@[simp] theorem State.setCtr_ports (s : State) (c : Nat) (v : BitVec 32) : (s.setCtr c v).ports = s.ports := rfl
@[simp] theorem State.setCtr_memBad (s : State) (c : Nat) (v : BitVec 32) : (s.setCtr c v).memBad = s.memBad := rfl
@[simp] theorem State.setCtr_pins (s : State) (c : Nat) (v : BitVec 32) : (s.setCtr c v).pins = s.pins := rfl
@[simp] theorem State.setCtr_qy (s : State) (c : Nat) (v : BitVec 32) : (s.setCtr c v).qy = s.qy := rfl
@[simp] theorem State.setCtr_hw (s : State) (c : Nat) (v : BitVec 32) : (s.setCtr c v).hw = s.hw := rfl
@[simp] theorem State.setCtr_lk (s : State) (c : Nat) (v : BitVec 32) : (s.setCtr c v).lk = s.lk := rfl
@[simp] theorem State.setCtr_pending (s : State) (c : Nat) (v : BitVec 32) : (s.setCtr c v).pending = s.pending := rfl

-- raiseCtr

@[simp] theorem State.raiseCtr_porst (s : State) (c : Ctr) : (s.raiseCtr c).porst = s.porst := rfl
@[simp] theorem State.raiseCtr_supHold (s : State) (c : Ctr) : (s.raiseCtr c).supHold = s.supHold := rfl
@[simp] theorem State.raiseCtr_rootLocked (s : State) (c : Ctr) : (s.raiseCtr c).rootLocked = s.rootLocked := rfl
@[simp] theorem State.raiseCtr_testMode (s : State) (c : Ctr) : (s.raiseCtr c).testMode = s.testMode := rfl
@[simp] theorem State.raiseCtr_cpPresent (s : State) (c : Ctr) : (s.raiseCtr c).cpPresent = s.cpPresent := rfl
@[simp] theorem State.raiseCtr_supWarn (s : State) (c : Ctr) : (s.raiseCtr c).supWarn = s.supWarn := rfl
@[simp] theorem State.raiseCtr_time (s : State) (c : Ctr) : (s.raiseCtr c).time = s.time := rfl
@[simp] theorem State.raiseCtr_si (s : State) (c : Ctr) : (s.raiseCtr c).si = s.si := rfl
@[simp] theorem State.raiseCtr_host (s : State) (c : Ctr) : (s.raiseCtr c).host = s.host := rfl
@[simp] theorem State.raiseCtr_dbg (s : State) (c : Ctr) : (s.raiseCtr c).dbg = s.dbg := rfl
@[simp] theorem State.raiseCtr_ck (s : State) (c : Ctr) : (s.raiseCtr c).ck = s.ck := rfl
@[simp] theorem State.raiseCtr_bw (s : State) (c : Ctr) : (s.raiseCtr c).bw = s.bw := rfl
@[simp] theorem State.raiseCtr_pl (s : State) (c : Ctr) : (s.raiseCtr c).pl = s.pl := rfl
@[simp] theorem State.raiseCtr_tp (s : State) (c : Ctr) : (s.raiseCtr c).tp = s.tp := rfl
@[simp] theorem State.raiseCtr_cores (s : State) (c : Ctr) : (s.raiseCtr c).cores = s.cores := rfl
@[simp] theorem State.raiseCtr_l2 (s : State) (c : Ctr) : (s.raiseCtr c).l2 = s.l2 := rfl
@[simp] theorem State.raiseCtr_mem (s : State) (c : Ctr) : (s.raiseCtr c).mem = s.mem := rfl
@[simp] theorem State.raiseCtr_ports (s : State) (c : Ctr) : (s.raiseCtr c).ports = s.ports := rfl
@[simp] theorem State.raiseCtr_memBad (s : State) (c : Ctr) : (s.raiseCtr c).memBad = s.memBad := rfl
@[simp] theorem State.raiseCtr_pins (s : State) (c : Ctr) : (s.raiseCtr c).pins = s.pins := rfl
@[simp] theorem State.raiseCtr_qy (s : State) (c : Ctr) : (s.raiseCtr c).qy = s.qy := rfl
@[simp] theorem State.raiseCtr_hw (s : State) (c : Ctr) : (s.raiseCtr c).hw = s.hw := rfl
@[simp] theorem State.raiseCtr_lk (s : State) (c : Ctr) : (s.raiseCtr c).lk = s.lk := rfl
@[simp] theorem State.raiseCtr_pending (s : State) (c : Ctr) : (s.raiseCtr c).pending = s.pending := rfl

-- setWatch

@[simp] theorem State.setWatch_porst (s : State) (w : Nat) (x : Watch) : (s.setWatch w x).porst = s.porst := rfl
@[simp] theorem State.setWatch_supHold (s : State) (w : Nat) (x : Watch) : (s.setWatch w x).supHold = s.supHold := rfl
@[simp] theorem State.setWatch_rootLocked (s : State) (w : Nat) (x : Watch) : (s.setWatch w x).rootLocked = s.rootLocked := rfl
@[simp] theorem State.setWatch_testMode (s : State) (w : Nat) (x : Watch) : (s.setWatch w x).testMode = s.testMode := rfl
@[simp] theorem State.setWatch_cpPresent (s : State) (w : Nat) (x : Watch) : (s.setWatch w x).cpPresent = s.cpPresent := rfl
@[simp] theorem State.setWatch_supWarn (s : State) (w : Nat) (x : Watch) : (s.setWatch w x).supWarn = s.supWarn := rfl
@[simp] theorem State.setWatch_time (s : State) (w : Nat) (x : Watch) : (s.setWatch w x).time = s.time := rfl
@[simp] theorem State.setWatch_si (s : State) (w : Nat) (x : Watch) : (s.setWatch w x).si = s.si := rfl
@[simp] theorem State.setWatch_host (s : State) (w : Nat) (x : Watch) : (s.setWatch w x).host = s.host := rfl
@[simp] theorem State.setWatch_dbg (s : State) (w : Nat) (x : Watch) : (s.setWatch w x).dbg = s.dbg := rfl
@[simp] theorem State.setWatch_ck (s : State) (w : Nat) (x : Watch) : (s.setWatch w x).ck = s.ck := rfl
@[simp] theorem State.setWatch_bw (s : State) (w : Nat) (x : Watch) : (s.setWatch w x).bw = s.bw := rfl
@[simp] theorem State.setWatch_tp (s : State) (w : Nat) (x : Watch) : (s.setWatch w x).tp = s.tp := rfl
@[simp] theorem State.setWatch_cores (s : State) (w : Nat) (x : Watch) : (s.setWatch w x).cores = s.cores := rfl
@[simp] theorem State.setWatch_l2 (s : State) (w : Nat) (x : Watch) : (s.setWatch w x).l2 = s.l2 := rfl
@[simp] theorem State.setWatch_mem (s : State) (w : Nat) (x : Watch) : (s.setWatch w x).mem = s.mem := rfl
@[simp] theorem State.setWatch_ports (s : State) (w : Nat) (x : Watch) : (s.setWatch w x).ports = s.ports := rfl
@[simp] theorem State.setWatch_memBad (s : State) (w : Nat) (x : Watch) : (s.setWatch w x).memBad = s.memBad := rfl
@[simp] theorem State.setWatch_pins (s : State) (w : Nat) (x : Watch) : (s.setWatch w x).pins = s.pins := rfl
@[simp] theorem State.setWatch_qy (s : State) (w : Nat) (x : Watch) : (s.setWatch w x).qy = s.qy := rfl
@[simp] theorem State.setWatch_hw (s : State) (w : Nat) (x : Watch) : (s.setWatch w x).hw = s.hw := rfl
@[simp] theorem State.setWatch_lk (s : State) (w : Nat) (x : Watch) : (s.setWatch w x).lk = s.lk := rfl
@[simp] theorem State.setWatch_pending (s : State) (w : Nat) (x : Watch) : (s.setWatch w x).pending = s.pending := rfl

-- setSlot

@[simp] theorem State.setSlot_porst (s : State) (n : Fin 16) (x : TpSlot) : (s.setSlot n x).porst = s.porst := rfl
@[simp] theorem State.setSlot_supHold (s : State) (n : Fin 16) (x : TpSlot) : (s.setSlot n x).supHold = s.supHold := rfl
@[simp] theorem State.setSlot_rootLocked (s : State) (n : Fin 16) (x : TpSlot) : (s.setSlot n x).rootLocked = s.rootLocked := rfl
@[simp] theorem State.setSlot_testMode (s : State) (n : Fin 16) (x : TpSlot) : (s.setSlot n x).testMode = s.testMode := rfl
@[simp] theorem State.setSlot_cpPresent (s : State) (n : Fin 16) (x : TpSlot) : (s.setSlot n x).cpPresent = s.cpPresent := rfl
@[simp] theorem State.setSlot_supWarn (s : State) (n : Fin 16) (x : TpSlot) : (s.setSlot n x).supWarn = s.supWarn := rfl
@[simp] theorem State.setSlot_time (s : State) (n : Fin 16) (x : TpSlot) : (s.setSlot n x).time = s.time := rfl
@[simp] theorem State.setSlot_si (s : State) (n : Fin 16) (x : TpSlot) : (s.setSlot n x).si = s.si := rfl
@[simp] theorem State.setSlot_host (s : State) (n : Fin 16) (x : TpSlot) : (s.setSlot n x).host = s.host := rfl
@[simp] theorem State.setSlot_dbg (s : State) (n : Fin 16) (x : TpSlot) : (s.setSlot n x).dbg = s.dbg := rfl
@[simp] theorem State.setSlot_ck (s : State) (n : Fin 16) (x : TpSlot) : (s.setSlot n x).ck = s.ck := rfl
@[simp] theorem State.setSlot_bw (s : State) (n : Fin 16) (x : TpSlot) : (s.setSlot n x).bw = s.bw := rfl
@[simp] theorem State.setSlot_pl (s : State) (n : Fin 16) (x : TpSlot) : (s.setSlot n x).pl = s.pl := rfl
@[simp] theorem State.setSlot_cores (s : State) (n : Fin 16) (x : TpSlot) : (s.setSlot n x).cores = s.cores := rfl
@[simp] theorem State.setSlot_l2 (s : State) (n : Fin 16) (x : TpSlot) : (s.setSlot n x).l2 = s.l2 := rfl
@[simp] theorem State.setSlot_mem (s : State) (n : Fin 16) (x : TpSlot) : (s.setSlot n x).mem = s.mem := rfl
@[simp] theorem State.setSlot_ports (s : State) (n : Fin 16) (x : TpSlot) : (s.setSlot n x).ports = s.ports := rfl
@[simp] theorem State.setSlot_memBad (s : State) (n : Fin 16) (x : TpSlot) : (s.setSlot n x).memBad = s.memBad := rfl
@[simp] theorem State.setSlot_pins (s : State) (n : Fin 16) (x : TpSlot) : (s.setSlot n x).pins = s.pins := rfl
@[simp] theorem State.setSlot_qy (s : State) (n : Fin 16) (x : TpSlot) : (s.setSlot n x).qy = s.qy := rfl
@[simp] theorem State.setSlot_dk (s : State) (n : Fin 16) (x : TpSlot) : (s.setSlot n x).dk = s.dk := rfl
@[simp] theorem State.setSlot_hw (s : State) (n : Fin 16) (x : TpSlot) : (s.setSlot n x).hw = s.hw := rfl
@[simp] theorem State.setSlot_lk (s : State) (n : Fin 16) (x : TpSlot) : (s.setSlot n x).lk = s.lk := rfl
@[simp] theorem State.setSlot_pending (s : State) (n : Fin 16) (x : TpSlot) : (s.setSlot n x).pending = s.pending := rfl

-- setChain

@[simp] theorem State.setChain_porst (s : State) (i : Nat) (x : HwChain) : (s.setChain i x).porst = s.porst := rfl
@[simp] theorem State.setChain_supHold (s : State) (i : Nat) (x : HwChain) : (s.setChain i x).supHold = s.supHold := rfl
@[simp] theorem State.setChain_rootLocked (s : State) (i : Nat) (x : HwChain) : (s.setChain i x).rootLocked = s.rootLocked := rfl
@[simp] theorem State.setChain_testMode (s : State) (i : Nat) (x : HwChain) : (s.setChain i x).testMode = s.testMode := rfl
@[simp] theorem State.setChain_cpPresent (s : State) (i : Nat) (x : HwChain) : (s.setChain i x).cpPresent = s.cpPresent := rfl
@[simp] theorem State.setChain_supWarn (s : State) (i : Nat) (x : HwChain) : (s.setChain i x).supWarn = s.supWarn := rfl
@[simp] theorem State.setChain_time (s : State) (i : Nat) (x : HwChain) : (s.setChain i x).time = s.time := rfl
@[simp] theorem State.setChain_si (s : State) (i : Nat) (x : HwChain) : (s.setChain i x).si = s.si := rfl
@[simp] theorem State.setChain_host (s : State) (i : Nat) (x : HwChain) : (s.setChain i x).host = s.host := rfl
@[simp] theorem State.setChain_dbg (s : State) (i : Nat) (x : HwChain) : (s.setChain i x).dbg = s.dbg := rfl
@[simp] theorem State.setChain_ck (s : State) (i : Nat) (x : HwChain) : (s.setChain i x).ck = s.ck := rfl
@[simp] theorem State.setChain_bw (s : State) (i : Nat) (x : HwChain) : (s.setChain i x).bw = s.bw := rfl
@[simp] theorem State.setChain_pl (s : State) (i : Nat) (x : HwChain) : (s.setChain i x).pl = s.pl := rfl
@[simp] theorem State.setChain_tp (s : State) (i : Nat) (x : HwChain) : (s.setChain i x).tp = s.tp := rfl
@[simp] theorem State.setChain_cores (s : State) (i : Nat) (x : HwChain) : (s.setChain i x).cores = s.cores := rfl
@[simp] theorem State.setChain_l2 (s : State) (i : Nat) (x : HwChain) : (s.setChain i x).l2 = s.l2 := rfl
@[simp] theorem State.setChain_mem (s : State) (i : Nat) (x : HwChain) : (s.setChain i x).mem = s.mem := rfl
@[simp] theorem State.setChain_ports (s : State) (i : Nat) (x : HwChain) : (s.setChain i x).ports = s.ports := rfl
@[simp] theorem State.setChain_memBad (s : State) (i : Nat) (x : HwChain) : (s.setChain i x).memBad = s.memBad := rfl
@[simp] theorem State.setChain_pins (s : State) (i : Nat) (x : HwChain) : (s.setChain i x).pins = s.pins := rfl
@[simp] theorem State.setChain_qy (s : State) (i : Nat) (x : HwChain) : (s.setChain i x).qy = s.qy := rfl
@[simp] theorem State.setChain_dk (s : State) (i : Nat) (x : HwChain) : (s.setChain i x).dk = s.dk := rfl
@[simp] theorem State.setChain_lk (s : State) (i : Nat) (x : HwChain) : (s.setChain i x).lk = s.lk := rfl
@[simp] theorem State.setChain_pending (s : State) (i : Nat) (x : HwChain) : (s.setChain i x).pending = s.pending := rfl

-- answer

@[simp] theorem State.answer_porst (s : State) (id : HostId) (r : Reply) : (s.answer id r).porst = s.porst := rfl
@[simp] theorem State.answer_supHold (s : State) (id : HostId) (r : Reply) : (s.answer id r).supHold = s.supHold := rfl
@[simp] theorem State.answer_rootLocked (s : State) (id : HostId) (r : Reply) : (s.answer id r).rootLocked = s.rootLocked := rfl
@[simp] theorem State.answer_testMode (s : State) (id : HostId) (r : Reply) : (s.answer id r).testMode = s.testMode := rfl
@[simp] theorem State.answer_cpPresent (s : State) (id : HostId) (r : Reply) : (s.answer id r).cpPresent = s.cpPresent := rfl
@[simp] theorem State.answer_supWarn (s : State) (id : HostId) (r : Reply) : (s.answer id r).supWarn = s.supWarn := rfl
@[simp] theorem State.answer_time (s : State) (id : HostId) (r : Reply) : (s.answer id r).time = s.time := rfl
@[simp] theorem State.answer_si (s : State) (id : HostId) (r : Reply) : (s.answer id r).si = s.si := rfl
@[simp] theorem State.answer_dbg (s : State) (id : HostId) (r : Reply) : (s.answer id r).dbg = s.dbg := rfl
@[simp] theorem State.answer_ck (s : State) (id : HostId) (r : Reply) : (s.answer id r).ck = s.ck := rfl
@[simp] theorem State.answer_bw (s : State) (id : HostId) (r : Reply) : (s.answer id r).bw = s.bw := rfl
@[simp] theorem State.answer_pl (s : State) (id : HostId) (r : Reply) : (s.answer id r).pl = s.pl := rfl
@[simp] theorem State.answer_tp (s : State) (id : HostId) (r : Reply) : (s.answer id r).tp = s.tp := rfl
@[simp] theorem State.answer_cores (s : State) (id : HostId) (r : Reply) : (s.answer id r).cores = s.cores := rfl
@[simp] theorem State.answer_l2 (s : State) (id : HostId) (r : Reply) : (s.answer id r).l2 = s.l2 := rfl
@[simp] theorem State.answer_mem (s : State) (id : HostId) (r : Reply) : (s.answer id r).mem = s.mem := rfl
@[simp] theorem State.answer_ports (s : State) (id : HostId) (r : Reply) : (s.answer id r).ports = s.ports := rfl
@[simp] theorem State.answer_memBad (s : State) (id : HostId) (r : Reply) : (s.answer id r).memBad = s.memBad := rfl
@[simp] theorem State.answer_pins (s : State) (id : HostId) (r : Reply) : (s.answer id r).pins = s.pins := rfl
@[simp] theorem State.answer_qy (s : State) (id : HostId) (r : Reply) : (s.answer id r).qy = s.qy := rfl
@[simp] theorem State.answer_dk (s : State) (id : HostId) (r : Reply) : (s.answer id r).dk = s.dk := rfl
@[simp] theorem State.answer_hw (s : State) (id : HostId) (r : Reply) : (s.answer id r).hw = s.hw := rfl
@[simp] theorem State.answer_lk (s : State) (id : HostId) (r : Reply) : (s.answer id r).lk = s.lk := rfl
@[simp] theorem State.answer_pending (s : State) (id : HostId) (r : Reply) : (s.answer id r).pending = s.pending := rfl

-- Reading a part after writing one

theorem State.core_def (s : State) (c : CoreId) : s.core c = s.cores[c] := rfl

@[simp] theorem State.core_setCore (s : State) (c : CoreId) (x : Core) : (s.setCore c x).core c = x := by
  simp [State.core, State.setCore]

theorem State.core_setCore_ne (s : State) {c d : CoreId} (x : Core) (h : c ≠ d) : (s.setCore c x).core d = s.core d := by
  have : c.val ≠ d.val := fun e => h (Fin.ext e)
  simp [State.core, State.setCore, this]

@[simp] theorem State.setCore_setCore (s : State) (c : CoreId) (x y : Core) :
    (s.setCore c x).setCore c y = s.setCore c y := by
  simp [State.setCore]

@[simp] theorem Core.berth_setBerth (k : Core) (b : BerthId) (x : Berth) : (k.setBerth b x).berth b = x := by
  simp [Core.berth, Core.setBerth]

theorem Core.berth_setBerth_ne (k : Core) {b d : BerthId} (x : Berth) (h : b ≠ d) :
    (k.setBerth b x).berth d = k.berth d := by
  have : b.val ≠ d.val := fun e => h (Fin.ext e)
  simp [Core.berth, Core.setBerth, this]

@[simp] theorem Core.setBerth_setBerth (k : Core) (b : BerthId) (x y : Berth) :
    (k.setBerth b x).setBerth b y = k.setBerth b y := by
  simp [Core.setBerth]

@[simp] theorem State.berth_setBerth (s : State) (c : CoreId) (b : BerthId) (x : Berth) :
    (s.setBerth c b x).berth c b = x := by
  simp [State.berth, State.setBerth]

theorem State.berth_setBerth_ne (s : State) {c d : CoreId} {b e : BerthId} (x : Berth) (h : c ≠ d ∨ b ≠ e) :
    (s.setBerth c b x).berth d e = s.berth d e := by
  unfold State.berth State.setBerth
  by_cases hc : c = d
  · subst hc
    rw [State.core_setCore, Core.berth_setBerth_ne _ _ (h.resolve_left (fun g => g rfl))]
  · rw [State.core_setCore_ne _ _ hc]

@[simp] theorem State.setBerth_setBerth (s : State) (c : CoreId) (b : BerthId) (x y : Berth) :
    (s.setBerth c b x).setBerth c b y = s.setBerth c b y := by
  simp [State.setBerth]

@[simp] theorem State.berth_mapBerth (s : State) (c : CoreId) (b : BerthId) (f : Berth → Berth) :
    (s.mapBerth c b f).berth c b = f (s.berth c b) := by
  simp [State.mapBerth]

@[simp] theorem State.mapBerth_mapBerth (s : State) (c : CoreId) (b : BerthId) (f g : Berth → Berth) :
    (s.mapBerth c b f).mapBerth c b g = s.mapBerth c b fun y => g (f y) := by
  simp [State.mapBerth]

@[simp] theorem State.link_setLink (s : State) (n : LinkId) (k : Link) : (s.setLink n k).link n = k := by
  simp [State.link, State.setLink]

@[simp] theorem State.engine_setEngine (s : State) (n : SliceId) (e : Engine) : (s.setEngine n e).engine n = e := by
  simp [State.engine, State.setEngine]

@[simp] theorem State.port_setPort (s : State) (n : SliceId) (l : List PortReq) : (s.setPort n l).port n = l := by
  simp [State.port, State.setPort]

@[simp] theorem State.slot_setSlot (s : State) (n : Fin 16) (x : TpSlot) : (s.setSlot n x).slot n = x := by
  simp [State.slot, State.setSlot]

@[simp] theorem State.tile_setTile (s : State) (c : CoreId) (t : TileUnit) : (s.setTile c t).tile c = t := by
  simp [State.tile, State.setTile]

-- Updates of berths: the fields that each leaves alone


@[simp] theorem Berth.next_g (y : Berth) : (y.next).g = y.g := rfl
@[simp] theorem Berth.next_p (y : Berth) : (y.next).p = y.p := rfl
@[simp] theorem Berth.next_waiting (y : Berth) : (y.next).waiting = y.waiting := rfl
@[simp] theorem Berth.next_started (y : Berth) : (y.next).started = y.started := rfl
@[simp] theorem Berth.next_midway (y : Berth) : (y.next).midway = y.midway := rfl
@[simp] theorem Berth.next_halted (y : Berth) : (y.next).halted = y.halted := rfl
@[simp] theorem Berth.next_prio (y : Berth) : (y.next).prio = y.prio := rfl
@[simp] theorem Berth.next_compat (y : Berth) : (y.next).compat = y.compat := rfl
@[simp] theorem Berth.next_ie (y : Berth) : (y.next).ie = y.ie := rfl
@[simp] theorem Berth.next_priv (y : Berth) : (y.next).priv = y.priv := rfl
@[simp] theorem Berth.next_estat (y : Berth) : (y.next).estat = y.estat := rfl
@[simp] theorem Berth.next_era (y : Berth) : (y.next).era = y.era := rfl
@[simp] theorem Berth.next_ereason (y : Berth) : (y.next).ereason = y.ereason := rfl
@[simp] theorem Berth.next_gtb (y : Berth) : (y.next).gtb = y.gtb := rfl
@[simp] theorem Berth.next_slv (y : Berth) : (y.next).slv = y.slv := rfl
@[simp] theorem Berth.next_pocket (y : Berth) : (y.next).pocket = y.pocket := rfl
@[simp] theorem Berth.next_mode (y : Berth) : (y.next).mode = y.mode := rfl
@[simp] theorem Berth.next_modeLast (y : Berth) : (y.next).modeLast = y.modeLast := rfl
@[simp] theorem Berth.next_modePend (y : Berth) : (y.next).modePend = y.modePend := rfl
@[simp] theorem Berth.next_fstat (y : Berth) : (y.next).fstat = y.fstat := rfl
@[simp] theorem Berth.next_townEn (y : Berth) : (y.next).townEn = y.townEn := rfl
@[simp] theorem Berth.next_townSaved (y : Berth) : (y.next).townSaved = y.townSaved := rfl
@[simp] theorem Berth.next_townHeld (y : Berth) : (y.next).townHeld = y.townHeld := rfl
@[simp] theorem Berth.next_epi (y : Berth) : (y.next).epi = y.epi := rfl
@[simp] theorem Berth.next_epiSerial (y : Berth) : (y.next).epiSerial = y.epiSerial := rfl
@[simp] theorem Berth.next_tkbase (y : Berth) : (y.next).tkbase = y.tkbase := rfl
@[simp] theorem Berth.next_lbe (y : Berth) : (y.next).lbe = y.lbe := rfl
@[simp] theorem Berth.next_pocketFault (y : Berth) : (y.next).pocketFault = y.pocketFault := rfl
@[simp] theorem Berth.next_pocketLost (y : Berth) : (y.next).pocketLost = y.pocketLost := rfl
@[simp] theorem Berth.next_epiFaults (y : Berth) : (y.next).epiFaults = y.epiFaults := rfl
@[simp] theorem Berth.next_customer (y : Berth) : (y.next).customer = y.customer := rfl
@[simp] theorem Berth.countMode_g (y : Berth) : (y.countMode).g = y.g := rfl
@[simp] theorem Berth.countMode_p (y : Berth) : (y.countMode).p = y.p := rfl
@[simp] theorem Berth.countMode_pc (y : Berth) : (y.countMode).pc = y.pc := rfl
@[simp] theorem Berth.countMode_waiting (y : Berth) : (y.countMode).waiting = y.waiting := rfl
@[simp] theorem Berth.countMode_started (y : Berth) : (y.countMode).started = y.started := rfl
@[simp] theorem Berth.countMode_midway (y : Berth) : (y.countMode).midway = false := rfl
@[simp] theorem Berth.countMode_halted (y : Berth) : (y.countMode).halted = y.halted := rfl
@[simp] theorem Berth.countMode_prio (y : Berth) : (y.countMode).prio = y.prio := rfl
@[simp] theorem Berth.countMode_compat (y : Berth) : (y.countMode).compat = y.compat := rfl
@[simp] theorem Berth.countMode_ie (y : Berth) : (y.countMode).ie = y.ie := rfl
@[simp] theorem Berth.countMode_priv (y : Berth) : (y.countMode).priv = y.priv := rfl
@[simp] theorem Berth.countMode_estat (y : Berth) : (y.countMode).estat = y.estat := rfl
@[simp] theorem Berth.countMode_era (y : Berth) : (y.countMode).era = y.era := rfl
@[simp] theorem Berth.countMode_ereason (y : Berth) : (y.countMode).ereason = y.ereason := rfl
@[simp] theorem Berth.countMode_gtb (y : Berth) : (y.countMode).gtb = y.gtb := rfl
@[simp] theorem Berth.countMode_slv (y : Berth) : (y.countMode).slv = y.slv := rfl
@[simp] theorem Berth.countMode_pocket (y : Berth) : (y.countMode).pocket = y.pocket := rfl
@[simp] theorem Berth.countMode_modeLast (y : Berth) : (y.countMode).modeLast = y.modeLast := rfl
@[simp] theorem Berth.countMode_fstat (y : Berth) : (y.countMode).fstat = y.fstat := rfl
@[simp] theorem Berth.countMode_townEn (y : Berth) : (y.countMode).townEn = y.townEn := rfl
@[simp] theorem Berth.countMode_townSaved (y : Berth) : (y.countMode).townSaved = y.townSaved := rfl
@[simp] theorem Berth.countMode_townHeld (y : Berth) : (y.countMode).townHeld = y.townHeld := rfl
@[simp] theorem Berth.countMode_epi (y : Berth) : (y.countMode).epi = y.epi := rfl
@[simp] theorem Berth.countMode_epiSerial (y : Berth) : (y.countMode).epiSerial = y.epiSerial := rfl
@[simp] theorem Berth.countMode_tkbase (y : Berth) : (y.countMode).tkbase = y.tkbase := rfl
@[simp] theorem Berth.countMode_lbe (y : Berth) : (y.countMode).lbe = y.lbe := rfl
@[simp] theorem Berth.countMode_pocketFault (y : Berth) : (y.countMode).pocketFault = y.pocketFault := rfl
@[simp] theorem Berth.countMode_pocketLost (y : Berth) : (y.countMode).pocketLost = y.pocketLost := rfl
@[simp] theorem Berth.countMode_epiFaults (y : Berth) : (y.countMode).epiFaults = y.epiFaults := rfl
@[simp] theorem Berth.countMode_customer (y : Berth) : (y.countMode).customer = y.customer := rfl
@[simp] theorem Berth.completeModes_g (y : Berth) : (y.completeModes).g = y.g := rfl
@[simp] theorem Berth.completeModes_p (y : Berth) : (y.completeModes).p = y.p := rfl
@[simp] theorem Berth.completeModes_pc (y : Berth) : (y.completeModes).pc = y.pc := rfl
@[simp] theorem Berth.completeModes_waiting (y : Berth) : (y.completeModes).waiting = y.waiting := rfl
@[simp] theorem Berth.completeModes_started (y : Berth) : (y.completeModes).started = y.started := rfl
@[simp] theorem Berth.completeModes_midway (y : Berth) : (y.completeModes).midway = y.midway := rfl
@[simp] theorem Berth.completeModes_halted (y : Berth) : (y.completeModes).halted = y.halted := rfl
@[simp] theorem Berth.completeModes_prio (y : Berth) : (y.completeModes).prio = y.prio := rfl
@[simp] theorem Berth.completeModes_compat (y : Berth) : (y.completeModes).compat = y.compat := rfl
@[simp] theorem Berth.completeModes_ie (y : Berth) : (y.completeModes).ie = y.ie := rfl
@[simp] theorem Berth.completeModes_priv (y : Berth) : (y.completeModes).priv = y.priv := rfl
@[simp] theorem Berth.completeModes_estat (y : Berth) : (y.completeModes).estat = y.estat := rfl
@[simp] theorem Berth.completeModes_era (y : Berth) : (y.completeModes).era = y.era := rfl
@[simp] theorem Berth.completeModes_ereason (y : Berth) : (y.completeModes).ereason = y.ereason := rfl
@[simp] theorem Berth.completeModes_gtb (y : Berth) : (y.completeModes).gtb = y.gtb := rfl
@[simp] theorem Berth.completeModes_slv (y : Berth) : (y.completeModes).slv = y.slv := rfl
@[simp] theorem Berth.completeModes_pocket (y : Berth) : (y.completeModes).pocket = y.pocket := rfl
@[simp] theorem Berth.completeModes_modeLast (y : Berth) : (y.completeModes).modeLast = y.modeLast := rfl
@[simp] theorem Berth.completeModes_fstat (y : Berth) : (y.completeModes).fstat = y.fstat := rfl
@[simp] theorem Berth.completeModes_townEn (y : Berth) : (y.completeModes).townEn = y.townEn := rfl
@[simp] theorem Berth.completeModes_townSaved (y : Berth) : (y.completeModes).townSaved = y.townSaved := rfl
@[simp] theorem Berth.completeModes_townHeld (y : Berth) : (y.completeModes).townHeld = y.townHeld := rfl
@[simp] theorem Berth.completeModes_epi (y : Berth) : (y.completeModes).epi = y.epi := rfl
@[simp] theorem Berth.completeModes_epiSerial (y : Berth) : (y.completeModes).epiSerial = y.epiSerial := rfl
@[simp] theorem Berth.completeModes_tkbase (y : Berth) : (y.completeModes).tkbase = y.tkbase := rfl
@[simp] theorem Berth.completeModes_lbe (y : Berth) : (y.completeModes).lbe = y.lbe := rfl
@[simp] theorem Berth.completeModes_pocketFault (y : Berth) : (y.completeModes).pocketFault = y.pocketFault := rfl
@[simp] theorem Berth.completeModes_pocketLost (y : Berth) : (y.completeModes).pocketLost = y.pocketLost := rfl
@[simp] theorem Berth.completeModes_epiFaults (y : Berth) : (y.completeModes).epiFaults = y.epiFaults := rfl
@[simp] theorem Berth.completeModes_customer (y : Berth) : (y.completeModes).customer = y.customer := rfl
@[simp] theorem Berth.writeMode_g (y : Berth) (v : BitVec 5) : (y.writeMode v).g = y.g := rfl
@[simp] theorem Berth.writeMode_p (y : Berth) (v : BitVec 5) : (y.writeMode v).p = y.p := rfl
@[simp] theorem Berth.writeMode_pc (y : Berth) (v : BitVec 5) : (y.writeMode v).pc = y.pc := rfl
@[simp] theorem Berth.writeMode_waiting (y : Berth) (v : BitVec 5) : (y.writeMode v).waiting = y.waiting := rfl
@[simp] theorem Berth.writeMode_started (y : Berth) (v : BitVec 5) : (y.writeMode v).started = y.started := rfl
@[simp] theorem Berth.writeMode_midway (y : Berth) (v : BitVec 5) : (y.writeMode v).midway = y.midway := rfl
@[simp] theorem Berth.writeMode_halted (y : Berth) (v : BitVec 5) : (y.writeMode v).halted = y.halted := rfl
@[simp] theorem Berth.writeMode_prio (y : Berth) (v : BitVec 5) : (y.writeMode v).prio = y.prio := rfl
@[simp] theorem Berth.writeMode_compat (y : Berth) (v : BitVec 5) : (y.writeMode v).compat = y.compat := rfl
@[simp] theorem Berth.writeMode_ie (y : Berth) (v : BitVec 5) : (y.writeMode v).ie = y.ie := rfl
@[simp] theorem Berth.writeMode_priv (y : Berth) (v : BitVec 5) : (y.writeMode v).priv = y.priv := rfl
@[simp] theorem Berth.writeMode_estat (y : Berth) (v : BitVec 5) : (y.writeMode v).estat = y.estat := rfl
@[simp] theorem Berth.writeMode_era (y : Berth) (v : BitVec 5) : (y.writeMode v).era = y.era := rfl
@[simp] theorem Berth.writeMode_ereason (y : Berth) (v : BitVec 5) : (y.writeMode v).ereason = y.ereason := rfl
@[simp] theorem Berth.writeMode_gtb (y : Berth) (v : BitVec 5) : (y.writeMode v).gtb = y.gtb := rfl
@[simp] theorem Berth.writeMode_slv (y : Berth) (v : BitVec 5) : (y.writeMode v).slv = y.slv := rfl
@[simp] theorem Berth.writeMode_pocket (y : Berth) (v : BitVec 5) : (y.writeMode v).pocket = y.pocket := rfl
@[simp] theorem Berth.writeMode_mode (y : Berth) (v : BitVec 5) : (y.writeMode v).mode = y.mode := rfl
@[simp] theorem Berth.writeMode_fstat (y : Berth) (v : BitVec 5) : (y.writeMode v).fstat = y.fstat := rfl
@[simp] theorem Berth.writeMode_townEn (y : Berth) (v : BitVec 5) : (y.writeMode v).townEn = y.townEn := rfl
@[simp] theorem Berth.writeMode_townSaved (y : Berth) (v : BitVec 5) : (y.writeMode v).townSaved = y.townSaved := rfl
@[simp] theorem Berth.writeMode_townHeld (y : Berth) (v : BitVec 5) : (y.writeMode v).townHeld = y.townHeld := rfl
@[simp] theorem Berth.writeMode_epi (y : Berth) (v : BitVec 5) : (y.writeMode v).epi = y.epi := rfl
@[simp] theorem Berth.writeMode_epiSerial (y : Berth) (v : BitVec 5) : (y.writeMode v).epiSerial = y.epiSerial := rfl
@[simp] theorem Berth.writeMode_tkbase (y : Berth) (v : BitVec 5) : (y.writeMode v).tkbase = y.tkbase := rfl
@[simp] theorem Berth.writeMode_lbe (y : Berth) (v : BitVec 5) : (y.writeMode v).lbe = y.lbe := rfl
@[simp] theorem Berth.writeMode_pocketFault (y : Berth) (v : BitVec 5) : (y.writeMode v).pocketFault = y.pocketFault := rfl
@[simp] theorem Berth.writeMode_pocketLost (y : Berth) (v : BitVec 5) : (y.writeMode v).pocketLost = y.pocketLost := rfl
@[simp] theorem Berth.writeMode_epiFaults (y : Berth) (v : BitVec 5) : (y.writeMode v).epiFaults = y.epiFaults := rfl
@[simp] theorem Berth.writeMode_customer (y : Berth) (v : BitVec 5) : (y.writeMode v).customer = y.customer := rfl
@[simp] theorem Berth.eret_g (y : Berth) : (y.eret).g = y.g := rfl
@[simp] theorem Berth.eret_p (y : Berth) : (y.eret).p = y.p := rfl
@[simp] theorem Berth.eret_waiting (y : Berth) : (y.eret).waiting = y.waiting := rfl
@[simp] theorem Berth.eret_started (y : Berth) : (y.eret).started = y.started := rfl
@[simp] theorem Berth.eret_midway (y : Berth) : (y.eret).midway = y.midway := rfl
@[simp] theorem Berth.eret_halted (y : Berth) : (y.eret).halted = y.halted := rfl
@[simp] theorem Berth.eret_compat (y : Berth) : (y.eret).compat = y.compat := rfl
@[simp] theorem Berth.eret_estat (y : Berth) : (y.eret).estat = y.estat := rfl
@[simp] theorem Berth.eret_era (y : Berth) : (y.eret).era = y.era := rfl
@[simp] theorem Berth.eret_ereason (y : Berth) : (y.eret).ereason = y.ereason := rfl
@[simp] theorem Berth.eret_gtb (y : Berth) : (y.eret).gtb = y.gtb := rfl
@[simp] theorem Berth.eret_slv (y : Berth) : (y.eret).slv = y.slv := rfl
@[simp] theorem Berth.eret_pocket (y : Berth) : (y.eret).pocket = y.pocket := rfl
@[simp] theorem Berth.eret_mode (y : Berth) : (y.eret).mode = y.mode := rfl
@[simp] theorem Berth.eret_modeLast (y : Berth) : (y.eret).modeLast = y.modeLast := rfl
@[simp] theorem Berth.eret_modePend (y : Berth) : (y.eret).modePend = y.modePend := rfl
@[simp] theorem Berth.eret_fstat (y : Berth) : (y.eret).fstat = y.fstat := rfl
@[simp] theorem Berth.eret_townEn (y : Berth) : (y.eret).townEn = y.townEn := rfl
@[simp] theorem Berth.eret_townSaved (y : Berth) : (y.eret).townSaved = y.townSaved := rfl
@[simp] theorem Berth.eret_townHeld (y : Berth) : (y.eret).townHeld = y.townHeld := rfl
@[simp] theorem Berth.eret_epi (y : Berth) : (y.eret).epi = y.epi := rfl
@[simp] theorem Berth.eret_epiSerial (y : Berth) : (y.eret).epiSerial = y.epiSerial := rfl
@[simp] theorem Berth.eret_tkbase (y : Berth) : (y.eret).tkbase = y.tkbase := rfl
@[simp] theorem Berth.eret_pocketFault (y : Berth) : (y.eret).pocketFault = y.pocketFault := rfl
@[simp] theorem Berth.eret_pocketLost (y : Berth) : (y.eret).pocketLost = y.pocketLost := rfl
@[simp] theorem Berth.eret_epiFaults (y : Berth) : (y.eret).epiFaults = y.epiFaults := rfl
@[simp] theorem Berth.eret_customer (y : Berth) : (y.eret).customer = y.customer := rfl
@[simp] theorem Berth.setReg_p (y : Berth) (r : Reg) (v : Word) : (y.setReg r v).p = y.p := by unfold Berth.setReg; split <;> rfl
@[simp] theorem Berth.setReg_pc (y : Berth) (r : Reg) (v : Word) : (y.setReg r v).pc = y.pc := by unfold Berth.setReg; split <;> rfl
@[simp] theorem Berth.setReg_waiting (y : Berth) (r : Reg) (v : Word) : (y.setReg r v).waiting = y.waiting := by unfold Berth.setReg; split <;> rfl
@[simp] theorem Berth.setReg_started (y : Berth) (r : Reg) (v : Word) : (y.setReg r v).started = y.started := by unfold Berth.setReg; split <;> rfl
@[simp] theorem Berth.setReg_midway (y : Berth) (r : Reg) (v : Word) : (y.setReg r v).midway = y.midway := by unfold Berth.setReg; split <;> rfl
@[simp] theorem Berth.setReg_halted (y : Berth) (r : Reg) (v : Word) : (y.setReg r v).halted = y.halted := by unfold Berth.setReg; split <;> rfl
@[simp] theorem Berth.setReg_prio (y : Berth) (r : Reg) (v : Word) : (y.setReg r v).prio = y.prio := by unfold Berth.setReg; split <;> rfl
@[simp] theorem Berth.setReg_compat (y : Berth) (r : Reg) (v : Word) : (y.setReg r v).compat = y.compat := by unfold Berth.setReg; split <;> rfl
@[simp] theorem Berth.setReg_ie (y : Berth) (r : Reg) (v : Word) : (y.setReg r v).ie = y.ie := by unfold Berth.setReg; split <;> rfl
@[simp] theorem Berth.setReg_priv (y : Berth) (r : Reg) (v : Word) : (y.setReg r v).priv = y.priv := by unfold Berth.setReg; split <;> rfl
@[simp] theorem Berth.setReg_estat (y : Berth) (r : Reg) (v : Word) : (y.setReg r v).estat = y.estat := by unfold Berth.setReg; split <;> rfl
@[simp] theorem Berth.setReg_era (y : Berth) (r : Reg) (v : Word) : (y.setReg r v).era = y.era := by unfold Berth.setReg; split <;> rfl
@[simp] theorem Berth.setReg_ereason (y : Berth) (r : Reg) (v : Word) : (y.setReg r v).ereason = y.ereason := by unfold Berth.setReg; split <;> rfl
@[simp] theorem Berth.setReg_gtb (y : Berth) (r : Reg) (v : Word) : (y.setReg r v).gtb = y.gtb := by unfold Berth.setReg; split <;> rfl
@[simp] theorem Berth.setReg_slv (y : Berth) (r : Reg) (v : Word) : (y.setReg r v).slv = y.slv := by unfold Berth.setReg; split <;> rfl
@[simp] theorem Berth.setReg_pocket (y : Berth) (r : Reg) (v : Word) : (y.setReg r v).pocket = y.pocket := by unfold Berth.setReg; split <;> rfl
@[simp] theorem Berth.setReg_mode (y : Berth) (r : Reg) (v : Word) : (y.setReg r v).mode = y.mode := by unfold Berth.setReg; split <;> rfl
@[simp] theorem Berth.setReg_modeLast (y : Berth) (r : Reg) (v : Word) : (y.setReg r v).modeLast = y.modeLast := by unfold Berth.setReg; split <;> rfl
@[simp] theorem Berth.setReg_modePend (y : Berth) (r : Reg) (v : Word) : (y.setReg r v).modePend = y.modePend := by unfold Berth.setReg; split <;> rfl
@[simp] theorem Berth.setReg_fstat (y : Berth) (r : Reg) (v : Word) : (y.setReg r v).fstat = y.fstat := by unfold Berth.setReg; split <;> rfl
@[simp] theorem Berth.setReg_townEn (y : Berth) (r : Reg) (v : Word) : (y.setReg r v).townEn = y.townEn := by unfold Berth.setReg; split <;> rfl
@[simp] theorem Berth.setReg_townSaved (y : Berth) (r : Reg) (v : Word) : (y.setReg r v).townSaved = y.townSaved := by unfold Berth.setReg; split <;> rfl
@[simp] theorem Berth.setReg_townHeld (y : Berth) (r : Reg) (v : Word) : (y.setReg r v).townHeld = y.townHeld := by unfold Berth.setReg; split <;> rfl
@[simp] theorem Berth.setReg_epi (y : Berth) (r : Reg) (v : Word) : (y.setReg r v).epi = y.epi := by unfold Berth.setReg; split <;> rfl
@[simp] theorem Berth.setReg_epiSerial (y : Berth) (r : Reg) (v : Word) : (y.setReg r v).epiSerial = y.epiSerial := by unfold Berth.setReg; split <;> rfl
@[simp] theorem Berth.setReg_tkbase (y : Berth) (r : Reg) (v : Word) : (y.setReg r v).tkbase = y.tkbase := by unfold Berth.setReg; split <;> rfl
@[simp] theorem Berth.setReg_lbe (y : Berth) (r : Reg) (v : Word) : (y.setReg r v).lbe = y.lbe := by unfold Berth.setReg; split <;> rfl
@[simp] theorem Berth.setReg_pocketFault (y : Berth) (r : Reg) (v : Word) : (y.setReg r v).pocketFault = y.pocketFault := by unfold Berth.setReg; split <;> rfl
@[simp] theorem Berth.setReg_pocketLost (y : Berth) (r : Reg) (v : Word) : (y.setReg r v).pocketLost = y.pocketLost := by unfold Berth.setReg; split <;> rfl
@[simp] theorem Berth.setReg_epiFaults (y : Berth) (r : Reg) (v : Word) : (y.setReg r v).epiFaults = y.epiFaults := by unfold Berth.setReg; split <;> rfl
@[simp] theorem Berth.setReg_customer (y : Berth) (r : Reg) (v : Word) : (y.setReg r v).customer = y.customer := by unfold Berth.setReg; split <;> rfl
@[simp] theorem Berth.setPred_g (y : Berth) (n : PReg) (v : Bool) : (y.setPred n v).g = y.g := by unfold Berth.setPred; split <;> rfl
@[simp] theorem Berth.setPred_pc (y : Berth) (n : PReg) (v : Bool) : (y.setPred n v).pc = y.pc := by unfold Berth.setPred; split <;> rfl
@[simp] theorem Berth.setPred_waiting (y : Berth) (n : PReg) (v : Bool) : (y.setPred n v).waiting = y.waiting := by unfold Berth.setPred; split <;> rfl
@[simp] theorem Berth.setPred_started (y : Berth) (n : PReg) (v : Bool) : (y.setPred n v).started = y.started := by unfold Berth.setPred; split <;> rfl
@[simp] theorem Berth.setPred_midway (y : Berth) (n : PReg) (v : Bool) : (y.setPred n v).midway = y.midway := by unfold Berth.setPred; split <;> rfl
@[simp] theorem Berth.setPred_halted (y : Berth) (n : PReg) (v : Bool) : (y.setPred n v).halted = y.halted := by unfold Berth.setPred; split <;> rfl
@[simp] theorem Berth.setPred_prio (y : Berth) (n : PReg) (v : Bool) : (y.setPred n v).prio = y.prio := by unfold Berth.setPred; split <;> rfl
@[simp] theorem Berth.setPred_compat (y : Berth) (n : PReg) (v : Bool) : (y.setPred n v).compat = y.compat := by unfold Berth.setPred; split <;> rfl
@[simp] theorem Berth.setPred_ie (y : Berth) (n : PReg) (v : Bool) : (y.setPred n v).ie = y.ie := by unfold Berth.setPred; split <;> rfl
@[simp] theorem Berth.setPred_priv (y : Berth) (n : PReg) (v : Bool) : (y.setPred n v).priv = y.priv := by unfold Berth.setPred; split <;> rfl
@[simp] theorem Berth.setPred_estat (y : Berth) (n : PReg) (v : Bool) : (y.setPred n v).estat = y.estat := by unfold Berth.setPred; split <;> rfl
@[simp] theorem Berth.setPred_era (y : Berth) (n : PReg) (v : Bool) : (y.setPred n v).era = y.era := by unfold Berth.setPred; split <;> rfl
@[simp] theorem Berth.setPred_ereason (y : Berth) (n : PReg) (v : Bool) : (y.setPred n v).ereason = y.ereason := by unfold Berth.setPred; split <;> rfl
@[simp] theorem Berth.setPred_gtb (y : Berth) (n : PReg) (v : Bool) : (y.setPred n v).gtb = y.gtb := by unfold Berth.setPred; split <;> rfl
@[simp] theorem Berth.setPred_slv (y : Berth) (n : PReg) (v : Bool) : (y.setPred n v).slv = y.slv := by unfold Berth.setPred; split <;> rfl
@[simp] theorem Berth.setPred_pocket (y : Berth) (n : PReg) (v : Bool) : (y.setPred n v).pocket = y.pocket := by unfold Berth.setPred; split <;> rfl
@[simp] theorem Berth.setPred_mode (y : Berth) (n : PReg) (v : Bool) : (y.setPred n v).mode = y.mode := by unfold Berth.setPred; split <;> rfl
@[simp] theorem Berth.setPred_modeLast (y : Berth) (n : PReg) (v : Bool) : (y.setPred n v).modeLast = y.modeLast := by unfold Berth.setPred; split <;> rfl
@[simp] theorem Berth.setPred_modePend (y : Berth) (n : PReg) (v : Bool) : (y.setPred n v).modePend = y.modePend := by unfold Berth.setPred; split <;> rfl
@[simp] theorem Berth.setPred_fstat (y : Berth) (n : PReg) (v : Bool) : (y.setPred n v).fstat = y.fstat := by unfold Berth.setPred; split <;> rfl
@[simp] theorem Berth.setPred_townEn (y : Berth) (n : PReg) (v : Bool) : (y.setPred n v).townEn = y.townEn := by unfold Berth.setPred; split <;> rfl
@[simp] theorem Berth.setPred_townSaved (y : Berth) (n : PReg) (v : Bool) : (y.setPred n v).townSaved = y.townSaved := by unfold Berth.setPred; split <;> rfl
@[simp] theorem Berth.setPred_townHeld (y : Berth) (n : PReg) (v : Bool) : (y.setPred n v).townHeld = y.townHeld := by unfold Berth.setPred; split <;> rfl
@[simp] theorem Berth.setPred_epi (y : Berth) (n : PReg) (v : Bool) : (y.setPred n v).epi = y.epi := by unfold Berth.setPred; split <;> rfl
@[simp] theorem Berth.setPred_epiSerial (y : Berth) (n : PReg) (v : Bool) : (y.setPred n v).epiSerial = y.epiSerial := by unfold Berth.setPred; split <;> rfl
@[simp] theorem Berth.setPred_tkbase (y : Berth) (n : PReg) (v : Bool) : (y.setPred n v).tkbase = y.tkbase := by unfold Berth.setPred; split <;> rfl
@[simp] theorem Berth.setPred_lbe (y : Berth) (n : PReg) (v : Bool) : (y.setPred n v).lbe = y.lbe := by unfold Berth.setPred; split <;> rfl
@[simp] theorem Berth.setPred_pocketFault (y : Berth) (n : PReg) (v : Bool) : (y.setPred n v).pocketFault = y.pocketFault := by unfold Berth.setPred; split <;> rfl
@[simp] theorem Berth.setPred_pocketLost (y : Berth) (n : PReg) (v : Bool) : (y.setPred n v).pocketLost = y.pocketLost := by unfold Berth.setPred; split <;> rfl
@[simp] theorem Berth.setPred_epiFaults (y : Berth) (n : PReg) (v : Bool) : (y.setPred n v).epiFaults = y.epiFaults := by unfold Berth.setPred; split <;> rfl
@[simp] theorem Berth.setPred_customer (y : Berth) (n : PReg) (v : Bool) : (y.setPred n v).customer = y.customer := by unfold Berth.setPred; split <;> rfl

@[simp] theorem Berth.next_pc (y : Berth) : y.next.pc = y.pc + 4 := rfl
@[simp] theorem Berth.reg_zero (y : Berth) : y.reg 0 = 0 := rfl
@[simp] theorem Berth.setReg_zero (y : Berth) (v : Word) : y.setReg 0 v = y := rfl
@[simp] theorem Berth.next_reg (y : Berth) (r : Reg) : y.next.reg r = y.reg r := rfl
@[simp] theorem Berth.countMode_reg (y : Berth) (r : Reg) : y.countMode.reg r = y.reg r := rfl
@[simp] theorem Berth.next_pred (y : Berth) (n : PReg) : y.next.pred n = y.pred n := rfl
@[simp] theorem Berth.countMode_pred (y : Berth) (n : PReg) : y.countMode.pred n = y.pred n := rfl

/-- A written general register other than g0 reads back, and no other changes (R71). -/
theorem Berth.reg_setReg (y : Berth) (r q : Reg) (v : Word) :
    (y.setReg r v).reg q = if q = r ∧ r ≠ 0 then v else y.reg q := by
  unfold Berth.setReg Berth.reg
  by_cases hr : r = 0 <;> by_cases hq : q = 0 <;> by_cases e : q = r <;> simp_all [Vector.getElem_set]
  intro h
  exact absurd (Fin.ext h.symm) e

end Sys2Proof.Machine
end

