-- ==== Sys2Proof/Laws/Instructions.lean ====
section
/-! SUPPORT. How an instruction of a core executes, once for every instruction: what the shared operations of
Machine/Ops.lean and Machine/Operands.lean answer when the instruction executes. -/

namespace Sys2Proof.Laws
open Sys2Proof.Machine

/-- A berth that can execute an instruction has no customer instruction in flight. -/
theorem runner_customer {s : State} {c : CoreId} {b : BerthId} (h : s.runner c = some b) :
    (s.core c).running = some b ∧ (s.berth c b).customer.isSome = false := by
  unfold State.runner at h
  split at h
  · split at h
    · rename_i d hd
      simp only at h
      split at h
      · cases h
      · rename_i hx
        cases h
        exact ⟨hd, by simp only [Bool.or_eq_true, not_or, Bool.not_eq_true] at hx; simp [hx.1.1.1.2]⟩
    · cases h
  · cases h

/-- Nothing older waits where a berth can execute and the reorder buffer holds no instruction that waits. -/
theorem mustWait_false {s : State} {c : CoreId} {b : BerthId} (h : s.runner c = some b) (hs : (s.core c).stalled = none) :
    s.mustWait c = false := by
  obtain ⟨hr, hc⟩ := runner_customer h
  simp [State.mustWait, hr, hs, hc]

/-- An instruction that executes names a predicate that can let it. -/
theorem executes_sense {s : State} {x : Issue} {b : BerthId} (h : s.Executes x b) : (x.sense && x.pred == 0) = false := by
  cases hx : (x.sense && x.pred == 0)
  · rfl
  · simp at hx
    have := h.2.2.2
    simp [hx, Berth.pred] at this

/-- An instruction that executes at a privilege that may run it takes its own effect on the issued state, or waits. -/
theorem instruction_executes {s : State} {x : Issue} {b : BerthId} (h : s.Executes x b) (i : Instr) (k : Nat)
    (f : State → CoreId → BerthId → Option State) (hk : k ≤ (s.berth x.core b).priv.toNat) :
    s.instruction i x true k f = (f (s.issued x b) x.core b).getD (s.stall x.core i) := by
  have hq := executes_sense h
  have hw := mustWait_false h.1 h.2.1
  obtain ⟨h1, _, _, h2⟩ := h
  simp only [State.instruction, State.instructionBy, hw, h1, hq]
  simp [State.issued, h2, Nat.not_lt.mpr hk]
  split <;> simp_all

/-- A form that changes its berth through the shared register operation retires with that change. -/
theorem retires_of_regInstruction {i : Instr} {x : Issue} {f : Berth → Berth}
    (h : ∀ s, exec i s = .next (s.regInstruction i x true f)) : Retires i x f := by
  intro s b hb
  rw [h, State.regInstruction, instruction_executes hb i 0 _ (Nat.zero_le _)]
  simp [State.issued, State.retire, State.mapBerth]

/-- An instruction of a core on which no berth can execute and none waits changes nothing (log entry 19). -/
theorem instruction_idle {s : State} {x : Issue} (h : s.runner x.core = none) (hw : s.mustWait x.core = false) (i : Instr)
    (legal : Bool) (k : Nat) (f : State → CoreId → BerthId → Option State) : s.instruction i x legal k f = s := by
  simp [State.instruction, State.instructionBy, h, hw]

/-- An instruction behind one that waits joins it in the reorder buffer (R95). -/
theorem instruction_waits {s : State} {x : Issue} (hw : s.mustWait x.core = true) (i : Instr)
    (legal : Bool) (k : Nat) (f : State → CoreId → BerthId → Option State) :
    s.instruction i x legal k f = s.stall x.core i := by
  simp [State.instruction, State.instructionBy, hw]

/-- An illegal form, whatever the predicate, raises vector 1 (R80). -/
theorem instruction_illegal {s : State} {x : Issue} {b : BerthId} (h : s.runner x.core = some b)
    (hs : (s.core x.core).stalled = none) (i : Instr) (k : Nat)
    (f : State → CoreId → BerthId → Option State) : s.instruction i x false k f = (s.issued x b).raise x.core b 1 0 := by
  simp [State.instruction, State.instructionBy, mustWait_false h hs, h, State.issued]

/-- A predicated-off instruction only moves on (R69). -/
theorem instruction_skipped {s : State} {x : Issue} {b : BerthId} (h : s.runner x.core = some b)
    (hs : (s.core x.core).stalled = none) (i : Instr) (k : Nat)
    (f : State → CoreId → BerthId → Option State) (hx : (x.sense && x.pred == 0) = false)
    (hp : (s.berth x.core b).pred x.pred = x.sense) :
    s.instruction i x true k f = (s.issued x b).mapBerth x.core b Berth.next := by
  simp [State.instruction, State.instructionBy, mustWait_false h hs, h, hx, State.issued, hp]

/-- An executing instruction without the privilege that it needs raises vector 2 (R70). -/
theorem instruction_privileged {s : State} {x : Issue} {b : BerthId} (h : s.Executes x b) (i : Instr) (k : Nat)
    (f : State → CoreId → BerthId → Option State) (hk : (s.berth x.core b).priv.toNat < k) :
    s.instruction i x true k f = (s.issued x b).raise x.core b 2 0 := by
  have hq := executes_sense h
  have hw := mustWait_false h.1 h.2.1
  obtain ⟨h1, _, _, h2⟩ := h
  simp [State.instruction, State.instructionBy, hw, h1, hq, State.issued, h2, hk]

/-- With nothing in the reorder buffer there is nothing to abandon. -/
theorem abandon_none {s : State} {c : CoreId} (h : (s.core c).stalled = none) (hr : (s.core c).rob = []) (b : BerthId) :
    s.abandon c b = s := by
  simp [State.abandon, h, hr]

/-- An entry through a good descriptor (R122). -/
theorem enterGangway_good {s t : State} {c : CoreId} {b : BerthId} {v : Nat} {d : Gangway}
    (h : (s.abandon c b).readGangway c b v = (t, some d)) (era : Word) (info : Nat) (prio : Option (BitVec 4)) :
    s.enterGangway c b v era info prio = (t.mapBerth c b fun y => y.enter v d era info prio).traceCore c 0x2 b.val v := by
  simp [State.enterGangway, h]

/-- An entry whose descriptor fails is a gangway fault (R123). -/
theorem enterGangway_bad {s t : State} {c : CoreId} {b : BerthId} {v : Nat} (h : (s.abandon c b).readGangway c b v = (t, none))
    (era : Word) (info : Nat) (prio : Option (BitVec 4)) : s.enterGangway c b v era info prio = t.gangwayFault c b v era := by
  simp [State.enterGangway, h]

/-- A store with room in the store buffer joins it, and the prefetch streams move with its line; nothing else changes (R95, R221). -/
theorem coreStore_room {s : State} {c : CoreId} (h : (s.core c).sb.length < 16) (b : BerthId) (a : Nat) (v : Word)
    (size : Size) : s.coreStore c b a v size = s.setCore c { s.core c with
      sb := (s.core c).sb ++ [{ berth := b, addr := BitVec.ofNat 48 a, data := v, size := size }]
      streams := touchStreams (s.core c).streams (a / 64) } := by
  simp [State.coreStore, Nat.not_le.mpr h]

end Sys2Proof.Laws
end

