-- ==== Sys2Proof/Laws/Memory.lean ====
section
/-! SUPPORT. The laws of sparse memory: writes keep the canonical form, a read after a write gives the byte written, and a
write leaves every other byte alone; and the number that bytes hold. -/

namespace Sys2Proof.Laws
open Sys2Proof.Machine

theorem adel_keys {k : Nat} {P : Nat → Bool} {α : Type} : ∀ m : List (Nat × α), m.all (fun c => P c.1) → (adel k m).all (fun c => P c.1)
  | [] => by simp [adel]
  | (j, w) :: t => by
    intro h
    simp only [List.all_cons, Bool.and_eq_true] at h
    unfold adel
    split
    · exact h.2
    · simp only [List.all_cons, Bool.and_eq_true]; exact ⟨h.1, adel_keys t h.2⟩

theorem aput_keys {k : Nat} {v : α} {P : Nat → Bool} (hk : P k) : ∀ m : List (Nat × α), m.all (fun c => P c.1) → (aput k v m).all (fun c => P c.1)
  | [] => by simp [aput, hk]
  | (j, w) :: t => by
    intro h
    simp only [List.all_cons, Bool.and_eq_true] at h
    unfold aput
    split
    · simp only [List.all_cons, Bool.and_eq_true]; exact ⟨hk, h.2⟩
    · split
      · simp only [List.all_cons, Bool.and_eq_true]; exact ⟨hk, h.1, h.2⟩
      · simp only [List.all_cons, Bool.and_eq_true]; exact ⟨h.1, aput_keys hk t h.2⟩

theorem adel_wf (k : Nat) : ∀ m : List Host.Cell, Memory.wf m → Memory.wf (adel k m)
  | [] => by simp [adel]
  | (j, w) :: t => by
    intro h
    simp only [Memory.wf, Bool.and_eq_true] at h
    unfold adel
    split
    · exact h.2
    · simp only [Memory.wf, Bool.and_eq_true]
      exact ⟨⟨h.1.1, adel_keys (P := fun x => decide (j < x)) t h.1.2⟩, adel_wf k t h.2⟩

theorem aput_wf (k : Nat) (v : Byte) (hv : (v != 0) = true) : ∀ m : List Host.Cell, Memory.wf m → Memory.wf (aput k v m)
  | [] => by simpa [aput, Memory.wf] using hv
  | (j, w) :: t => by
    intro h
    have h0 := h
    simp only [Memory.wf, Bool.and_eq_true] at h
    unfold aput
    split
    · next e => subst e; simp only [Memory.wf, Bool.and_eq_true]; exact ⟨⟨hv, h.1.2⟩, h.2⟩
    · next e =>
      split
      · next l =>
        rw [Memory.wf]
        simp only [Bool.and_eq_true]
        refine ⟨⟨hv, ?_⟩, h0⟩
        simp only [List.all_cons, Bool.and_eq_true, decide_eq_true_eq]
        refine ⟨l, ?_⟩
        have := h.1.2
        simp only [List.all_eq_true, decide_eq_true_eq] at this ⊢
        intro x hx; exact Nat.lt_trans l (this x hx)
      · next l =>
        rw [Memory.wf]
        simp only [Bool.and_eq_true]
        refine ⟨⟨h.1.1, aput_keys (P := fun x => decide (j < x)) (by simp; omega) t h.1.2⟩, aput_wf k v hv t h.2⟩

theorem cellPut_wf (m : List Host.Cell) (a : Nat) (v : Byte) (h : Memory.wf m) : Memory.wf (cellPut m a v) := by
  unfold cellPut
  split
  · exact adel_wf a m h
  · next hv => exact aput_wf a v (by simpa using hv) m h

theorem cellsPut_wf (n : Nat) : ∀ (m : List Host.Cell) (a v strb : Nat), Memory.wf m → Memory.wf (cellsPut m a v strb n) := by
  induction n with
  | zero => intro m a v strb h; exact h
  | succ n ih =>
    intro m a v strb h
    unfold cellsPut
    apply ih
    split
    · exact cellPut_wf m a _ h
    · exact h
theorem aget_aput_same {α : Type} (k : Nat) (v : α) : ∀ m : List (Nat × α), aget k (aput k v m) = some v
  | [] => by simp [aput, aget]
  | (j, w) :: t => by
    unfold aput
    split
    · simp [aget]
    · split
      · simp [aget]
      · next h _ => simp [aget, h, aget_aput_same k v t]

theorem aget_aput_other {α : Type} (k i : Nat) (v : α) (hi : i ≠ k) : ∀ m : List (Nat × α), aget i (aput k v m) = aget i m
  | [] => by simp [aput, aget, Ne.symm hi]
  | (j, w) :: t => by
    unfold aput
    split
    · next h => subst h; simp [aget, Ne.symm hi]
    · split
      · simp [aget, Ne.symm hi]
      · simp [aget, aget_aput_other k i v hi t]

theorem aget_above (k : Nat) : ∀ m : List Host.Cell, (m.all fun c => k < c.1) → aget k m = none
  | [] => by simp [aget]
  | (j, w) :: t => by
    intro h
    simp only [List.all_cons, Bool.and_eq_true, decide_eq_true_eq] at h
    have : j ≠ k := by omega
    simp [aget, this, aget_above k t (by simpa using h.2)]

theorem aget_adel_same (k : Nat) : ∀ m : List Host.Cell, Memory.wf m → aget k (adel k m) = none
  | [] => by simp [adel, aget]
  | (j, w) :: t => by
    intro h
    simp only [Memory.wf, Bool.and_eq_true] at h
    unfold adel
    split
    · next e => subst e; exact aget_above _ t h.1.2
    · next e => simp [aget, e, aget_adel_same k t h.2]

theorem aget_adel_other {α : Type} (k i : Nat) (hi : i ≠ k) : ∀ m : List (Nat × α), aget i (adel k m) = aget i m
  | [] => by simp [adel]
  | (j, w) :: t => by
    unfold adel
    split
    · next e => subst e; simp [aget, Ne.symm hi]
    · simp [aget, aget_adel_other k i hi t]

/-- A read after a write to the same address gives the byte written. -/
theorem cellGet_cellPut_same (m : List Host.Cell) (a : Nat) (v : Byte) (h : Memory.wf m) :
    cellGet (cellPut m a v) a = v := by
  unfold cellGet cellPut
  split
  · next e => subst e; simp [aget_adel_same a m h]
  · simp [aget_aput_same]

/-- A write leaves every other address alone. -/
theorem cellGet_cellPut_other (m : List Host.Cell) (a b : Nat) (v : Byte) (hb : b ≠ a) :
    cellGet (cellPut m a v) b = cellGet m b := by
  unfold cellGet cellPut
  split
  · rw [aget_adel_other a b hb]
  · rw [aget_aput_other a b v hb]

/-- A write of `n` bytes leaves every address outside them alone. -/
theorem cellGet_cellsPut_outside (n : Nat) : ∀ (m : List Host.Cell) (a v strb b : Nat), b < a ∨ a + n ≤ b →
    cellGet (cellsPut m a v strb n) b = cellGet m b := by
  induction n with
  | zero => intro m a v strb b _; rfl
  | succ n ih =>
    intro m a v strb b hb
    unfold cellsPut
    rw [ih _ _ _ _ _ (by omega)]
    split
    · exact cellGet_cellPut_other m a b _ (by omega)
    · rfl

/-- A write of `n` bytes gives each byte within them the strobed byte of the number, or leaves it. -/
theorem cellGet_cellsPut_inside (n : Nat) : ∀ (m : List Host.Cell) (a v strb i : Nat), Memory.wf m → i < n →
    cellGet (cellsPut m a v strb n) (a + i) =
      if strb / 2 ^ i % 2 = 1 then BitVec.ofNat 8 (v / 256 ^ i) else cellGet m (a + i) := by
  induction n with
  | zero => intro m a v strb i _ hi; omega
  | succ n ih =>
    intro m a v strb i hm hi
    unfold cellsPut
    have hm' : Memory.wf (if strb % 2 = 1 then cellPut m a (BitVec.ofNat 8 v) else m) := by
      split
      · exact cellPut_wf m a _ hm
      · exact hm
    cases i with
    | zero =>
      rw [cellGet_cellsPut_outside n _ _ _ _ _ (by omega)]
      simp only [Nat.add_zero, Nat.pow_zero, Nat.div_one]
      split
      · exact cellGet_cellPut_same m a _ hm
      · rfl
    | succ i =>
      have := ih (if strb % 2 = 1 then cellPut m a (BitVec.ofNat 8 v) else m) (a + 1) (v / 256) (strb / 2) i hm' (by omega)
      rw [show a + (i + 1) = a + 1 + i by omega, this, Nat.div_div_eq_div_mul, Nat.div_div_eq_div_mul,
        show 2 * 2 ^ i = 2 ^ (i + 1) by rw [Nat.pow_succ]; omega, show 256 * 256 ^ i = 256 ^ (i + 1) by rw [Nat.pow_succ]; omega]
      split
      · rfl
      · split
        · rw [cellGet_cellPut_other m a (a + 1 + i) _ (by omega)]
        · rfl

/-- The bytes of a split range hold the number of its parts. -/
theorem cellsNat_add (m : List Host.Cell) (p : Nat) : ∀ (a q : Nat),
    cellsNat m a (p + q) = cellsNat m a p + 256 ^ p * cellsNat m (a + p) q := by
  induction p with
  | zero => intro a q; simp [cellsNat]
  | succ p ih =>
    intro a q
    rw [show p + 1 + q = (p + q) + 1 by omega, cellsNat, ih, cellsNat, Nat.mul_add, Nat.pow_succ, show a + 1 + p = a + (p + 1) by omega,
      Nat.mul_comm (256 ^ p) 256, Nat.mul_assoc, Nat.add_assoc]

/-- `n` bytes hold a number below 256^n. -/
theorem cellsNat_lt (m : List Host.Cell) (n : Nat) : ∀ a : Nat, cellsNat m a n < 256 ^ n := by
  induction n with
  | zero => intro a; simp [cellsNat]
  | succ n ih =>
    intro a
    have := ih (a + 1)
    have := (cellGet m a).isLt
    rw [cellsNat, Nat.pow_succ]
    omega

/-- Where no byte is listed the bytes hold 0. -/
theorem cellsNat_nil (n : Nat) : ∀ a : Nat, cellsNat [] a n = 0 := by
  induction n with
  | zero => intro a; rfl
  | succ n ih => intro a; simp [cellsNat, cellGet, aget, ih]

/-- A listed byte below the range does not count. -/
theorem cellsNat_below (m : List Host.Cell) (k : Nat) (v : Byte) (n : Nat) : ∀ a : Nat, k < a →
    cellsNat ((k, v) :: m) a n = cellsNat m a n := by
  induction n with
  | zero => intro a _; rfl
  | succ n ih => intro a h; simp [cellsNat, cellGet, aget, show k ≠ a by omega, ih (a + 1) (by omega)]

/-- A listed byte of the range counts at its place. -/
theorem cellsNat_cons (m : List Host.Cell) (k : Nat) (v : Byte) (n : Nat) : ∀ a : Nat, a ≤ k → k < a + n → cellGet m k = 0 →
    cellsNat ((k, v) :: m) a n = cellsNat m a n + v.toNat * 256 ^ (k - a) := by
  induction n with
  | zero => intro a _ _ _; omega
  | succ n ih =>
    intro a h1 h2 h0
    by_cases h : k = a
    · subst h
      simp only [cellsNat]
      rw [cellsNat_below m k v n (k + 1) (by omega), h0]
      simp [cellGet, aget, Nat.add_comm]
    · simp only [cellsNat]
      rw [ih (a + 1) (by omega) (by omega) h0, show k - a = (k - (a + 1)) + 1 by omega, Nat.pow_succ, Nat.mul_add,
        show cellGet ((k, v) :: m) a = cellGet m a by simp [cellGet, aget, h]]
      rw [← Nat.add_assoc, ← Nat.mul_assoc v.toNat, Nat.mul_comm 256 (v.toNat * _)]

end Sys2Proof.Laws
end

