-- ==== Sys2Proof/Laws/MemoryOps.lean ====
section
/-! SUPPORT. The shared operations over local memory keep memory and scratch in canonical form. -/

namespace Sys2Proof.Laws
open Sys2Proof.Machine

/-- A fold keeps what each of its steps keeps. -/
theorem foldl_keeps {α β : Type} {P : β → Prop} {f : β → α → β} (h : ∀ b a, P b → P (f b a)) :
    ∀ (l : List α) (b : β), P b → P (l.foldl f b)
  | [], _, hb => hb
  | a :: l, b, hb => foldl_keeps h l (f b a) (h b a hb)

theorem cellsPutLine_wf (m : List Host.Cell) (line : Nat) (data : Line) (mask : BitVec 64) (h : Memory.wf m = true) :
    Memory.wf (cellsPutLine m line data mask) = true :=
  cellsPut_wf 64 m (64 * line) data.toNat mask.toNat h

/-- Two states whose memory and scratch agree are in canonical form together. -/
theorem memOk_congr {s t : State} (h : s.memOk) (hm : t.mem = s.mem) (hs : t.l2.scratch = s.l2.scratch) : t.memOk := by
  unfold State.memOk at *
  rw [hm, hs]
  exact h

/-- Memory, scratch and the L2 are those of another state. -/
def Local (s t : State) : Prop := t.mem = s.mem ∧ t.l2 = s.l2

theorem Local.memOk {s t : State} (h : Local s t) (hs : s.memOk) : t.memOk := memOk_congr hs h.1 (by rw [h.2])

/-- A fold over a core at a time leaves memory, scratch and the L2 alone. -/
theorem coreFold_local (f : CoreId → Core → Core) : ∀ (l : List CoreId) (s : State),
    Local s (l.foldl (fun s c => s.setCore c (f c (s.core c))) s)
  | [], _ => ⟨rfl, rfl⟩
  | c :: l, s => by
    have h := coreFold_local f l (s.setCore c (f c (s.core c)))
    exact ⟨h.1, h.2⟩

theorem mapCores_local (s : State) (f : CoreId → Core → Core) : Local s (s.mapCores f) := coreFold_local f _ s

theorem dropL1d_local (s : State) (line : Nat) (w : Option CoreId) : Local s (s.dropL1d line w) := mapCores_local s _

theorem offerEvent_local (s : State) (n : Nat) (src : OfferSrc) : Local s (s.offerEvent n src) := by
  unfold State.offerEvent; grind [Local]

theorem markCounted_local (s : State) (u i : Nat) : Local s (s.markCounted u i) := by
  unfold State.markCounted; grind [Local]

theorem faultReaction_local (s : State) (e : FaultEvent) : Local s (s.faultReaction e) := by
  unfold State.faultReaction State.setCore; grind [Local]

theorem Local.trans {s t u : State} (h : Local s t) (k : Local t u) : Local s u := ⟨k.1.trans h.1, k.2.trans h.2⟩

/-- What the collector does after it has recorded a fault leaves local memory alone. -/
theorem faultTail_local {s t : State} (h : Local s t) (key : Nat × Nat) (fresh : Bool) :
    Local s (if fresh then (if key.1 = 0 then t else t.markCounted key.1 key.2).offerEvent 0x005 .latch
      else if key.1 = 0 then t else t.markCounted key.1 key.2) := by
  have k : Local s (if key.1 = 0 then t else t.markCounted key.1 key.2) := by
    split
    · exact h
    · exact h.trans (markCounted_local _ _ _)
  split
  · exact k.trans (offerEvent_local _ _ _)
  · exact k

theorem recordFault_local (s : State) (q : QueuedFault) (lost : Bool) : Local s (s.recordFault q lost) := by
  unfold State.recordFault
  dsimp only
  refine faultTail_local ?_ _ _
  exact ⟨rfl, rfl⟩

theorem acceptFault_local (s : State) (q : QueuedFault) : Local s (s.acceptFault q) := recordFault_local s q false

theorem queueFault_local (s : State) (q : QueuedFault) : Local s (s.queueFault q) := by
  unfold State.queueFault
  split
  · exact ⟨rfl, rfl⟩
  · exact recordFault_local s q true

theorem arriveFault_local (s : State) (q : QueuedFault) : Local s (s.arriveFault q) := by
  unfold State.arriveFault
  split
  · exact acceptFault_local s q
  · exact queueFault_local s q

theorem sense_local (s : State) (e : FaultEvent) : Local s (s.sense e) := by
  unfold State.sense
  refine Local.trans ?_ (faultReaction_local _ e)
  split <;> exact ⟨rfl, rfl⟩

theorem detect_local (s : State) (e : FaultEvent) : Local s (s.detect e) := (sense_local s e).trans (arriveFault_local _ _)

-- Operations of the L2 --------------------------------------------------------------------------------------------------

theorem listPoison_memOk (s : State) (line : Nat) (g : BitVec 8) (h : s.memOk) : (s.listPoison line g).memOk := by
  unfold State.listPoison
  split
  · exact h
  · split
    · exact h
    · exact (detect_local s _).memOk h

theorem listPoison_local (s : State) (line : Nat) (g : BitVec 8) :
    (s.listPoison line g).mem = s.mem ∧ (s.listPoison line g).l2.scratch = s.l2.scratch := by
  unfold State.listPoison
  split
  · exact ⟨rfl, rfl⟩
  · split
    · exact ⟨rfl, rfl⟩
    · have := detect_local s { plainFault 0x17 (sliceOf line) with access := 2, addr := BitVec.ofNat 48 (64 * line) }
      exact ⟨this.1, by rw [this.2]⟩

theorem memWrite_memOk (s : State) (line : Nat) (data : Line) (mask : BitVec 64) (h : s.memOk) : (s.memWrite line data mask).memOk :=
  ⟨cellsPutLine_wf _ _ _ _ h.1, h.2⟩

theorem writeBack_memOk (s : State) (x : L2Line) (h : s.memOk) : (s.writeBack x).memOk :=
  ⟨cellsPutLine_wf _ _ _ _ h.1, h.2⟩

theorem cleanLine_memOk (s : State) (line : Nat) (h : s.memOk) : (s.cleanLine line).memOk := by
  unfold State.cleanLine
  split
  · next x _ =>
    split
    · exact listPoison_memOk _ line x.poison (writeBack_memOk s x h)
    · exact h
  · exact h

theorem cleanLines_memOk (l : List Nat) (s : State) (h : s.memOk) : (s.cleanLines l).memOk :=
  foldl_keeps (P := State.memOk) cleanLine_memOk l s h

theorem cleanAll_memOk (s : State) (h : s.memOk) : s.cleanAll.memOk := cleanLines_memOk _ s h

theorem cleanHead_memOk (s : State) (slice : Nat) (h : s.memOk) : (s.cleanHead slice).memOk := by
  unfold State.cleanHead
  split
  · exact cleanLine_memOk s _ h
  · exact h

theorem evictLine_memOk (s : State) (line : Nat) (h : s.memOk) : (s.evictLine line).memOk := by
  unfold State.evictLine
  split
  · next x _ =>
    refine (dropL1d_local _ line none).memOk ?_
    refine listPoison_memOk _ line x.poison ?_
    split
    · exact writeBack_memOk s x h
    · exact h
  · exact h

theorem discardLine_memOk (s : State) (line : Nat) (h : s.memOk) : (s.discardLine line).memOk := by
  unfold State.discardLine
  split
  · exact h
  · exact (dropL1d_local _ line none).memOk h

theorem takeWay_memOk (s : State) (line : Nat) (h : s.memOk) : (s.takeWay line).1.memOk := by
  unfold State.takeWay
  extract_lets
  split
  · exact h
  · next s' _ _ _ =>
    have : s'.memOk := by
      simp only [s']
      split
      · exact evictLine_memOk s _ h
      · exact h
    exact this

theorem l2Fill_memOk (s : State) (line : Nat) (h : s.memOk) : (s.l2Fill line).memOk := by
  unfold State.l2Fill
  split
  · split <;> exact h
  · exact takeWay_memOk s line h

/-- The clean that makes room for a dirty line (R218). -/
theorem makeRoom_memOk (s : State) (slice : Nat) (c : Prop) [Decidable c] (h : s.memOk) :
    (if c then s.cleanHead slice else s).memOk := by
  split
  · exact cleanHead_memOk s slice h
  · exact h

theorem sliceWrite_memOk (s : State) (line : Nat) (data : Line) (mask : BitVec 64) (w : Option CoreId) (h : s.memOk) :
    (s.sliceWrite line data mask w).memOk := by
  unfold State.sliceWrite
  dsimp only
  split
  · exact (dropL1d_local _ line w).memOk ⟨h.1, cellsPutLine_wf _ _ _ _ h.2⟩
  · have hd := (dropL1d_local s line w).memOk h
    generalize s.dropL1d line w = t at hd ⊢
    have ht : ∀ b : Bool, (if b then
        State.memWrite { t with l2 := t.l2.unlist line (granulesCovered mask) } line data mask
      else { t with l2 := t.l2.unlist line (granulesCovered mask) } : State).memOk := by
      intro b
      cases b
      · exact hd
      · exact ⟨cellsPutLine_wf _ _ _ _ hd.1, hd.2⟩
    specialize ht t.ck.supEpisode
    revert ht
    generalize (if t.ck.supEpisode = true then _ else _ : State) = u
    intro ht
    split
    · split
      · exact ht
      · exact makeRoom_memOk _ _ _ ht
    · split
      · exact ht
      · exact takeWay_memOk _ _ (makeRoom_memOk _ _ _ ht)

theorem engineWrite_memOk (s : State) (line : Nat) (data : Line) (mask : BitVec 64) (h : s.memOk) :
    (s.engineWrite line data mask).memOk := by
  unfold State.engineWrite
  split
  · exact sliceWrite_memOk s line data mask none h
  · dsimp only
    refine (dropL1d_local _ line none).memOk ?_
    split
    · next x _ =>
      have k : ((if x.dirty then s.writeBack x else s).listPoison line (x.poison &&& ~~~granulesCovered mask)).memOk := by
        refine listPoison_memOk _ _ _ ?_
        split
        · exact writeBack_memOk s x h
        · exact h
      exact ⟨cellsPutLine_wf _ _ _ _ k.1, k.2⟩
    · exact ⟨cellsPutLine_wf _ _ _ _ h.1, h.2⟩

theorem engineStore_memOk (s : State) (a : Nat) (b : Blob) (h : s.memOk) : (s.engineStore a b).memOk := by
  unfold State.engineStore
  exact foldl_keeps (P := State.memOk) (fun t i ht => engineWrite_memOk t _ _ _ ht) _ s h

theorem engineWordPut_memOk (s : State) (a v : Nat) (h : s.memOk) : (s.engineWordPut a v).memOk := engineStore_memOk s a _ h

-- Whole-cache operations ------------------------------------------------------------------------------------------------

theorem invalidateAll_memOk (s : State) (h : s.memOk) : s.invalidateAll.memOk := by
  unfold State.invalidateAll
  exact foldl_keeps (P := State.memOk) (fun t l ht => (dropL1d_local t l none).memOk ht) _ _ h

theorem l2EnableInvalidate_memOk (s : State) (h : s.memOk) : s.l2EnableInvalidate.memOk := ⟨h.1, rfl⟩

theorem parityAction_memOk (s : State) (e : FaultEvent) (h : s.memOk) : (s.parityAction e).memOk := by
  unfold State.parityAction
  dsimp only
  split
  · exact h
  · split
    · split
      · split
        · exact h
        · exact (dropL1d_local _ _ none).memOk h
      · exact h
    · split
      · split
        · exact h
        · split
          · split <;> exact h
          · exact h
      · split
        · exact (dropL1d_local _ _ none).memOk h
        · exact h

end Sys2Proof.Laws
end

