-- ==== Sys2Proof/Laws/PerInstr.lean ====
section
/-! SUPPORT. The family RoundTrip: decoding the word of an instruction of a core gives the instruction back, one lemma for
each constructor. A command that is no instruction of a core has no word, and its lemma says nothing. -/

set_option linter.unusedSimpArgs false

namespace Sys2Proof.Laws.RoundTrip

/-- Decoding the word of an instruction, on the core that issues it and with the word after it, gives the instruction. -/
def Statement (i : Instr) : Prop :=
  ∀ (x : Issue) (w b : BitVec 32), i.issue = some x → encodeGregon i = some w → decodeGregon x.core w (i.bodyWord b) = some i

theorem unassignedMajor (core : CoreId) (word : BitVec 32) : Statement (.unassignedMajor core word) :=
  fun _ _ _ _ h => nomatch h

theorem add (x : Issue) (rd ra rb : Reg) : Statement (.add x rd ra rb) := by
  intro y w b hx hw
  obtain rfl : x = y := Option.some.inj hx
  obtain rfl : gregonWord x 0x00 (low3R rd ra rb 0x00) = w := Option.some.inj hw
  have b_rd := rd.isLt
  have b_ra := ra.isLt
  have b_rb := rb.isLt
  have hm : (0x00 : Nat) < 64 := by decide
  have hl : low3R rd ra rb 0x00 < 2 ^ 22 := by (simp only [low3R]; omega)
  have f0 := gregonWord_reg x _ _ 17 rd hm hl (by decide) (by (simp only [low3R]; omega))
  have f1 := gregonWord_reg x _ _ 12 ra hm hl (by decide) (by (simp only [low3R]; omega))
  have f2 := gregonWord_reg x _ _ 7 rb hm hl (by decide) (by (simp only [low3R]; omega))
  have f3 : wordField (gregonWord x 0x00 (low3R rd ra rb 0x00)) 6 0 = 0x00 := (gregonWord_low x _ _ 6 0 hm hl (by decide) (by decide)).trans (by (simp only [low3R]; omega))
  unfold decodeGregon
  simp only [gregonWord_sense x _ _ hm hl, gregonWord_pred x _ _ hm hl, gregonWord_major x _ _ hm hl, f0, f1, f2, f3]
  try rfl

theorem sub (x : Issue) (rd ra rb : Reg) : Statement (.sub x rd ra rb) := by
  intro y w b hx hw
  obtain rfl : x = y := Option.some.inj hx
  obtain rfl : gregonWord x 0x00 (low3R rd ra rb 0x01) = w := Option.some.inj hw
  have b_rd := rd.isLt
  have b_ra := ra.isLt
  have b_rb := rb.isLt
  have hm : (0x00 : Nat) < 64 := by decide
  have hl : low3R rd ra rb 0x01 < 2 ^ 22 := by (simp only [low3R]; omega)
  have f0 := gregonWord_reg x _ _ 17 rd hm hl (by decide) (by (simp only [low3R]; omega))
  have f1 := gregonWord_reg x _ _ 12 ra hm hl (by decide) (by (simp only [low3R]; omega))
  have f2 := gregonWord_reg x _ _ 7 rb hm hl (by decide) (by (simp only [low3R]; omega))
  have f3 : wordField (gregonWord x 0x00 (low3R rd ra rb 0x01)) 6 0 = 0x01 := (gregonWord_low x _ _ 6 0 hm hl (by decide) (by decide)).trans (by (simp only [low3R]; omega))
  unfold decodeGregon
  simp only [gregonWord_sense x _ _ hm hl, gregonWord_pred x _ _ hm hl, gregonWord_major x _ _ hm hl, f0, f1, f2, f3]
  try rfl

theorem and (x : Issue) (rd ra rb : Reg) : Statement (.and x rd ra rb) := by
  intro y w b hx hw
  obtain rfl : x = y := Option.some.inj hx
  obtain rfl : gregonWord x 0x00 (low3R rd ra rb 0x02) = w := Option.some.inj hw
  have b_rd := rd.isLt
  have b_ra := ra.isLt
  have b_rb := rb.isLt
  have hm : (0x00 : Nat) < 64 := by decide
  have hl : low3R rd ra rb 0x02 < 2 ^ 22 := by (simp only [low3R]; omega)
  have f0 := gregonWord_reg x _ _ 17 rd hm hl (by decide) (by (simp only [low3R]; omega))
  have f1 := gregonWord_reg x _ _ 12 ra hm hl (by decide) (by (simp only [low3R]; omega))
  have f2 := gregonWord_reg x _ _ 7 rb hm hl (by decide) (by (simp only [low3R]; omega))
  have f3 : wordField (gregonWord x 0x00 (low3R rd ra rb 0x02)) 6 0 = 0x02 := (gregonWord_low x _ _ 6 0 hm hl (by decide) (by decide)).trans (by (simp only [low3R]; omega))
  unfold decodeGregon
  simp only [gregonWord_sense x _ _ hm hl, gregonWord_pred x _ _ hm hl, gregonWord_major x _ _ hm hl, f0, f1, f2, f3]
  try rfl

theorem or (x : Issue) (rd ra rb : Reg) : Statement (.or x rd ra rb) := by
  intro y w b hx hw
  obtain rfl : x = y := Option.some.inj hx
  obtain rfl : gregonWord x 0x00 (low3R rd ra rb 0x03) = w := Option.some.inj hw
  have b_rd := rd.isLt
  have b_ra := ra.isLt
  have b_rb := rb.isLt
  have hm : (0x00 : Nat) < 64 := by decide
  have hl : low3R rd ra rb 0x03 < 2 ^ 22 := by (simp only [low3R]; omega)
  have f0 := gregonWord_reg x _ _ 17 rd hm hl (by decide) (by (simp only [low3R]; omega))
  have f1 := gregonWord_reg x _ _ 12 ra hm hl (by decide) (by (simp only [low3R]; omega))
  have f2 := gregonWord_reg x _ _ 7 rb hm hl (by decide) (by (simp only [low3R]; omega))
  have f3 : wordField (gregonWord x 0x00 (low3R rd ra rb 0x03)) 6 0 = 0x03 := (gregonWord_low x _ _ 6 0 hm hl (by decide) (by decide)).trans (by (simp only [low3R]; omega))
  unfold decodeGregon
  simp only [gregonWord_sense x _ _ hm hl, gregonWord_pred x _ _ hm hl, gregonWord_major x _ _ hm hl, f0, f1, f2, f3]
  try rfl

theorem xor (x : Issue) (rd ra rb : Reg) : Statement (.xor x rd ra rb) := by
  intro y w b hx hw
  obtain rfl : x = y := Option.some.inj hx
  obtain rfl : gregonWord x 0x00 (low3R rd ra rb 0x04) = w := Option.some.inj hw
  have b_rd := rd.isLt
  have b_ra := ra.isLt
  have b_rb := rb.isLt
  have hm : (0x00 : Nat) < 64 := by decide
  have hl : low3R rd ra rb 0x04 < 2 ^ 22 := by (simp only [low3R]; omega)
  have f0 := gregonWord_reg x _ _ 17 rd hm hl (by decide) (by (simp only [low3R]; omega))
  have f1 := gregonWord_reg x _ _ 12 ra hm hl (by decide) (by (simp only [low3R]; omega))
  have f2 := gregonWord_reg x _ _ 7 rb hm hl (by decide) (by (simp only [low3R]; omega))
  have f3 : wordField (gregonWord x 0x00 (low3R rd ra rb 0x04)) 6 0 = 0x04 := (gregonWord_low x _ _ 6 0 hm hl (by decide) (by decide)).trans (by (simp only [low3R]; omega))
  unfold decodeGregon
  simp only [gregonWord_sense x _ _ hm hl, gregonWord_pred x _ _ hm hl, gregonWord_major x _ _ hm hl, f0, f1, f2, f3]
  try rfl

theorem andn (x : Issue) (rd ra rb : Reg) : Statement (.andn x rd ra rb) := by
  intro y w b hx hw
  obtain rfl : x = y := Option.some.inj hx
  obtain rfl : gregonWord x 0x00 (low3R rd ra rb 0x05) = w := Option.some.inj hw
  have b_rd := rd.isLt
  have b_ra := ra.isLt
  have b_rb := rb.isLt
  have hm : (0x00 : Nat) < 64 := by decide
  have hl : low3R rd ra rb 0x05 < 2 ^ 22 := by (simp only [low3R]; omega)
  have f0 := gregonWord_reg x _ _ 17 rd hm hl (by decide) (by (simp only [low3R]; omega))
  have f1 := gregonWord_reg x _ _ 12 ra hm hl (by decide) (by (simp only [low3R]; omega))
  have f2 := gregonWord_reg x _ _ 7 rb hm hl (by decide) (by (simp only [low3R]; omega))
  have f3 : wordField (gregonWord x 0x00 (low3R rd ra rb 0x05)) 6 0 = 0x05 := (gregonWord_low x _ _ 6 0 hm hl (by decide) (by decide)).trans (by (simp only [low3R]; omega))
  unfold decodeGregon
  simp only [gregonWord_sense x _ _ hm hl, gregonWord_pred x _ _ hm hl, gregonWord_major x _ _ hm hl, f0, f1, f2, f3]
  try rfl

theorem sll (x : Issue) (rd ra rb : Reg) : Statement (.sll x rd ra rb) := by
  intro y w b hx hw
  obtain rfl : x = y := Option.some.inj hx
  obtain rfl : gregonWord x 0x00 (low3R rd ra rb 0x06) = w := Option.some.inj hw
  have b_rd := rd.isLt
  have b_ra := ra.isLt
  have b_rb := rb.isLt
  have hm : (0x00 : Nat) < 64 := by decide
  have hl : low3R rd ra rb 0x06 < 2 ^ 22 := by (simp only [low3R]; omega)
  have f0 := gregonWord_reg x _ _ 17 rd hm hl (by decide) (by (simp only [low3R]; omega))
  have f1 := gregonWord_reg x _ _ 12 ra hm hl (by decide) (by (simp only [low3R]; omega))
  have f2 := gregonWord_reg x _ _ 7 rb hm hl (by decide) (by (simp only [low3R]; omega))
  have f3 : wordField (gregonWord x 0x00 (low3R rd ra rb 0x06)) 6 0 = 0x06 := (gregonWord_low x _ _ 6 0 hm hl (by decide) (by decide)).trans (by (simp only [low3R]; omega))
  unfold decodeGregon
  simp only [gregonWord_sense x _ _ hm hl, gregonWord_pred x _ _ hm hl, gregonWord_major x _ _ hm hl, f0, f1, f2, f3]
  try rfl

theorem srl (x : Issue) (rd ra rb : Reg) : Statement (.srl x rd ra rb) := by
  intro y w b hx hw
  obtain rfl : x = y := Option.some.inj hx
  obtain rfl : gregonWord x 0x00 (low3R rd ra rb 0x07) = w := Option.some.inj hw
  have b_rd := rd.isLt
  have b_ra := ra.isLt
  have b_rb := rb.isLt
  have hm : (0x00 : Nat) < 64 := by decide
  have hl : low3R rd ra rb 0x07 < 2 ^ 22 := by (simp only [low3R]; omega)
  have f0 := gregonWord_reg x _ _ 17 rd hm hl (by decide) (by (simp only [low3R]; omega))
  have f1 := gregonWord_reg x _ _ 12 ra hm hl (by decide) (by (simp only [low3R]; omega))
  have f2 := gregonWord_reg x _ _ 7 rb hm hl (by decide) (by (simp only [low3R]; omega))
  have f3 : wordField (gregonWord x 0x00 (low3R rd ra rb 0x07)) 6 0 = 0x07 := (gregonWord_low x _ _ 6 0 hm hl (by decide) (by decide)).trans (by (simp only [low3R]; omega))
  unfold decodeGregon
  simp only [gregonWord_sense x _ _ hm hl, gregonWord_pred x _ _ hm hl, gregonWord_major x _ _ hm hl, f0, f1, f2, f3]
  try rfl

theorem sra (x : Issue) (rd ra rb : Reg) : Statement (.sra x rd ra rb) := by
  intro y w b hx hw
  obtain rfl : x = y := Option.some.inj hx
  obtain rfl : gregonWord x 0x00 (low3R rd ra rb 0x08) = w := Option.some.inj hw
  have b_rd := rd.isLt
  have b_ra := ra.isLt
  have b_rb := rb.isLt
  have hm : (0x00 : Nat) < 64 := by decide
  have hl : low3R rd ra rb 0x08 < 2 ^ 22 := by (simp only [low3R]; omega)
  have f0 := gregonWord_reg x _ _ 17 rd hm hl (by decide) (by (simp only [low3R]; omega))
  have f1 := gregonWord_reg x _ _ 12 ra hm hl (by decide) (by (simp only [low3R]; omega))
  have f2 := gregonWord_reg x _ _ 7 rb hm hl (by decide) (by (simp only [low3R]; omega))
  have f3 : wordField (gregonWord x 0x00 (low3R rd ra rb 0x08)) 6 0 = 0x08 := (gregonWord_low x _ _ 6 0 hm hl (by decide) (by decide)).trans (by (simp only [low3R]; omega))
  unfold decodeGregon
  simp only [gregonWord_sense x _ _ hm hl, gregonWord_pred x _ _ hm hl, gregonWord_major x _ _ hm hl, f0, f1, f2, f3]
  try rfl

theorem ror (x : Issue) (rd ra rb : Reg) : Statement (.ror x rd ra rb) := by
  intro y w b hx hw
  obtain rfl : x = y := Option.some.inj hx
  obtain rfl : gregonWord x 0x00 (low3R rd ra rb 0x09) = w := Option.some.inj hw
  have b_rd := rd.isLt
  have b_ra := ra.isLt
  have b_rb := rb.isLt
  have hm : (0x00 : Nat) < 64 := by decide
  have hl : low3R rd ra rb 0x09 < 2 ^ 22 := by (simp only [low3R]; omega)
  have f0 := gregonWord_reg x _ _ 17 rd hm hl (by decide) (by (simp only [low3R]; omega))
  have f1 := gregonWord_reg x _ _ 12 ra hm hl (by decide) (by (simp only [low3R]; omega))
  have f2 := gregonWord_reg x _ _ 7 rb hm hl (by decide) (by (simp only [low3R]; omega))
  have f3 : wordField (gregonWord x 0x00 (low3R rd ra rb 0x09)) 6 0 = 0x09 := (gregonWord_low x _ _ 6 0 hm hl (by decide) (by decide)).trans (by (simp only [low3R]; omega))
  unfold decodeGregon
  simp only [gregonWord_sense x _ _ hm hl, gregonWord_pred x _ _ hm hl, gregonWord_major x _ _ hm hl, f0, f1, f2, f3]
  try rfl

theorem min (x : Issue) (rd ra rb : Reg) : Statement (.min x rd ra rb) := by
  intro y w b hx hw
  obtain rfl : x = y := Option.some.inj hx
  obtain rfl : gregonWord x 0x00 (low3R rd ra rb 0x0A) = w := Option.some.inj hw
  have b_rd := rd.isLt
  have b_ra := ra.isLt
  have b_rb := rb.isLt
  have hm : (0x00 : Nat) < 64 := by decide
  have hl : low3R rd ra rb 0x0A < 2 ^ 22 := by (simp only [low3R]; omega)
  have f0 := gregonWord_reg x _ _ 17 rd hm hl (by decide) (by (simp only [low3R]; omega))
  have f1 := gregonWord_reg x _ _ 12 ra hm hl (by decide) (by (simp only [low3R]; omega))
  have f2 := gregonWord_reg x _ _ 7 rb hm hl (by decide) (by (simp only [low3R]; omega))
  have f3 : wordField (gregonWord x 0x00 (low3R rd ra rb 0x0A)) 6 0 = 0x0A := (gregonWord_low x _ _ 6 0 hm hl (by decide) (by decide)).trans (by (simp only [low3R]; omega))
  unfold decodeGregon
  simp only [gregonWord_sense x _ _ hm hl, gregonWord_pred x _ _ hm hl, gregonWord_major x _ _ hm hl, f0, f1, f2, f3]
  try rfl

theorem max (x : Issue) (rd ra rb : Reg) : Statement (.max x rd ra rb) := by
  intro y w b hx hw
  obtain rfl : x = y := Option.some.inj hx
  obtain rfl : gregonWord x 0x00 (low3R rd ra rb 0x0B) = w := Option.some.inj hw
  have b_rd := rd.isLt
  have b_ra := ra.isLt
  have b_rb := rb.isLt
  have hm : (0x00 : Nat) < 64 := by decide
  have hl : low3R rd ra rb 0x0B < 2 ^ 22 := by (simp only [low3R]; omega)
  have f0 := gregonWord_reg x _ _ 17 rd hm hl (by decide) (by (simp only [low3R]; omega))
  have f1 := gregonWord_reg x _ _ 12 ra hm hl (by decide) (by (simp only [low3R]; omega))
  have f2 := gregonWord_reg x _ _ 7 rb hm hl (by decide) (by (simp only [low3R]; omega))
  have f3 : wordField (gregonWord x 0x00 (low3R rd ra rb 0x0B)) 6 0 = 0x0B := (gregonWord_low x _ _ 6 0 hm hl (by decide) (by decide)).trans (by (simp only [low3R]; omega))
  unfold decodeGregon
  simp only [gregonWord_sense x _ _ hm hl, gregonWord_pred x _ _ hm hl, gregonWord_major x _ _ hm hl, f0, f1, f2, f3]
  try rfl

theorem minu (x : Issue) (rd ra rb : Reg) : Statement (.minu x rd ra rb) := by
  intro y w b hx hw
  obtain rfl : x = y := Option.some.inj hx
  obtain rfl : gregonWord x 0x00 (low3R rd ra rb 0x0C) = w := Option.some.inj hw
  have b_rd := rd.isLt
  have b_ra := ra.isLt
  have b_rb := rb.isLt
  have hm : (0x00 : Nat) < 64 := by decide
  have hl : low3R rd ra rb 0x0C < 2 ^ 22 := by (simp only [low3R]; omega)
  have f0 := gregonWord_reg x _ _ 17 rd hm hl (by decide) (by (simp only [low3R]; omega))
  have f1 := gregonWord_reg x _ _ 12 ra hm hl (by decide) (by (simp only [low3R]; omega))
  have f2 := gregonWord_reg x _ _ 7 rb hm hl (by decide) (by (simp only [low3R]; omega))
  have f3 : wordField (gregonWord x 0x00 (low3R rd ra rb 0x0C)) 6 0 = 0x0C := (gregonWord_low x _ _ 6 0 hm hl (by decide) (by decide)).trans (by (simp only [low3R]; omega))
  unfold decodeGregon
  simp only [gregonWord_sense x _ _ hm hl, gregonWord_pred x _ _ hm hl, gregonWord_major x _ _ hm hl, f0, f1, f2, f3]
  try rfl

theorem maxu (x : Issue) (rd ra rb : Reg) : Statement (.maxu x rd ra rb) := by
  intro y w b hx hw
  obtain rfl : x = y := Option.some.inj hx
  obtain rfl : gregonWord x 0x00 (low3R rd ra rb 0x0D) = w := Option.some.inj hw
  have b_rd := rd.isLt
  have b_ra := ra.isLt
  have b_rb := rb.isLt
  have hm : (0x00 : Nat) < 64 := by decide
  have hl : low3R rd ra rb 0x0D < 2 ^ 22 := by (simp only [low3R]; omega)
  have f0 := gregonWord_reg x _ _ 17 rd hm hl (by decide) (by (simp only [low3R]; omega))
  have f1 := gregonWord_reg x _ _ 12 ra hm hl (by decide) (by (simp only [low3R]; omega))
  have f2 := gregonWord_reg x _ _ 7 rb hm hl (by decide) (by (simp only [low3R]; omega))
  have f3 : wordField (gregonWord x 0x00 (low3R rd ra rb 0x0D)) 6 0 = 0x0D := (gregonWord_low x _ _ 6 0 hm hl (by decide) (by decide)).trans (by (simp only [low3R]; omega))
  unfold decodeGregon
  simp only [gregonWord_sense x _ _ hm hl, gregonWord_pred x _ _ hm hl, gregonWord_major x _ _ hm hl, f0, f1, f2, f3]
  try rfl

theorem addw (x : Issue) (rd ra rb : Reg) : Statement (.addw x rd ra rb) := by
  intro y w b hx hw
  obtain rfl : x = y := Option.some.inj hx
  obtain rfl : gregonWord x 0x00 (low3R rd ra rb 0x10) = w := Option.some.inj hw
  have b_rd := rd.isLt
  have b_ra := ra.isLt
  have b_rb := rb.isLt
  have hm : (0x00 : Nat) < 64 := by decide
  have hl : low3R rd ra rb 0x10 < 2 ^ 22 := by (simp only [low3R]; omega)
  have f0 := gregonWord_reg x _ _ 17 rd hm hl (by decide) (by (simp only [low3R]; omega))
  have f1 := gregonWord_reg x _ _ 12 ra hm hl (by decide) (by (simp only [low3R]; omega))
  have f2 := gregonWord_reg x _ _ 7 rb hm hl (by decide) (by (simp only [low3R]; omega))
  have f3 : wordField (gregonWord x 0x00 (low3R rd ra rb 0x10)) 6 0 = 0x10 := (gregonWord_low x _ _ 6 0 hm hl (by decide) (by decide)).trans (by (simp only [low3R]; omega))
  unfold decodeGregon
  simp only [gregonWord_sense x _ _ hm hl, gregonWord_pred x _ _ hm hl, gregonWord_major x _ _ hm hl, f0, f1, f2, f3]
  try rfl

theorem subw (x : Issue) (rd ra rb : Reg) : Statement (.subw x rd ra rb) := by
  intro y w b hx hw
  obtain rfl : x = y := Option.some.inj hx
  obtain rfl : gregonWord x 0x00 (low3R rd ra rb 0x11) = w := Option.some.inj hw
  have b_rd := rd.isLt
  have b_ra := ra.isLt
  have b_rb := rb.isLt
  have hm : (0x00 : Nat) < 64 := by decide
  have hl : low3R rd ra rb 0x11 < 2 ^ 22 := by (simp only [low3R]; omega)
  have f0 := gregonWord_reg x _ _ 17 rd hm hl (by decide) (by (simp only [low3R]; omega))
  have f1 := gregonWord_reg x _ _ 12 ra hm hl (by decide) (by (simp only [low3R]; omega))
  have f2 := gregonWord_reg x _ _ 7 rb hm hl (by decide) (by (simp only [low3R]; omega))
  have f3 : wordField (gregonWord x 0x00 (low3R rd ra rb 0x11)) 6 0 = 0x11 := (gregonWord_low x _ _ 6 0 hm hl (by decide) (by decide)).trans (by (simp only [low3R]; omega))
  unfold decodeGregon
  simp only [gregonWord_sense x _ _ hm hl, gregonWord_pred x _ _ hm hl, gregonWord_major x _ _ hm hl, f0, f1, f2, f3]
  try rfl

theorem sllw (x : Issue) (rd ra rb : Reg) : Statement (.sllw x rd ra rb) := by
  intro y w b hx hw
  obtain rfl : x = y := Option.some.inj hx
  obtain rfl : gregonWord x 0x00 (low3R rd ra rb 0x16) = w := Option.some.inj hw
  have b_rd := rd.isLt
  have b_ra := ra.isLt
  have b_rb := rb.isLt
  have hm : (0x00 : Nat) < 64 := by decide
  have hl : low3R rd ra rb 0x16 < 2 ^ 22 := by (simp only [low3R]; omega)
  have f0 := gregonWord_reg x _ _ 17 rd hm hl (by decide) (by (simp only [low3R]; omega))
  have f1 := gregonWord_reg x _ _ 12 ra hm hl (by decide) (by (simp only [low3R]; omega))
  have f2 := gregonWord_reg x _ _ 7 rb hm hl (by decide) (by (simp only [low3R]; omega))
  have f3 : wordField (gregonWord x 0x00 (low3R rd ra rb 0x16)) 6 0 = 0x16 := (gregonWord_low x _ _ 6 0 hm hl (by decide) (by decide)).trans (by (simp only [low3R]; omega))
  unfold decodeGregon
  simp only [gregonWord_sense x _ _ hm hl, gregonWord_pred x _ _ hm hl, gregonWord_major x _ _ hm hl, f0, f1, f2, f3]
  try rfl

theorem srlw (x : Issue) (rd ra rb : Reg) : Statement (.srlw x rd ra rb) := by
  intro y w b hx hw
  obtain rfl : x = y := Option.some.inj hx
  obtain rfl : gregonWord x 0x00 (low3R rd ra rb 0x17) = w := Option.some.inj hw
  have b_rd := rd.isLt
  have b_ra := ra.isLt
  have b_rb := rb.isLt
  have hm : (0x00 : Nat) < 64 := by decide
  have hl : low3R rd ra rb 0x17 < 2 ^ 22 := by (simp only [low3R]; omega)
  have f0 := gregonWord_reg x _ _ 17 rd hm hl (by decide) (by (simp only [low3R]; omega))
  have f1 := gregonWord_reg x _ _ 12 ra hm hl (by decide) (by (simp only [low3R]; omega))
  have f2 := gregonWord_reg x _ _ 7 rb hm hl (by decide) (by (simp only [low3R]; omega))
  have f3 : wordField (gregonWord x 0x00 (low3R rd ra rb 0x17)) 6 0 = 0x17 := (gregonWord_low x _ _ 6 0 hm hl (by decide) (by decide)).trans (by (simp only [low3R]; omega))
  unfold decodeGregon
  simp only [gregonWord_sense x _ _ hm hl, gregonWord_pred x _ _ hm hl, gregonWord_major x _ _ hm hl, f0, f1, f2, f3]
  try rfl

theorem sraw (x : Issue) (rd ra rb : Reg) : Statement (.sraw x rd ra rb) := by
  intro y w b hx hw
  obtain rfl : x = y := Option.some.inj hx
  obtain rfl : gregonWord x 0x00 (low3R rd ra rb 0x18) = w := Option.some.inj hw
  have b_rd := rd.isLt
  have b_ra := ra.isLt
  have b_rb := rb.isLt
  have hm : (0x00 : Nat) < 64 := by decide
  have hl : low3R rd ra rb 0x18 < 2 ^ 22 := by (simp only [low3R]; omega)
  have f0 := gregonWord_reg x _ _ 17 rd hm hl (by decide) (by (simp only [low3R]; omega))
  have f1 := gregonWord_reg x _ _ 12 ra hm hl (by decide) (by (simp only [low3R]; omega))
  have f2 := gregonWord_reg x _ _ 7 rb hm hl (by decide) (by (simp only [low3R]; omega))
  have f3 : wordField (gregonWord x 0x00 (low3R rd ra rb 0x18)) 6 0 = 0x18 := (gregonWord_low x _ _ 6 0 hm hl (by decide) (by decide)).trans (by (simp only [low3R]; omega))
  unfold decodeGregon
  simp only [gregonWord_sense x _ _ hm hl, gregonWord_pred x _ _ hm hl, gregonWord_major x _ _ hm hl, f0, f1, f2, f3]
  try rfl

theorem addi (x : Issue) (rd ra : Reg) (imm : BitVec 12) : Statement (.addi x rd ra imm) := by
  intro y w b hx hw
  obtain rfl : x = y := Option.some.inj hx
  obtain rfl : gregonWord x 0x01 (lowRI rd ra imm.toNat) = w := Option.some.inj hw
  have b_rd := rd.isLt
  have b_ra := ra.isLt
  have b_imm := imm.isLt
  have hm : (0x01 : Nat) < 64 := by decide
  have hl : lowRI rd ra imm.toNat < 2 ^ 22 := by (simp only [lowRI]; omega)
  have f0 := gregonWord_reg x _ _ 17 rd hm hl (by decide) (by (simp only [lowRI]; omega))
  have f1 := gregonWord_reg x _ _ 12 ra hm hl (by decide) (by (simp only [lowRI]; omega))
  have f2 := gregonWord_imm x _ _ imm hm hl (by decide) (by (simp only [lowRI]; omega))
  unfold decodeGregon
  simp only [gregonWord_sense x _ _ hm hl, gregonWord_pred x _ _ hm hl, gregonWord_major x _ _ hm hl, f0, f1, f2]
  try rfl

theorem andi (x : Issue) (rd ra : Reg) (imm : BitVec 12) : Statement (.andi x rd ra imm) := by
  intro y w b hx hw
  obtain rfl : x = y := Option.some.inj hx
  obtain rfl : gregonWord x 0x02 (lowRI rd ra imm.toNat) = w := Option.some.inj hw
  have b_rd := rd.isLt
  have b_ra := ra.isLt
  have b_imm := imm.isLt
  have hm : (0x02 : Nat) < 64 := by decide
  have hl : lowRI rd ra imm.toNat < 2 ^ 22 := by (simp only [lowRI]; omega)
  have f0 := gregonWord_reg x _ _ 17 rd hm hl (by decide) (by (simp only [lowRI]; omega))
  have f1 := gregonWord_reg x _ _ 12 ra hm hl (by decide) (by (simp only [lowRI]; omega))
  have f2 := gregonWord_imm x _ _ imm hm hl (by decide) (by (simp only [lowRI]; omega))
  unfold decodeGregon
  simp only [gregonWord_sense x _ _ hm hl, gregonWord_pred x _ _ hm hl, gregonWord_major x _ _ hm hl, f0, f1, f2]
  try rfl

theorem ori (x : Issue) (rd ra : Reg) (imm : BitVec 12) : Statement (.ori x rd ra imm) := by
  intro y w b hx hw
  obtain rfl : x = y := Option.some.inj hx
  obtain rfl : gregonWord x 0x03 (lowRI rd ra imm.toNat) = w := Option.some.inj hw
  have b_rd := rd.isLt
  have b_ra := ra.isLt
  have b_imm := imm.isLt
  have hm : (0x03 : Nat) < 64 := by decide
  have hl : lowRI rd ra imm.toNat < 2 ^ 22 := by (simp only [lowRI]; omega)
  have f0 := gregonWord_reg x _ _ 17 rd hm hl (by decide) (by (simp only [lowRI]; omega))
  have f1 := gregonWord_reg x _ _ 12 ra hm hl (by decide) (by (simp only [lowRI]; omega))
  have f2 := gregonWord_imm x _ _ imm hm hl (by decide) (by (simp only [lowRI]; omega))
  unfold decodeGregon
  simp only [gregonWord_sense x _ _ hm hl, gregonWord_pred x _ _ hm hl, gregonWord_major x _ _ hm hl, f0, f1, f2]
  try rfl

theorem xori (x : Issue) (rd ra : Reg) (imm : BitVec 12) : Statement (.xori x rd ra imm) := by
  intro y w b hx hw
  obtain rfl : x = y := Option.some.inj hx
  obtain rfl : gregonWord x 0x04 (lowRI rd ra imm.toNat) = w := Option.some.inj hw
  have b_rd := rd.isLt
  have b_ra := ra.isLt
  have b_imm := imm.isLt
  have hm : (0x04 : Nat) < 64 := by decide
  have hl : lowRI rd ra imm.toNat < 2 ^ 22 := by (simp only [lowRI]; omega)
  have f0 := gregonWord_reg x _ _ 17 rd hm hl (by decide) (by (simp only [lowRI]; omega))
  have f1 := gregonWord_reg x _ _ 12 ra hm hl (by decide) (by (simp only [lowRI]; omega))
  have f2 := gregonWord_imm x _ _ imm hm hl (by decide) (by (simp only [lowRI]; omega))
  unfold decodeGregon
  simp only [gregonWord_sense x _ _ hm hl, gregonWord_pred x _ _ hm hl, gregonWord_major x _ _ hm hl, f0, f1, f2]
  try rfl

theorem slli (x : Issue) (rd ra : Reg) (sh : BitVec 6) : Statement (.slli x rd ra sh) := by
  intro y w b hx hw
  obtain rfl : x = y := Option.some.inj hx
  obtain rfl : gregonWord x 0x05 (lowRI rd ra (2 ^ 6 * sh.toNat + 0)) = w := Option.some.inj hw
  have b_rd := rd.isLt
  have b_ra := ra.isLt
  have b_sh := sh.isLt
  have hm : (0x05 : Nat) < 64 := by decide
  have hl : lowRI rd ra (2 ^ 6 * sh.toNat + 0) < 2 ^ 22 := by (simp only [lowRI]; omega)
  have f0 := gregonWord_reg x _ _ 17 rd hm hl (by decide) (by (simp only [lowRI]; omega))
  have f1 := gregonWord_reg x _ _ 12 ra hm hl (by decide) (by (simp only [lowRI]; omega))
  have f2 : wordField (gregonWord x 0x05 (lowRI rd ra (2 ^ 6 * sh.toNat + 0))) 5 2 = 0 := (gregonWord_low x _ _ 5 2 hm hl (by decide) (by decide)).trans (by (simp only [lowRI]; omega))
  have f3 : wordField (gregonWord x 0x05 (lowRI rd ra (2 ^ 6 * sh.toNat + 0))) 1 0 = 0 := (gregonWord_low x _ _ 1 0 hm hl (by decide) (by decide)).trans (by (simp only [lowRI]; omega))
  have f4 : BitVec.ofNat 6 (wordField (gregonWord x 0x05 (lowRI rd ra (2 ^ 6 * sh.toNat + 0))) 11 6) = sh := ofNat_eq sh _ ((gregonWord_low x _ _ 11 6 hm hl (by decide) (by decide)).trans (by (simp only [lowRI]; omega)))
  unfold decodeGregon
  simp only [gregonWord_sense x _ _ hm hl, gregonWord_pred x _ _ hm hl, gregonWord_major x _ _ hm hl, f0, f1, f2, f3, f4]
  try rfl

theorem srli (x : Issue) (rd ra : Reg) (sh : BitVec 6) : Statement (.srli x rd ra sh) := by
  intro y w b hx hw
  obtain rfl : x = y := Option.some.inj hx
  obtain rfl : gregonWord x 0x05 (lowRI rd ra (2 ^ 6 * sh.toNat + 1)) = w := Option.some.inj hw
  have b_rd := rd.isLt
  have b_ra := ra.isLt
  have b_sh := sh.isLt
  have hm : (0x05 : Nat) < 64 := by decide
  have hl : lowRI rd ra (2 ^ 6 * sh.toNat + 1) < 2 ^ 22 := by (simp only [lowRI]; omega)
  have f0 := gregonWord_reg x _ _ 17 rd hm hl (by decide) (by (simp only [lowRI]; omega))
  have f1 := gregonWord_reg x _ _ 12 ra hm hl (by decide) (by (simp only [lowRI]; omega))
  have f2 : wordField (gregonWord x 0x05 (lowRI rd ra (2 ^ 6 * sh.toNat + 1))) 5 2 = 0 := (gregonWord_low x _ _ 5 2 hm hl (by decide) (by decide)).trans (by (simp only [lowRI]; omega))
  have f3 : wordField (gregonWord x 0x05 (lowRI rd ra (2 ^ 6 * sh.toNat + 1))) 1 0 = 1 := (gregonWord_low x _ _ 1 0 hm hl (by decide) (by decide)).trans (by (simp only [lowRI]; omega))
  have f4 : BitVec.ofNat 6 (wordField (gregonWord x 0x05 (lowRI rd ra (2 ^ 6 * sh.toNat + 1))) 11 6) = sh := ofNat_eq sh _ ((gregonWord_low x _ _ 11 6 hm hl (by decide) (by decide)).trans (by (simp only [lowRI]; omega)))
  unfold decodeGregon
  simp only [gregonWord_sense x _ _ hm hl, gregonWord_pred x _ _ hm hl, gregonWord_major x _ _ hm hl, f0, f1, f2, f3, f4]
  try rfl

theorem srai (x : Issue) (rd ra : Reg) (sh : BitVec 6) : Statement (.srai x rd ra sh) := by
  intro y w b hx hw
  obtain rfl : x = y := Option.some.inj hx
  obtain rfl : gregonWord x 0x05 (lowRI rd ra (2 ^ 6 * sh.toNat + 2)) = w := Option.some.inj hw
  have b_rd := rd.isLt
  have b_ra := ra.isLt
  have b_sh := sh.isLt
  have hm : (0x05 : Nat) < 64 := by decide
  have hl : lowRI rd ra (2 ^ 6 * sh.toNat + 2) < 2 ^ 22 := by (simp only [lowRI]; omega)
  have f0 := gregonWord_reg x _ _ 17 rd hm hl (by decide) (by (simp only [lowRI]; omega))
  have f1 := gregonWord_reg x _ _ 12 ra hm hl (by decide) (by (simp only [lowRI]; omega))
  have f2 : wordField (gregonWord x 0x05 (lowRI rd ra (2 ^ 6 * sh.toNat + 2))) 5 2 = 0 := (gregonWord_low x _ _ 5 2 hm hl (by decide) (by decide)).trans (by (simp only [lowRI]; omega))
  have f3 : wordField (gregonWord x 0x05 (lowRI rd ra (2 ^ 6 * sh.toNat + 2))) 1 0 = 2 := (gregonWord_low x _ _ 1 0 hm hl (by decide) (by decide)).trans (by (simp only [lowRI]; omega))
  have f4 : BitVec.ofNat 6 (wordField (gregonWord x 0x05 (lowRI rd ra (2 ^ 6 * sh.toNat + 2))) 11 6) = sh := ofNat_eq sh _ ((gregonWord_low x _ _ 11 6 hm hl (by decide) (by decide)).trans (by (simp only [lowRI]; omega)))
  unfold decodeGregon
  simp only [gregonWord_sense x _ _ hm hl, gregonWord_pred x _ _ hm hl, gregonWord_major x _ _ hm hl, f0, f1, f2, f3, f4]
  try rfl

theorem rori (x : Issue) (rd ra : Reg) (sh : BitVec 6) : Statement (.rori x rd ra sh) := by
  intro y w b hx hw
  obtain rfl : x = y := Option.some.inj hx
  obtain rfl : gregonWord x 0x05 (lowRI rd ra (2 ^ 6 * sh.toNat + 3)) = w := Option.some.inj hw
  have b_rd := rd.isLt
  have b_ra := ra.isLt
  have b_sh := sh.isLt
  have hm : (0x05 : Nat) < 64 := by decide
  have hl : lowRI rd ra (2 ^ 6 * sh.toNat + 3) < 2 ^ 22 := by (simp only [lowRI]; omega)
  have f0 := gregonWord_reg x _ _ 17 rd hm hl (by decide) (by (simp only [lowRI]; omega))
  have f1 := gregonWord_reg x _ _ 12 ra hm hl (by decide) (by (simp only [lowRI]; omega))
  have f2 : wordField (gregonWord x 0x05 (lowRI rd ra (2 ^ 6 * sh.toNat + 3))) 5 2 = 0 := (gregonWord_low x _ _ 5 2 hm hl (by decide) (by decide)).trans (by (simp only [lowRI]; omega))
  have f3 : wordField (gregonWord x 0x05 (lowRI rd ra (2 ^ 6 * sh.toNat + 3))) 1 0 = 3 := (gregonWord_low x _ _ 1 0 hm hl (by decide) (by decide)).trans (by (simp only [lowRI]; omega))
  have f4 : BitVec.ofNat 6 (wordField (gregonWord x 0x05 (lowRI rd ra (2 ^ 6 * sh.toNat + 3))) 11 6) = sh := ofNat_eq sh _ ((gregonWord_low x _ _ 11 6 hm hl (by decide) (by decide)).trans (by (simp only [lowRI]; omega)))
  unfold decodeGregon
  simp only [gregonWord_sense x _ _ hm hl, gregonWord_pred x _ _ hm hl, gregonWord_major x _ _ hm hl, f0, f1, f2, f3, f4]
  try rfl

theorem movi (x : Issue) (rd : Reg) (imm : BitVec 17) : Statement (.movi x rd imm) := by
  intro y w b hx hw
  obtain rfl : x = y := Option.some.inj hx
  obtain rfl : gregonWord x 0x06 (2 ^ 17 * rd.val + imm.toNat) = w := Option.some.inj hw
  have b_rd := rd.isLt
  have b_imm := imm.isLt
  have hm : (0x06 : Nat) < 64 := by decide
  have hl : 2 ^ 17 * rd.val + imm.toNat < 2 ^ 22 := by (omega)
  have f0 := gregonWord_reg x _ _ 17 rd hm hl (by decide) (by (omega))
  have f1 := gregonWord_imm x _ _ imm hm hl (by decide) (by (omega))
  unfold decodeGregon
  simp only [gregonWord_sense x _ _ hm hl, gregonWord_pred x _ _ hm hl, gregonWord_major x _ _ hm hl, f0, f1]
  try rfl

theorem orsh (x : Issue) (rd : Reg) (imm : BitVec 16) : Statement (.orsh x rd imm) := by
  intro y w b hx hw
  obtain rfl : x = y := Option.some.inj hx
  obtain rfl : gregonWord x 0x07 (2 ^ 17 * rd.val + imm.toNat) = w := Option.some.inj hw
  have b_rd := rd.isLt
  have b_imm := imm.isLt
  have hm : (0x07 : Nat) < 64 := by decide
  have hl : 2 ^ 17 * rd.val + imm.toNat < 2 ^ 22 := by (omega)
  have f0 := gregonWord_reg x _ _ 17 rd hm hl (by decide) (by (omega))
  have f1 : wordField (gregonWord x 0x07 (2 ^ 17 * rd.val + imm.toNat)) 16 16 = 0 := (gregonWord_low x _ _ 16 16 hm hl (by decide) (by decide)).trans (by (omega))
  have f2 := gregonWord_imm x _ _ imm hm hl (by decide) (by (omega))
  unfold decodeGregon
  simp only [gregonWord_sense x _ _ hm hl, gregonWord_pred x _ _ hm hl, gregonWord_major x _ _ hm hl, f0, f1, f2]
  try rfl

theorem mul (x : Issue) (rd ra rb : Reg) : Statement (.mul x rd ra rb) := by
  intro y w b hx hw
  obtain rfl : x = y := Option.some.inj hx
  obtain rfl : gregonWord x 0x08 (low3R rd ra rb 0) = w := Option.some.inj hw
  have b_rd := rd.isLt
  have b_ra := ra.isLt
  have b_rb := rb.isLt
  have hm : (0x08 : Nat) < 64 := by decide
  have hl : low3R rd ra rb 0 < 2 ^ 22 := by (simp only [low3R]; omega)
  have f0 := gregonWord_reg x _ _ 17 rd hm hl (by decide) (by (simp only [low3R]; omega))
  have f1 := gregonWord_reg x _ _ 12 ra hm hl (by decide) (by (simp only [low3R]; omega))
  have f2 := gregonWord_reg x _ _ 7 rb hm hl (by decide) (by (simp only [low3R]; omega))
  have f3 : wordField (gregonWord x 0x08 (low3R rd ra rb 0)) 6 0 = 0 := (gregonWord_low x _ _ 6 0 hm hl (by decide) (by decide)).trans (by (simp only [low3R]; omega))
  unfold decodeGregon
  simp only [gregonWord_sense x _ _ hm hl, gregonWord_pred x _ _ hm hl, gregonWord_major x _ _ hm hl, f0, f1, f2, f3]
  try rfl

theorem mulh (x : Issue) (rd ra rb : Reg) : Statement (.mulh x rd ra rb) := by
  intro y w b hx hw
  obtain rfl : x = y := Option.some.inj hx
  obtain rfl : gregonWord x 0x08 (low3R rd ra rb 1) = w := Option.some.inj hw
  have b_rd := rd.isLt
  have b_ra := ra.isLt
  have b_rb := rb.isLt
  have hm : (0x08 : Nat) < 64 := by decide
  have hl : low3R rd ra rb 1 < 2 ^ 22 := by (simp only [low3R]; omega)
  have f0 := gregonWord_reg x _ _ 17 rd hm hl (by decide) (by (simp only [low3R]; omega))
  have f1 := gregonWord_reg x _ _ 12 ra hm hl (by decide) (by (simp only [low3R]; omega))
  have f2 := gregonWord_reg x _ _ 7 rb hm hl (by decide) (by (simp only [low3R]; omega))
  have f3 : wordField (gregonWord x 0x08 (low3R rd ra rb 1)) 6 0 = 1 := (gregonWord_low x _ _ 6 0 hm hl (by decide) (by decide)).trans (by (simp only [low3R]; omega))
  unfold decodeGregon
  simp only [gregonWord_sense x _ _ hm hl, gregonWord_pred x _ _ hm hl, gregonWord_major x _ _ hm hl, f0, f1, f2, f3]
  try rfl

theorem mulhu (x : Issue) (rd ra rb : Reg) : Statement (.mulhu x rd ra rb) := by
  intro y w b hx hw
  obtain rfl : x = y := Option.some.inj hx
  obtain rfl : gregonWord x 0x08 (low3R rd ra rb 2) = w := Option.some.inj hw
  have b_rd := rd.isLt
  have b_ra := ra.isLt
  have b_rb := rb.isLt
  have hm : (0x08 : Nat) < 64 := by decide
  have hl : low3R rd ra rb 2 < 2 ^ 22 := by (simp only [low3R]; omega)
  have f0 := gregonWord_reg x _ _ 17 rd hm hl (by decide) (by (simp only [low3R]; omega))
  have f1 := gregonWord_reg x _ _ 12 ra hm hl (by decide) (by (simp only [low3R]; omega))
  have f2 := gregonWord_reg x _ _ 7 rb hm hl (by decide) (by (simp only [low3R]; omega))
  have f3 : wordField (gregonWord x 0x08 (low3R rd ra rb 2)) 6 0 = 2 := (gregonWord_low x _ _ 6 0 hm hl (by decide) (by decide)).trans (by (simp only [low3R]; omega))
  unfold decodeGregon
  simp only [gregonWord_sense x _ _ hm hl, gregonWord_pred x _ _ hm hl, gregonWord_major x _ _ hm hl, f0, f1, f2, f3]
  try rfl

theorem mulw (x : Issue) (rd ra rb : Reg) : Statement (.mulw x rd ra rb) := by
  intro y w b hx hw
  obtain rfl : x = y := Option.some.inj hx
  obtain rfl : gregonWord x 0x08 (low3R rd ra rb 3) = w := Option.some.inj hw
  have b_rd := rd.isLt
  have b_ra := ra.isLt
  have b_rb := rb.isLt
  have hm : (0x08 : Nat) < 64 := by decide
  have hl : low3R rd ra rb 3 < 2 ^ 22 := by (simp only [low3R]; omega)
  have f0 := gregonWord_reg x _ _ 17 rd hm hl (by decide) (by (simp only [low3R]; omega))
  have f1 := gregonWord_reg x _ _ 12 ra hm hl (by decide) (by (simp only [low3R]; omega))
  have f2 := gregonWord_reg x _ _ 7 rb hm hl (by decide) (by (simp only [low3R]; omega))
  have f3 : wordField (gregonWord x 0x08 (low3R rd ra rb 3)) 6 0 = 3 := (gregonWord_low x _ _ 6 0 hm hl (by decide) (by decide)).trans (by (simp only [low3R]; omega))
  unfold decodeGregon
  simp only [gregonWord_sense x _ _ hm hl, gregonWord_pred x _ _ hm hl, gregonWord_major x _ _ hm hl, f0, f1, f2, f3]
  try rfl

theorem div (x : Issue) (rd ra rb : Reg) : Statement (.div x rd ra rb) := by
  intro y w b hx hw
  obtain rfl : x = y := Option.some.inj hx
  obtain rfl : gregonWord x 0x09 (low3R rd ra rb 0) = w := Option.some.inj hw
  have b_rd := rd.isLt
  have b_ra := ra.isLt
  have b_rb := rb.isLt
  have hm : (0x09 : Nat) < 64 := by decide
  have hl : low3R rd ra rb 0 < 2 ^ 22 := by (simp only [low3R]; omega)
  have f0 := gregonWord_reg x _ _ 17 rd hm hl (by decide) (by (simp only [low3R]; omega))
  have f1 := gregonWord_reg x _ _ 12 ra hm hl (by decide) (by (simp only [low3R]; omega))
  have f2 := gregonWord_reg x _ _ 7 rb hm hl (by decide) (by (simp only [low3R]; omega))
  have f3 : wordField (gregonWord x 0x09 (low3R rd ra rb 0)) 6 0 = 0 := (gregonWord_low x _ _ 6 0 hm hl (by decide) (by decide)).trans (by (simp only [low3R]; omega))
  unfold decodeGregon
  simp only [gregonWord_sense x _ _ hm hl, gregonWord_pred x _ _ hm hl, gregonWord_major x _ _ hm hl, f0, f1, f2, f3]
  try rfl

theorem divu (x : Issue) (rd ra rb : Reg) : Statement (.divu x rd ra rb) := by
  intro y w b hx hw
  obtain rfl : x = y := Option.some.inj hx
  obtain rfl : gregonWord x 0x09 (low3R rd ra rb 1) = w := Option.some.inj hw
  have b_rd := rd.isLt
  have b_ra := ra.isLt
  have b_rb := rb.isLt
  have hm : (0x09 : Nat) < 64 := by decide
  have hl : low3R rd ra rb 1 < 2 ^ 22 := by (simp only [low3R]; omega)
  have f0 := gregonWord_reg x _ _ 17 rd hm hl (by decide) (by (simp only [low3R]; omega))
  have f1 := gregonWord_reg x _ _ 12 ra hm hl (by decide) (by (simp only [low3R]; omega))
  have f2 := gregonWord_reg x _ _ 7 rb hm hl (by decide) (by (simp only [low3R]; omega))
  have f3 : wordField (gregonWord x 0x09 (low3R rd ra rb 1)) 6 0 = 1 := (gregonWord_low x _ _ 6 0 hm hl (by decide) (by decide)).trans (by (simp only [low3R]; omega))
  unfold decodeGregon
  simp only [gregonWord_sense x _ _ hm hl, gregonWord_pred x _ _ hm hl, gregonWord_major x _ _ hm hl, f0, f1, f2, f3]
  try rfl

theorem rem (x : Issue) (rd ra rb : Reg) : Statement (.rem x rd ra rb) := by
  intro y w b hx hw
  obtain rfl : x = y := Option.some.inj hx
  obtain rfl : gregonWord x 0x09 (low3R rd ra rb 2) = w := Option.some.inj hw
  have b_rd := rd.isLt
  have b_ra := ra.isLt
  have b_rb := rb.isLt
  have hm : (0x09 : Nat) < 64 := by decide
  have hl : low3R rd ra rb 2 < 2 ^ 22 := by (simp only [low3R]; omega)
  have f0 := gregonWord_reg x _ _ 17 rd hm hl (by decide) (by (simp only [low3R]; omega))
  have f1 := gregonWord_reg x _ _ 12 ra hm hl (by decide) (by (simp only [low3R]; omega))
  have f2 := gregonWord_reg x _ _ 7 rb hm hl (by decide) (by (simp only [low3R]; omega))
  have f3 : wordField (gregonWord x 0x09 (low3R rd ra rb 2)) 6 0 = 2 := (gregonWord_low x _ _ 6 0 hm hl (by decide) (by decide)).trans (by (simp only [low3R]; omega))
  unfold decodeGregon
  simp only [gregonWord_sense x _ _ hm hl, gregonWord_pred x _ _ hm hl, gregonWord_major x _ _ hm hl, f0, f1, f2, f3]
  try rfl

theorem remu (x : Issue) (rd ra rb : Reg) : Statement (.remu x rd ra rb) := by
  intro y w b hx hw
  obtain rfl : x = y := Option.some.inj hx
  obtain rfl : gregonWord x 0x09 (low3R rd ra rb 3) = w := Option.some.inj hw
  have b_rd := rd.isLt
  have b_ra := ra.isLt
  have b_rb := rb.isLt
  have hm : (0x09 : Nat) < 64 := by decide
  have hl : low3R rd ra rb 3 < 2 ^ 22 := by (simp only [low3R]; omega)
  have f0 := gregonWord_reg x _ _ 17 rd hm hl (by decide) (by (simp only [low3R]; omega))
  have f1 := gregonWord_reg x _ _ 12 ra hm hl (by decide) (by (simp only [low3R]; omega))
  have f2 := gregonWord_reg x _ _ 7 rb hm hl (by decide) (by (simp only [low3R]; omega))
  have f3 : wordField (gregonWord x 0x09 (low3R rd ra rb 3)) 6 0 = 3 := (gregonWord_low x _ _ 6 0 hm hl (by decide) (by decide)).trans (by (simp only [low3R]; omega))
  unfold decodeGregon
  simp only [gregonWord_sense x _ _ hm hl, gregonWord_pred x _ _ hm hl, gregonWord_major x _ _ hm hl, f0, f1, f2, f3]
  try rfl

theorem divw (x : Issue) (rd ra rb : Reg) : Statement (.divw x rd ra rb) := by
  intro y w b hx hw
  obtain rfl : x = y := Option.some.inj hx
  obtain rfl : gregonWord x 0x09 (low3R rd ra rb 4) = w := Option.some.inj hw
  have b_rd := rd.isLt
  have b_ra := ra.isLt
  have b_rb := rb.isLt
  have hm : (0x09 : Nat) < 64 := by decide
  have hl : low3R rd ra rb 4 < 2 ^ 22 := by (simp only [low3R]; omega)
  have f0 := gregonWord_reg x _ _ 17 rd hm hl (by decide) (by (simp only [low3R]; omega))
  have f1 := gregonWord_reg x _ _ 12 ra hm hl (by decide) (by (simp only [low3R]; omega))
  have f2 := gregonWord_reg x _ _ 7 rb hm hl (by decide) (by (simp only [low3R]; omega))
  have f3 : wordField (gregonWord x 0x09 (low3R rd ra rb 4)) 6 0 = 4 := (gregonWord_low x _ _ 6 0 hm hl (by decide) (by decide)).trans (by (simp only [low3R]; omega))
  unfold decodeGregon
  simp only [gregonWord_sense x _ _ hm hl, gregonWord_pred x _ _ hm hl, gregonWord_major x _ _ hm hl, f0, f1, f2, f3]
  try rfl

theorem divuw (x : Issue) (rd ra rb : Reg) : Statement (.divuw x rd ra rb) := by
  intro y w b hx hw
  obtain rfl : x = y := Option.some.inj hx
  obtain rfl : gregonWord x 0x09 (low3R rd ra rb 5) = w := Option.some.inj hw
  have b_rd := rd.isLt
  have b_ra := ra.isLt
  have b_rb := rb.isLt
  have hm : (0x09 : Nat) < 64 := by decide
  have hl : low3R rd ra rb 5 < 2 ^ 22 := by (simp only [low3R]; omega)
  have f0 := gregonWord_reg x _ _ 17 rd hm hl (by decide) (by (simp only [low3R]; omega))
  have f1 := gregonWord_reg x _ _ 12 ra hm hl (by decide) (by (simp only [low3R]; omega))
  have f2 := gregonWord_reg x _ _ 7 rb hm hl (by decide) (by (simp only [low3R]; omega))
  have f3 : wordField (gregonWord x 0x09 (low3R rd ra rb 5)) 6 0 = 5 := (gregonWord_low x _ _ 6 0 hm hl (by decide) (by decide)).trans (by (simp only [low3R]; omega))
  unfold decodeGregon
  simp only [gregonWord_sense x _ _ hm hl, gregonWord_pred x _ _ hm hl, gregonWord_major x _ _ hm hl, f0, f1, f2, f3]
  try rfl

theorem remw (x : Issue) (rd ra rb : Reg) : Statement (.remw x rd ra rb) := by
  intro y w b hx hw
  obtain rfl : x = y := Option.some.inj hx
  obtain rfl : gregonWord x 0x09 (low3R rd ra rb 6) = w := Option.some.inj hw
  have b_rd := rd.isLt
  have b_ra := ra.isLt
  have b_rb := rb.isLt
  have hm : (0x09 : Nat) < 64 := by decide
  have hl : low3R rd ra rb 6 < 2 ^ 22 := by (simp only [low3R]; omega)
  have f0 := gregonWord_reg x _ _ 17 rd hm hl (by decide) (by (simp only [low3R]; omega))
  have f1 := gregonWord_reg x _ _ 12 ra hm hl (by decide) (by (simp only [low3R]; omega))
  have f2 := gregonWord_reg x _ _ 7 rb hm hl (by decide) (by (simp only [low3R]; omega))
  have f3 : wordField (gregonWord x 0x09 (low3R rd ra rb 6)) 6 0 = 6 := (gregonWord_low x _ _ 6 0 hm hl (by decide) (by decide)).trans (by (simp only [low3R]; omega))
  unfold decodeGregon
  simp only [gregonWord_sense x _ _ hm hl, gregonWord_pred x _ _ hm hl, gregonWord_major x _ _ hm hl, f0, f1, f2, f3]
  try rfl

theorem remuw (x : Issue) (rd ra rb : Reg) : Statement (.remuw x rd ra rb) := by
  intro y w b hx hw
  obtain rfl : x = y := Option.some.inj hx
  obtain rfl : gregonWord x 0x09 (low3R rd ra rb 7) = w := Option.some.inj hw
  have b_rd := rd.isLt
  have b_ra := ra.isLt
  have b_rb := rb.isLt
  have hm : (0x09 : Nat) < 64 := by decide
  have hl : low3R rd ra rb 7 < 2 ^ 22 := by (simp only [low3R]; omega)
  have f0 := gregonWord_reg x _ _ 17 rd hm hl (by decide) (by (simp only [low3R]; omega))
  have f1 := gregonWord_reg x _ _ 12 ra hm hl (by decide) (by (simp only [low3R]; omega))
  have f2 := gregonWord_reg x _ _ 7 rb hm hl (by decide) (by (simp only [low3R]; omega))
  have f3 : wordField (gregonWord x 0x09 (low3R rd ra rb 7)) 6 0 = 7 := (gregonWord_low x _ _ 6 0 hm hl (by decide) (by decide)).trans (by (simp only [low3R]; omega))
  unfold decodeGregon
  simp only [gregonWord_sense x _ _ hm hl, gregonWord_pred x _ _ hm hl, gregonWord_major x _ _ hm hl, f0, f1, f2, f3]
  try rfl

theorem cmp (x : Issue) (pd : PReg) (ra rb : Reg) (cond : Cond) : Statement (.cmp x pd ra rb cond) := by
  intro y w b hx hw
  obtain rfl : x = y := Option.some.inj hx
  obtain rfl : gregonWord x 0x0A (2 ^ 19 * pd.val + 2 ^ 14 * ra.val + 2 ^ 9 * rb.val + condCode cond) = w := Option.some.inj hw
  have b_pd := pd.isLt
  have b_ra := ra.isLt
  have b_rb := rb.isLt
  have b_cond := condCode_lt cond
  have hm : (0x0A : Nat) < 64 := by decide
  have hl : 2 ^ 19 * pd.val + 2 ^ 14 * ra.val + 2 ^ 9 * rb.val + condCode cond < 2 ^ 22 := by (omega)
  have f0 : wordField (gregonWord x 0x0A (2 ^ 19 * pd.val + 2 ^ 14 * ra.val + 2 ^ 9 * rb.val + condCode cond)) 8 4 = 0 := (gregonWord_low x _ _ 8 4 hm hl (by decide) (by decide)).trans (by (omega))
  have f1 : wordField (gregonWord x 0x0A (2 ^ 19 * pd.val + 2 ^ 14 * ra.val + 2 ^ 9 * rb.val + condCode cond)) 3 0 = condCode cond := (gregonWord_low x _ _ 3 0 hm hl (by decide) (by decide)).trans (by (omega))
  have f2 : pregField (gregonWord x 0x0A (2 ^ 19 * pd.val + 2 ^ 14 * ra.val + 2 ^ 9 * rb.val + condCode cond)) 19 = pd := gregonWord_fin8 x _ _ 19 _ hm hl (by decide) (by (omega))
  have f3 := gregonWord_reg x _ _ 14 ra hm hl (by decide) (by (omega))
  have f4 := gregonWord_reg x _ _ 9 rb hm hl (by decide) (by (omega))
  unfold decodeGregon
  simp only [gregonWord_sense x _ _ hm hl, gregonWord_pred x _ _ hm hl, gregonWord_major x _ _ hm hl, f0, f1, f2, f3, f4]
  simp [condField_code]

theorem cmpi (x : Issue) (pd : PReg) (ra : Reg) (imm : BitVec 10) (cond : Cond) : Statement (.cmpi x pd ra imm cond) := by
  intro y w b hx hw
  obtain rfl : x = y := Option.some.inj hx
  obtain rfl : gregonWord x 0x0B (2 ^ 19 * pd.val + 2 ^ 14 * ra.val + 2 ^ 4 * imm.toNat + condCode cond) = w := Option.some.inj hw
  have b_pd := pd.isLt
  have b_ra := ra.isLt
  have b_imm := imm.isLt
  have b_cond := condCode_lt cond
  have hm : (0x0B : Nat) < 64 := by decide
  have hl : 2 ^ 19 * pd.val + 2 ^ 14 * ra.val + 2 ^ 4 * imm.toNat + condCode cond < 2 ^ 22 := by (omega)
  have f0 : wordField (gregonWord x 0x0B (2 ^ 19 * pd.val + 2 ^ 14 * ra.val + 2 ^ 4 * imm.toNat + condCode cond)) 3 0 = condCode cond := (gregonWord_low x _ _ 3 0 hm hl (by decide) (by decide)).trans (by (omega))
  have f1 : pregField (gregonWord x 0x0B (2 ^ 19 * pd.val + 2 ^ 14 * ra.val + 2 ^ 4 * imm.toNat + condCode cond)) 19 = pd := gregonWord_fin8 x _ _ 19 _ hm hl (by decide) (by (omega))
  have f2 := gregonWord_reg x _ _ 14 ra hm hl (by decide) (by (omega))
  have f3 : BitVec.ofNat 10 (wordField (gregonWord x 0x0B (2 ^ 19 * pd.val + 2 ^ 14 * ra.val + 2 ^ 4 * imm.toNat + condCode cond)) 13 4) = imm := ofNat_eq imm _ ((gregonWord_low x _ _ 13 4 hm hl (by decide) (by decide)).trans (by (omega)))
  unfold decodeGregon
  simp only [gregonWord_sense x _ _ hm hl, gregonWord_pred x _ _ hm hl, gregonWord_major x _ _ hm hl, f0, f1, f2, f3]
  simp [condField_code]

theorem pand (x : Issue) (pd pa pb : PReg) : Statement (.pand x pd pa pb) := by
  intro y w b hx hw
  obtain rfl : x = y := Option.some.inj hx
  obtain rfl : gregonWord x 0x0C (lowP pd pa pb 0) = w := Option.some.inj hw
  have b_pd := pd.isLt
  have b_pa := pa.isLt
  have b_pb := pb.isLt
  have hm : (0x0C : Nat) < 64 := by decide
  have hl : lowP pd pa pb 0 < 2 ^ 22 := by (simp only [lowP]; omega)
  have f0 : pregField (gregonWord x 0x0C (lowP pd pa pb 0)) 19 = pd := gregonWord_fin8 x _ _ 19 _ hm hl (by decide) (by (simp only [lowP]; omega))
  have f1 : pregField (gregonWord x 0x0C (lowP pd pa pb 0)) 16 = pa := gregonWord_fin8 x _ _ 16 _ hm hl (by decide) (by (simp only [lowP]; omega))
  have f2 : pregField (gregonWord x 0x0C (lowP pd pa pb 0)) 13 = pb := gregonWord_fin8 x _ _ 13 _ hm hl (by decide) (by (simp only [lowP]; omega))
  have f3 : wordField (gregonWord x 0x0C (lowP pd pa pb 0)) 12 4 = 0 := (gregonWord_low x _ _ 12 4 hm hl (by decide) (by decide)).trans (by (simp only [lowP]; omega))
  have f4 : wordField (gregonWord x 0x0C (lowP pd pa pb 0)) 3 0 = 0 := (gregonWord_low x _ _ 3 0 hm hl (by decide) (by decide)).trans (by (simp only [lowP]; omega))
  unfold decodeGregon
  simp only [gregonWord_sense x _ _ hm hl, gregonWord_pred x _ _ hm hl, gregonWord_major x _ _ hm hl, f0, f1, f2, f3, f4]
  try rfl

theorem por (x : Issue) (pd pa pb : PReg) : Statement (.por x pd pa pb) := by
  intro y w b hx hw
  obtain rfl : x = y := Option.some.inj hx
  obtain rfl : gregonWord x 0x0C (lowP pd pa pb 1) = w := Option.some.inj hw
  have b_pd := pd.isLt
  have b_pa := pa.isLt
  have b_pb := pb.isLt
  have hm : (0x0C : Nat) < 64 := by decide
  have hl : lowP pd pa pb 1 < 2 ^ 22 := by (simp only [lowP]; omega)
  have f0 : pregField (gregonWord x 0x0C (lowP pd pa pb 1)) 19 = pd := gregonWord_fin8 x _ _ 19 _ hm hl (by decide) (by (simp only [lowP]; omega))
  have f1 : pregField (gregonWord x 0x0C (lowP pd pa pb 1)) 16 = pa := gregonWord_fin8 x _ _ 16 _ hm hl (by decide) (by (simp only [lowP]; omega))
  have f2 : pregField (gregonWord x 0x0C (lowP pd pa pb 1)) 13 = pb := gregonWord_fin8 x _ _ 13 _ hm hl (by decide) (by (simp only [lowP]; omega))
  have f3 : wordField (gregonWord x 0x0C (lowP pd pa pb 1)) 12 4 = 0 := (gregonWord_low x _ _ 12 4 hm hl (by decide) (by decide)).trans (by (simp only [lowP]; omega))
  have f4 : wordField (gregonWord x 0x0C (lowP pd pa pb 1)) 3 0 = 1 := (gregonWord_low x _ _ 3 0 hm hl (by decide) (by decide)).trans (by (simp only [lowP]; omega))
  unfold decodeGregon
  simp only [gregonWord_sense x _ _ hm hl, gregonWord_pred x _ _ hm hl, gregonWord_major x _ _ hm hl, f0, f1, f2, f3, f4]
  try rfl

theorem pxor (x : Issue) (pd pa pb : PReg) : Statement (.pxor x pd pa pb) := by
  intro y w b hx hw
  obtain rfl : x = y := Option.some.inj hx
  obtain rfl : gregonWord x 0x0C (lowP pd pa pb 2) = w := Option.some.inj hw
  have b_pd := pd.isLt
  have b_pa := pa.isLt
  have b_pb := pb.isLt
  have hm : (0x0C : Nat) < 64 := by decide
  have hl : lowP pd pa pb 2 < 2 ^ 22 := by (simp only [lowP]; omega)
  have f0 : pregField (gregonWord x 0x0C (lowP pd pa pb 2)) 19 = pd := gregonWord_fin8 x _ _ 19 _ hm hl (by decide) (by (simp only [lowP]; omega))
  have f1 : pregField (gregonWord x 0x0C (lowP pd pa pb 2)) 16 = pa := gregonWord_fin8 x _ _ 16 _ hm hl (by decide) (by (simp only [lowP]; omega))
  have f2 : pregField (gregonWord x 0x0C (lowP pd pa pb 2)) 13 = pb := gregonWord_fin8 x _ _ 13 _ hm hl (by decide) (by (simp only [lowP]; omega))
  have f3 : wordField (gregonWord x 0x0C (lowP pd pa pb 2)) 12 4 = 0 := (gregonWord_low x _ _ 12 4 hm hl (by decide) (by decide)).trans (by (simp only [lowP]; omega))
  have f4 : wordField (gregonWord x 0x0C (lowP pd pa pb 2)) 3 0 = 2 := (gregonWord_low x _ _ 3 0 hm hl (by decide) (by decide)).trans (by (simp only [lowP]; omega))
  unfold decodeGregon
  simp only [gregonWord_sense x _ _ hm hl, gregonWord_pred x _ _ hm hl, gregonWord_major x _ _ hm hl, f0, f1, f2, f3, f4]
  try rfl

theorem pandn (x : Issue) (pd pa pb : PReg) : Statement (.pandn x pd pa pb) := by
  intro y w b hx hw
  obtain rfl : x = y := Option.some.inj hx
  obtain rfl : gregonWord x 0x0C (lowP pd pa pb 3) = w := Option.some.inj hw
  have b_pd := pd.isLt
  have b_pa := pa.isLt
  have b_pb := pb.isLt
  have hm : (0x0C : Nat) < 64 := by decide
  have hl : lowP pd pa pb 3 < 2 ^ 22 := by (simp only [lowP]; omega)
  have f0 : pregField (gregonWord x 0x0C (lowP pd pa pb 3)) 19 = pd := gregonWord_fin8 x _ _ 19 _ hm hl (by decide) (by (simp only [lowP]; omega))
  have f1 : pregField (gregonWord x 0x0C (lowP pd pa pb 3)) 16 = pa := gregonWord_fin8 x _ _ 16 _ hm hl (by decide) (by (simp only [lowP]; omega))
  have f2 : pregField (gregonWord x 0x0C (lowP pd pa pb 3)) 13 = pb := gregonWord_fin8 x _ _ 13 _ hm hl (by decide) (by (simp only [lowP]; omega))
  have f3 : wordField (gregonWord x 0x0C (lowP pd pa pb 3)) 12 4 = 0 := (gregonWord_low x _ _ 12 4 hm hl (by decide) (by decide)).trans (by (simp only [lowP]; omega))
  have f4 : wordField (gregonWord x 0x0C (lowP pd pa pb 3)) 3 0 = 3 := (gregonWord_low x _ _ 3 0 hm hl (by decide) (by decide)).trans (by (simp only [lowP]; omega))
  unfold decodeGregon
  simp only [gregonWord_sense x _ _ hm hl, gregonWord_pred x _ _ hm hl, gregonWord_major x _ _ hm hl, f0, f1, f2, f3, f4]
  try rfl

theorem pnot (x : Issue) (pd pa : PReg) : Statement (.pnot x pd pa) := by
  intro y w b hx hw
  obtain rfl : x = y := Option.some.inj hx
  obtain rfl : gregonWord x 0x0C (lowP pd pa 0 4) = w := Option.some.inj hw
  have b_pd := pd.isLt
  have b_pa := pa.isLt
  have hm : (0x0C : Nat) < 64 := by decide
  have hl : lowP pd pa 0 4 < 2 ^ 22 := by (simp only [lowP]; omega)
  have f0 : pregField (gregonWord x 0x0C (lowP pd pa 0 4)) 19 = pd := gregonWord_fin8 x _ _ 19 _ hm hl (by decide) (by (simp only [lowP]; omega))
  have f1 : pregField (gregonWord x 0x0C (lowP pd pa 0 4)) 16 = pa := gregonWord_fin8 x _ _ 16 _ hm hl (by decide) (by (simp only [lowP]; omega))
  have f2 : pregField (gregonWord x 0x0C (lowP pd pa 0 4)) 13 = 0 := gregonWord_fin8 x _ _ 13 _ hm hl (by decide) (by (simp only [lowP]; omega))
  have f3 : wordField (gregonWord x 0x0C (lowP pd pa 0 4)) 12 4 = 0 := (gregonWord_low x _ _ 12 4 hm hl (by decide) (by decide)).trans (by (simp only [lowP]; omega))
  have f4 : wordField (gregonWord x 0x0C (lowP pd pa 0 4)) 3 0 = 4 := (gregonWord_low x _ _ 3 0 hm hl (by decide) (by decide)).trans (by (simp only [lowP]; omega))
  unfold decodeGregon
  simp only [gregonWord_sense x _ _ hm hl, gregonWord_pred x _ _ hm hl, gregonWord_major x _ _ hm hl, f0, f1, f2, f3, f4]
  try rfl

theorem clz (x : Issue) (rd ra : Reg) : Statement (.clz x rd ra) := by
  intro y w b hx hw
  obtain rfl : x = y := Option.some.inj hx
  obtain rfl : gregonWord x 0x0D (low3R rd ra 0 0) = w := Option.some.inj hw
  have b_rd := rd.isLt
  have b_ra := ra.isLt
  have hm : (0x0D : Nat) < 64 := by decide
  have hl : low3R rd ra 0 0 < 2 ^ 22 := by (simp only [low3R]; omega)
  have f0 := gregonWord_reg x _ _ 17 rd hm hl (by decide) (by (simp only [low3R]; omega))
  have f1 := gregonWord_reg x _ _ 12 ra hm hl (by decide) (by (simp only [low3R]; omega))
  have f2 := gregonWord_reg x _ _ 7 (0 : Reg) hm hl (by decide) (by (simp only [low3R]; omega))
  have f3 : wordField (gregonWord x 0x0D (low3R rd ra 0 0)) 6 0 = 0 := (gregonWord_low x _ _ 6 0 hm hl (by decide) (by decide)).trans (by (simp only [low3R]; omega))
  unfold decodeGregon
  simp only [gregonWord_sense x _ _ hm hl, gregonWord_pred x _ _ hm hl, gregonWord_major x _ _ hm hl, f0, f1, f2, f3]
  try rfl

theorem ctz (x : Issue) (rd ra : Reg) : Statement (.ctz x rd ra) := by
  intro y w b hx hw
  obtain rfl : x = y := Option.some.inj hx
  obtain rfl : gregonWord x 0x0D (low3R rd ra 0 1) = w := Option.some.inj hw
  have b_rd := rd.isLt
  have b_ra := ra.isLt
  have hm : (0x0D : Nat) < 64 := by decide
  have hl : low3R rd ra 0 1 < 2 ^ 22 := by (simp only [low3R]; omega)
  have f0 := gregonWord_reg x _ _ 17 rd hm hl (by decide) (by (simp only [low3R]; omega))
  have f1 := gregonWord_reg x _ _ 12 ra hm hl (by decide) (by (simp only [low3R]; omega))
  have f2 := gregonWord_reg x _ _ 7 (0 : Reg) hm hl (by decide) (by (simp only [low3R]; omega))
  have f3 : wordField (gregonWord x 0x0D (low3R rd ra 0 1)) 6 0 = 1 := (gregonWord_low x _ _ 6 0 hm hl (by decide) (by decide)).trans (by (simp only [low3R]; omega))
  unfold decodeGregon
  simp only [gregonWord_sense x _ _ hm hl, gregonWord_pred x _ _ hm hl, gregonWord_major x _ _ hm hl, f0, f1, f2, f3]
  try rfl

theorem popc (x : Issue) (rd ra : Reg) : Statement (.popc x rd ra) := by
  intro y w b hx hw
  obtain rfl : x = y := Option.some.inj hx
  obtain rfl : gregonWord x 0x0D (low3R rd ra 0 2) = w := Option.some.inj hw
  have b_rd := rd.isLt
  have b_ra := ra.isLt
  have hm : (0x0D : Nat) < 64 := by decide
  have hl : low3R rd ra 0 2 < 2 ^ 22 := by (simp only [low3R]; omega)
  have f0 := gregonWord_reg x _ _ 17 rd hm hl (by decide) (by (simp only [low3R]; omega))
  have f1 := gregonWord_reg x _ _ 12 ra hm hl (by decide) (by (simp only [low3R]; omega))
  have f2 := gregonWord_reg x _ _ 7 (0 : Reg) hm hl (by decide) (by (simp only [low3R]; omega))
  have f3 : wordField (gregonWord x 0x0D (low3R rd ra 0 2)) 6 0 = 2 := (gregonWord_low x _ _ 6 0 hm hl (by decide) (by decide)).trans (by (simp only [low3R]; omega))
  unfold decodeGregon
  simp only [gregonWord_sense x _ _ hm hl, gregonWord_pred x _ _ hm hl, gregonWord_major x _ _ hm hl, f0, f1, f2, f3]
  try rfl

theorem bswap (x : Issue) (rd ra : Reg) : Statement (.bswap x rd ra) := by
  intro y w b hx hw
  obtain rfl : x = y := Option.some.inj hx
  obtain rfl : gregonWord x 0x0D (low3R rd ra 0 3) = w := Option.some.inj hw
  have b_rd := rd.isLt
  have b_ra := ra.isLt
  have hm : (0x0D : Nat) < 64 := by decide
  have hl : low3R rd ra 0 3 < 2 ^ 22 := by (simp only [low3R]; omega)
  have f0 := gregonWord_reg x _ _ 17 rd hm hl (by decide) (by (simp only [low3R]; omega))
  have f1 := gregonWord_reg x _ _ 12 ra hm hl (by decide) (by (simp only [low3R]; omega))
  have f2 := gregonWord_reg x _ _ 7 (0 : Reg) hm hl (by decide) (by (simp only [low3R]; omega))
  have f3 : wordField (gregonWord x 0x0D (low3R rd ra 0 3)) 6 0 = 3 := (gregonWord_low x _ _ 6 0 hm hl (by decide) (by decide)).trans (by (simp only [low3R]; omega))
  unfold decodeGregon
  simp only [gregonWord_sense x _ _ hm hl, gregonWord_pred x _ _ hm hl, gregonWord_major x _ _ hm hl, f0, f1, f2, f3]
  try rfl

theorem sextb (x : Issue) (rd ra : Reg) : Statement (.sextb x rd ra) := by
  intro y w b hx hw
  obtain rfl : x = y := Option.some.inj hx
  obtain rfl : gregonWord x 0x0D (low3R rd ra 0 4) = w := Option.some.inj hw
  have b_rd := rd.isLt
  have b_ra := ra.isLt
  have hm : (0x0D : Nat) < 64 := by decide
  have hl : low3R rd ra 0 4 < 2 ^ 22 := by (simp only [low3R]; omega)
  have f0 := gregonWord_reg x _ _ 17 rd hm hl (by decide) (by (simp only [low3R]; omega))
  have f1 := gregonWord_reg x _ _ 12 ra hm hl (by decide) (by (simp only [low3R]; omega))
  have f2 := gregonWord_reg x _ _ 7 (0 : Reg) hm hl (by decide) (by (simp only [low3R]; omega))
  have f3 : wordField (gregonWord x 0x0D (low3R rd ra 0 4)) 6 0 = 4 := (gregonWord_low x _ _ 6 0 hm hl (by decide) (by decide)).trans (by (simp only [low3R]; omega))
  unfold decodeGregon
  simp only [gregonWord_sense x _ _ hm hl, gregonWord_pred x _ _ hm hl, gregonWord_major x _ _ hm hl, f0, f1, f2, f3]
  try rfl

theorem sexth (x : Issue) (rd ra : Reg) : Statement (.sexth x rd ra) := by
  intro y w b hx hw
  obtain rfl : x = y := Option.some.inj hx
  obtain rfl : gregonWord x 0x0D (low3R rd ra 0 5) = w := Option.some.inj hw
  have b_rd := rd.isLt
  have b_ra := ra.isLt
  have hm : (0x0D : Nat) < 64 := by decide
  have hl : low3R rd ra 0 5 < 2 ^ 22 := by (simp only [low3R]; omega)
  have f0 := gregonWord_reg x _ _ 17 rd hm hl (by decide) (by (simp only [low3R]; omega))
  have f1 := gregonWord_reg x _ _ 12 ra hm hl (by decide) (by (simp only [low3R]; omega))
  have f2 := gregonWord_reg x _ _ 7 (0 : Reg) hm hl (by decide) (by (simp only [low3R]; omega))
  have f3 : wordField (gregonWord x 0x0D (low3R rd ra 0 5)) 6 0 = 5 := (gregonWord_low x _ _ 6 0 hm hl (by decide) (by decide)).trans (by (simp only [low3R]; omega))
  unfold decodeGregon
  simp only [gregonWord_sense x _ _ hm hl, gregonWord_pred x _ _ hm hl, gregonWord_major x _ _ hm hl, f0, f1, f2, f3]
  try rfl

theorem sextw (x : Issue) (rd ra : Reg) : Statement (.sextw x rd ra) := by
  intro y w b hx hw
  obtain rfl : x = y := Option.some.inj hx
  obtain rfl : gregonWord x 0x0D (low3R rd ra 0 6) = w := Option.some.inj hw
  have b_rd := rd.isLt
  have b_ra := ra.isLt
  have hm : (0x0D : Nat) < 64 := by decide
  have hl : low3R rd ra 0 6 < 2 ^ 22 := by (simp only [low3R]; omega)
  have f0 := gregonWord_reg x _ _ 17 rd hm hl (by decide) (by (simp only [low3R]; omega))
  have f1 := gregonWord_reg x _ _ 12 ra hm hl (by decide) (by (simp only [low3R]; omega))
  have f2 := gregonWord_reg x _ _ 7 (0 : Reg) hm hl (by decide) (by (simp only [low3R]; omega))
  have f3 : wordField (gregonWord x 0x0D (low3R rd ra 0 6)) 6 0 = 6 := (gregonWord_low x _ _ 6 0 hm hl (by decide) (by decide)).trans (by (simp only [low3R]; omega))
  unfold decodeGregon
  simp only [gregonWord_sense x _ _ hm hl, gregonWord_pred x _ _ hm hl, gregonWord_major x _ _ hm hl, f0, f1, f2, f3]
  try rfl

theorem zextw (x : Issue) (rd ra : Reg) : Statement (.zextw x rd ra) := by
  intro y w b hx hw
  obtain rfl : x = y := Option.some.inj hx
  obtain rfl : gregonWord x 0x0D (low3R rd ra 0 7) = w := Option.some.inj hw
  have b_rd := rd.isLt
  have b_ra := ra.isLt
  have hm : (0x0D : Nat) < 64 := by decide
  have hl : low3R rd ra 0 7 < 2 ^ 22 := by (simp only [low3R]; omega)
  have f0 := gregonWord_reg x _ _ 17 rd hm hl (by decide) (by (simp only [low3R]; omega))
  have f1 := gregonWord_reg x _ _ 12 ra hm hl (by decide) (by (simp only [low3R]; omega))
  have f2 := gregonWord_reg x _ _ 7 (0 : Reg) hm hl (by decide) (by (simp only [low3R]; omega))
  have f3 : wordField (gregonWord x 0x0D (low3R rd ra 0 7)) 6 0 = 7 := (gregonWord_low x _ _ 6 0 hm hl (by decide) (by decide)).trans (by (simp only [low3R]; omega))
  unfold decodeGregon
  simp only [gregonWord_sense x _ _ hm hl, gregonWord_pred x _ _ hm hl, gregonWord_major x _ _ hm hl, f0, f1, f2, f3]
  try rfl

theorem sel (x : Issue) (rd ra rb : Reg) (ps : PReg) : Statement (.sel x rd ra rb ps) := by
  intro y w b hx hw
  obtain rfl : x = y := Option.some.inj hx
  obtain rfl : gregonWord x 0x0E (low3R rd ra rb (2 ^ 4 * ps.val)) = w := Option.some.inj hw
  have b_rd := rd.isLt
  have b_ra := ra.isLt
  have b_rb := rb.isLt
  have b_ps := ps.isLt
  have hm : (0x0E : Nat) < 64 := by decide
  have hl : low3R rd ra rb (2 ^ 4 * ps.val) < 2 ^ 22 := by (simp only [low3R]; omega)
  have f0 := gregonWord_reg x _ _ 17 rd hm hl (by decide) (by (simp only [low3R]; omega))
  have f1 := gregonWord_reg x _ _ 12 ra hm hl (by decide) (by (simp only [low3R]; omega))
  have f2 := gregonWord_reg x _ _ 7 rb hm hl (by decide) (by (simp only [low3R]; omega))
  have f3 : wordField (gregonWord x 0x0E (low3R rd ra rb (2 ^ 4 * ps.val))) 6 0 = (2 ^ 4 * ps.val) := (gregonWord_low x _ _ 6 0 hm hl (by decide) (by decide)).trans (by (simp only [low3R]; omega))
  unfold decodeGregon
  simp only [gregonWord_sense x _ _ hm hl, gregonWord_pred x _ _ hm hl, gregonWord_major x _ _ hm hl, f0, f1, f2, f3]
  have e : 2 ^ 4 * ps.val / 16 = ps.val := by omega
  have e2 : 2 ^ 4 * ps.val % 16 = 0 := by omega
  rw [if_pos e2, e]
  congr 2
  exact Fin.ext (Nat.mod_eq_of_lt b_ps)

theorem ldu (x : Issue) (rd ra : Reg) (size : Size) (imm : BitVec 10) : Statement (.ldu x rd ra size imm) := by
  intro y w b hx hw
  obtain rfl : x = y := Option.some.inj hx
  obtain rfl : gregonWord x 0x10 (lowRI rd ra (2 ^ 10 * sizeCode size + imm.toNat)) = w := Option.some.inj hw
  have b_rd := rd.isLt
  have b_ra := ra.isLt
  have b_size := sizeCode_lt size
  have b_imm := imm.isLt
  have hm : (0x10 : Nat) < 64 := by decide
  have hl : lowRI rd ra (2 ^ 10 * sizeCode size + imm.toNat) < 2 ^ 22 := by (simp only [lowRI]; omega)
  have f0 := gregonWord_reg x _ _ 17 rd hm hl (by decide) (by (simp only [lowRI]; omega))
  have f1 := gregonWord_reg x _ _ 12 ra hm hl (by decide) (by (simp only [lowRI]; omega))
  have f2 : sizeField (wordField (gregonWord x 0x10 (lowRI rd ra (2 ^ 10 * sizeCode size + imm.toNat))) 11 10) = size := sizeField_code _ _ (by rw [gregonWord_low x _ _ 11 10 hm hl (by decide) (by decide)]; (simp only [lowRI]; omega))
  have f3 := gregonWord_imm x _ _ imm hm hl (by decide) (by (simp only [lowRI]; omega))
  unfold decodeGregon
  simp only [gregonWord_sense x _ _ hm hl, gregonWord_pred x _ _ hm hl, gregonWord_major x _ _ hm hl, f0, f1, f2, f3]
  try rfl

theorem lds (x : Issue) (rd ra : Reg) (size : Size) (imm : BitVec 10) : Statement (.lds x rd ra size imm) := by
  intro y w b hx hw
  obtain rfl : x = y := Option.some.inj hx
  obtain rfl : gregonWord x 0x11 (lowRI rd ra (2 ^ 10 * sizeCode size + imm.toNat)) = w := Option.some.inj hw
  have b_rd := rd.isLt
  have b_ra := ra.isLt
  have b_size := sizeCode_lt size
  have b_imm := imm.isLt
  have hm : (0x11 : Nat) < 64 := by decide
  have hl : lowRI rd ra (2 ^ 10 * sizeCode size + imm.toNat) < 2 ^ 22 := by (simp only [lowRI]; omega)
  have f0 := gregonWord_reg x _ _ 17 rd hm hl (by decide) (by (simp only [lowRI]; omega))
  have f1 := gregonWord_reg x _ _ 12 ra hm hl (by decide) (by (simp only [lowRI]; omega))
  have f2 : sizeField (wordField (gregonWord x 0x11 (lowRI rd ra (2 ^ 10 * sizeCode size + imm.toNat))) 11 10) = size := sizeField_code _ _ (by rw [gregonWord_low x _ _ 11 10 hm hl (by decide) (by decide)]; (simp only [lowRI]; omega))
  have f3 := gregonWord_imm x _ _ imm hm hl (by decide) (by (simp only [lowRI]; omega))
  unfold decodeGregon
  simp only [gregonWord_sense x _ _ hm hl, gregonWord_pred x _ _ hm hl, gregonWord_major x _ _ hm hl, f0, f1, f2, f3]
  try rfl

theorem st (x : Issue) (rd ra : Reg) (size : Size) (imm : BitVec 10) : Statement (.st x rd ra size imm) := by
  intro y w b hx hw
  obtain rfl : x = y := Option.some.inj hx
  obtain rfl : gregonWord x 0x12 (lowRI rd ra (2 ^ 10 * sizeCode size + imm.toNat)) = w := Option.some.inj hw
  have b_rd := rd.isLt
  have b_ra := ra.isLt
  have b_size := sizeCode_lt size
  have b_imm := imm.isLt
  have hm : (0x12 : Nat) < 64 := by decide
  have hl : lowRI rd ra (2 ^ 10 * sizeCode size + imm.toNat) < 2 ^ 22 := by (simp only [lowRI]; omega)
  have f0 := gregonWord_reg x _ _ 17 rd hm hl (by decide) (by (simp only [lowRI]; omega))
  have f1 := gregonWord_reg x _ _ 12 ra hm hl (by decide) (by (simp only [lowRI]; omega))
  have f2 : sizeField (wordField (gregonWord x 0x12 (lowRI rd ra (2 ^ 10 * sizeCode size + imm.toNat))) 11 10) = size := sizeField_code _ _ (by rw [gregonWord_low x _ _ 11 10 hm hl (by decide) (by decide)]; (simp only [lowRI]; omega))
  have f3 := gregonWord_imm x _ _ imm hm hl (by decide) (by (simp only [lowRI]; omega))
  unfold decodeGregon
  simp only [gregonWord_sense x _ _ hm hl, gregonWord_pred x _ _ hm hl, gregonWord_major x _ _ hm hl, f0, f1, f2, f3]
  try rfl

theorem lsxLoad (x : Issue) (rd ra rb : Reg) (size : Size) (signed : Bool) : Statement (.lsxLoad x rd ra rb size signed) := by
  intro y w b hx hw
  obtain rfl : x = y := Option.some.inj hx
  obtain rfl : gregonWord x 0x13 (low3R rd ra rb (lsxFunc 0 size signed)) = w := Option.some.inj hw
  have b_rd := rd.isLt
  have b_ra := ra.isLt
  have b_rb := rb.isLt
  have b_size := sizeCode_lt size
  have hm : (0x13 : Nat) < 64 := by decide
  have hl : low3R rd ra rb (lsxFunc 0 size signed) < 2 ^ 22 := by (simp only [low3R, lsxFunc]; cases signed <;> simp <;> omega)
  have f0 := gregonWord_reg x _ _ 17 rd hm hl (by decide) (by (simp only [low3R, lsxFunc]; cases signed <;> simp <;> omega))
  have f1 := gregonWord_reg x _ _ 12 ra hm hl (by decide) (by (simp only [low3R, lsxFunc]; cases signed <;> simp <;> omega))
  have f2 := gregonWord_reg x _ _ 7 rb hm hl (by decide) (by (simp only [low3R, lsxFunc]; cases signed <;> simp <;> omega))
  have f3 : wordField (gregonWord x 0x13 (low3R rd ra rb (lsxFunc 0 size signed))) 6 0 = (lsxFunc 0 size signed) := (gregonWord_low x _ _ 6 0 hm hl (by decide) (by decide)).trans (by (simp only [low3R, lsxFunc]; cases signed <;> simp <;> omega))
  unfold decodeGregon
  simp only [gregonWord_sense x _ _ hm hl, gregonWord_pred x _ _ hm hl, gregonWord_major x _ _ hm hl, f0, f1, f2, f3]
  cases size <;> cases signed <;> rfl

theorem lsxStore (x : Issue) (rd ra rb : Reg) (size : Size) (signed : Bool) : Statement (.lsxStore x rd ra rb size signed) := by
  intro y w b hx hw
  obtain rfl : x = y := Option.some.inj hx
  obtain rfl : gregonWord x 0x13 (low3R rd ra rb (lsxFunc 1 size signed)) = w := Option.some.inj hw
  have b_rd := rd.isLt
  have b_ra := ra.isLt
  have b_rb := rb.isLt
  have b_size := sizeCode_lt size
  have hm : (0x13 : Nat) < 64 := by decide
  have hl : low3R rd ra rb (lsxFunc 1 size signed) < 2 ^ 22 := by (simp only [low3R, lsxFunc]; cases signed <;> simp <;> omega)
  have f0 := gregonWord_reg x _ _ 17 rd hm hl (by decide) (by (simp only [low3R, lsxFunc]; cases signed <;> simp <;> omega))
  have f1 := gregonWord_reg x _ _ 12 ra hm hl (by decide) (by (simp only [low3R, lsxFunc]; cases signed <;> simp <;> omega))
  have f2 := gregonWord_reg x _ _ 7 rb hm hl (by decide) (by (simp only [low3R, lsxFunc]; cases signed <;> simp <;> omega))
  have f3 : wordField (gregonWord x 0x13 (low3R rd ra rb (lsxFunc 1 size signed))) 6 0 = (lsxFunc 1 size signed) := (gregonWord_low x _ _ 6 0 hm hl (by decide) (by decide)).trans (by (simp only [low3R, lsxFunc]; cases signed <;> simp <;> omega))
  unfold decodeGregon
  simp only [gregonWord_sense x _ _ hm hl, gregonWord_pred x _ _ hm hl, gregonWord_major x _ _ hm hl, f0, f1, f2, f3]
  cases size <;> cases signed <;> rfl

theorem lsxLoadPostinc (x : Issue) (rd ra rb : Reg) (size : Size) (signed : Bool) : Statement (.lsxLoadPostinc x rd ra rb size signed) := by
  intro y w b hx hw
  obtain rfl : x = y := Option.some.inj hx
  obtain rfl : gregonWord x 0x13 (low3R rd ra rb (lsxFunc 2 size signed)) = w := Option.some.inj hw
  have b_rd := rd.isLt
  have b_ra := ra.isLt
  have b_rb := rb.isLt
  have b_size := sizeCode_lt size
  have hm : (0x13 : Nat) < 64 := by decide
  have hl : low3R rd ra rb (lsxFunc 2 size signed) < 2 ^ 22 := by (simp only [low3R, lsxFunc]; cases signed <;> simp <;> omega)
  have f0 := gregonWord_reg x _ _ 17 rd hm hl (by decide) (by (simp only [low3R, lsxFunc]; cases signed <;> simp <;> omega))
  have f1 := gregonWord_reg x _ _ 12 ra hm hl (by decide) (by (simp only [low3R, lsxFunc]; cases signed <;> simp <;> omega))
  have f2 := gregonWord_reg x _ _ 7 rb hm hl (by decide) (by (simp only [low3R, lsxFunc]; cases signed <;> simp <;> omega))
  have f3 : wordField (gregonWord x 0x13 (low3R rd ra rb (lsxFunc 2 size signed))) 6 0 = (lsxFunc 2 size signed) := (gregonWord_low x _ _ 6 0 hm hl (by decide) (by decide)).trans (by (simp only [low3R, lsxFunc]; cases signed <;> simp <;> omega))
  unfold decodeGregon
  simp only [gregonWord_sense x _ _ hm hl, gregonWord_pred x _ _ hm hl, gregonWord_major x _ _ hm hl, f0, f1, f2, f3]
  cases size <;> cases signed <;> rfl

theorem lsxStorePostinc (x : Issue) (rd ra rb : Reg) (size : Size) (signed : Bool) : Statement (.lsxStorePostinc x rd ra rb size signed) := by
  intro y w b hx hw
  obtain rfl : x = y := Option.some.inj hx
  obtain rfl : gregonWord x 0x13 (low3R rd ra rb (lsxFunc 3 size signed)) = w := Option.some.inj hw
  have b_rd := rd.isLt
  have b_ra := ra.isLt
  have b_rb := rb.isLt
  have b_size := sizeCode_lt size
  have hm : (0x13 : Nat) < 64 := by decide
  have hl : low3R rd ra rb (lsxFunc 3 size signed) < 2 ^ 22 := by (simp only [low3R, lsxFunc]; cases signed <;> simp <;> omega)
  have f0 := gregonWord_reg x _ _ 17 rd hm hl (by decide) (by (simp only [low3R, lsxFunc]; cases signed <;> simp <;> omega))
  have f1 := gregonWord_reg x _ _ 12 ra hm hl (by decide) (by (simp only [low3R, lsxFunc]; cases signed <;> simp <;> omega))
  have f2 := gregonWord_reg x _ _ 7 rb hm hl (by decide) (by (simp only [low3R, lsxFunc]; cases signed <;> simp <;> omega))
  have f3 : wordField (gregonWord x 0x13 (low3R rd ra rb (lsxFunc 3 size signed))) 6 0 = (lsxFunc 3 size signed) := (gregonWord_low x _ _ 6 0 hm hl (by decide) (by decide)).trans (by (simp only [low3R, lsxFunc]; cases signed <;> simp <;> omega))
  unfold decodeGregon
  simp only [gregonWord_sense x _ _ hm hl, gregonWord_pred x _ _ hm hl, gregonWord_major x _ _ hm hl, f0, f1, f2, f3]
  cases size <;> cases signed <;> rfl

theorem swap (x : Issue) (rd ra rb : Reg) (wide : Bool) : Statement (.swap x rd ra rb wide) := by
  intro y w b hx hw
  obtain rfl : x = y := Option.some.inj hx
  obtain rfl : gregonWord x 0x14 (low3R rd ra rb (amoFunc 0 wide)) = w := Option.some.inj hw
  have b_rd := rd.isLt
  have b_ra := ra.isLt
  have b_rb := rb.isLt
  have hm : (0x14 : Nat) < 64 := by decide
  have hl : low3R rd ra rb (amoFunc 0 wide) < 2 ^ 22 := by (simp only [low3R, amoFunc]; cases wide <;> simp <;> omega)
  have f0 := gregonWord_reg x _ _ 17 rd hm hl (by decide) (by (simp only [low3R, amoFunc]; cases wide <;> simp <;> omega))
  have f1 := gregonWord_reg x _ _ 12 ra hm hl (by decide) (by (simp only [low3R, amoFunc]; cases wide <;> simp <;> omega))
  have f2 := gregonWord_reg x _ _ 7 rb hm hl (by decide) (by (simp only [low3R, amoFunc]; cases wide <;> simp <;> omega))
  have f3 : wordField (gregonWord x 0x14 (low3R rd ra rb (amoFunc 0 wide))) 6 0 = (amoFunc 0 wide) := (gregonWord_low x _ _ 6 0 hm hl (by decide) (by decide)).trans (by (simp only [low3R, amoFunc]; cases wide <;> simp <;> omega))
  unfold decodeGregon
  simp only [gregonWord_sense x _ _ hm hl, gregonWord_pred x _ _ hm hl, gregonWord_major x _ _ hm hl, f0, f1, f2, f3]
  cases wide <;> rfl

theorem amoAdd (x : Issue) (rd ra rb : Reg) (wide : Bool) : Statement (.amoAdd x rd ra rb wide) := by
  intro y w b hx hw
  obtain rfl : x = y := Option.some.inj hx
  obtain rfl : gregonWord x 0x14 (low3R rd ra rb (amoFunc 1 wide)) = w := Option.some.inj hw
  have b_rd := rd.isLt
  have b_ra := ra.isLt
  have b_rb := rb.isLt
  have hm : (0x14 : Nat) < 64 := by decide
  have hl : low3R rd ra rb (amoFunc 1 wide) < 2 ^ 22 := by (simp only [low3R, amoFunc]; cases wide <;> simp <;> omega)
  have f0 := gregonWord_reg x _ _ 17 rd hm hl (by decide) (by (simp only [low3R, amoFunc]; cases wide <;> simp <;> omega))
  have f1 := gregonWord_reg x _ _ 12 ra hm hl (by decide) (by (simp only [low3R, amoFunc]; cases wide <;> simp <;> omega))
  have f2 := gregonWord_reg x _ _ 7 rb hm hl (by decide) (by (simp only [low3R, amoFunc]; cases wide <;> simp <;> omega))
  have f3 : wordField (gregonWord x 0x14 (low3R rd ra rb (amoFunc 1 wide))) 6 0 = (amoFunc 1 wide) := (gregonWord_low x _ _ 6 0 hm hl (by decide) (by decide)).trans (by (simp only [low3R, amoFunc]; cases wide <;> simp <;> omega))
  unfold decodeGregon
  simp only [gregonWord_sense x _ _ hm hl, gregonWord_pred x _ _ hm hl, gregonWord_major x _ _ hm hl, f0, f1, f2, f3]
  cases wide <;> rfl

theorem amoAnd (x : Issue) (rd ra rb : Reg) (wide : Bool) : Statement (.amoAnd x rd ra rb wide) := by
  intro y w b hx hw
  obtain rfl : x = y := Option.some.inj hx
  obtain rfl : gregonWord x 0x14 (low3R rd ra rb (amoFunc 2 wide)) = w := Option.some.inj hw
  have b_rd := rd.isLt
  have b_ra := ra.isLt
  have b_rb := rb.isLt
  have hm : (0x14 : Nat) < 64 := by decide
  have hl : low3R rd ra rb (amoFunc 2 wide) < 2 ^ 22 := by (simp only [low3R, amoFunc]; cases wide <;> simp <;> omega)
  have f0 := gregonWord_reg x _ _ 17 rd hm hl (by decide) (by (simp only [low3R, amoFunc]; cases wide <;> simp <;> omega))
  have f1 := gregonWord_reg x _ _ 12 ra hm hl (by decide) (by (simp only [low3R, amoFunc]; cases wide <;> simp <;> omega))
  have f2 := gregonWord_reg x _ _ 7 rb hm hl (by decide) (by (simp only [low3R, amoFunc]; cases wide <;> simp <;> omega))
  have f3 : wordField (gregonWord x 0x14 (low3R rd ra rb (amoFunc 2 wide))) 6 0 = (amoFunc 2 wide) := (gregonWord_low x _ _ 6 0 hm hl (by decide) (by decide)).trans (by (simp only [low3R, amoFunc]; cases wide <;> simp <;> omega))
  unfold decodeGregon
  simp only [gregonWord_sense x _ _ hm hl, gregonWord_pred x _ _ hm hl, gregonWord_major x _ _ hm hl, f0, f1, f2, f3]
  cases wide <;> rfl

theorem amoOr (x : Issue) (rd ra rb : Reg) (wide : Bool) : Statement (.amoOr x rd ra rb wide) := by
  intro y w b hx hw
  obtain rfl : x = y := Option.some.inj hx
  obtain rfl : gregonWord x 0x14 (low3R rd ra rb (amoFunc 3 wide)) = w := Option.some.inj hw
  have b_rd := rd.isLt
  have b_ra := ra.isLt
  have b_rb := rb.isLt
  have hm : (0x14 : Nat) < 64 := by decide
  have hl : low3R rd ra rb (amoFunc 3 wide) < 2 ^ 22 := by (simp only [low3R, amoFunc]; cases wide <;> simp <;> omega)
  have f0 := gregonWord_reg x _ _ 17 rd hm hl (by decide) (by (simp only [low3R, amoFunc]; cases wide <;> simp <;> omega))
  have f1 := gregonWord_reg x _ _ 12 ra hm hl (by decide) (by (simp only [low3R, amoFunc]; cases wide <;> simp <;> omega))
  have f2 := gregonWord_reg x _ _ 7 rb hm hl (by decide) (by (simp only [low3R, amoFunc]; cases wide <;> simp <;> omega))
  have f3 : wordField (gregonWord x 0x14 (low3R rd ra rb (amoFunc 3 wide))) 6 0 = (amoFunc 3 wide) := (gregonWord_low x _ _ 6 0 hm hl (by decide) (by decide)).trans (by (simp only [low3R, amoFunc]; cases wide <;> simp <;> omega))
  unfold decodeGregon
  simp only [gregonWord_sense x _ _ hm hl, gregonWord_pred x _ _ hm hl, gregonWord_major x _ _ hm hl, f0, f1, f2, f3]
  cases wide <;> rfl

theorem amoXor (x : Issue) (rd ra rb : Reg) (wide : Bool) : Statement (.amoXor x rd ra rb wide) := by
  intro y w b hx hw
  obtain rfl : x = y := Option.some.inj hx
  obtain rfl : gregonWord x 0x14 (low3R rd ra rb (amoFunc 4 wide)) = w := Option.some.inj hw
  have b_rd := rd.isLt
  have b_ra := ra.isLt
  have b_rb := rb.isLt
  have hm : (0x14 : Nat) < 64 := by decide
  have hl : low3R rd ra rb (amoFunc 4 wide) < 2 ^ 22 := by (simp only [low3R, amoFunc]; cases wide <;> simp <;> omega)
  have f0 := gregonWord_reg x _ _ 17 rd hm hl (by decide) (by (simp only [low3R, amoFunc]; cases wide <;> simp <;> omega))
  have f1 := gregonWord_reg x _ _ 12 ra hm hl (by decide) (by (simp only [low3R, amoFunc]; cases wide <;> simp <;> omega))
  have f2 := gregonWord_reg x _ _ 7 rb hm hl (by decide) (by (simp only [low3R, amoFunc]; cases wide <;> simp <;> omega))
  have f3 : wordField (gregonWord x 0x14 (low3R rd ra rb (amoFunc 4 wide))) 6 0 = (amoFunc 4 wide) := (gregonWord_low x _ _ 6 0 hm hl (by decide) (by decide)).trans (by (simp only [low3R, amoFunc]; cases wide <;> simp <;> omega))
  unfold decodeGregon
  simp only [gregonWord_sense x _ _ hm hl, gregonWord_pred x _ _ hm hl, gregonWord_major x _ _ hm hl, f0, f1, f2, f3]
  cases wide <;> rfl

theorem amoMin (x : Issue) (rd ra rb : Reg) (wide : Bool) : Statement (.amoMin x rd ra rb wide) := by
  intro y w b hx hw
  obtain rfl : x = y := Option.some.inj hx
  obtain rfl : gregonWord x 0x14 (low3R rd ra rb (amoFunc 5 wide)) = w := Option.some.inj hw
  have b_rd := rd.isLt
  have b_ra := ra.isLt
  have b_rb := rb.isLt
  have hm : (0x14 : Nat) < 64 := by decide
  have hl : low3R rd ra rb (amoFunc 5 wide) < 2 ^ 22 := by (simp only [low3R, amoFunc]; cases wide <;> simp <;> omega)
  have f0 := gregonWord_reg x _ _ 17 rd hm hl (by decide) (by (simp only [low3R, amoFunc]; cases wide <;> simp <;> omega))
  have f1 := gregonWord_reg x _ _ 12 ra hm hl (by decide) (by (simp only [low3R, amoFunc]; cases wide <;> simp <;> omega))
  have f2 := gregonWord_reg x _ _ 7 rb hm hl (by decide) (by (simp only [low3R, amoFunc]; cases wide <;> simp <;> omega))
  have f3 : wordField (gregonWord x 0x14 (low3R rd ra rb (amoFunc 5 wide))) 6 0 = (amoFunc 5 wide) := (gregonWord_low x _ _ 6 0 hm hl (by decide) (by decide)).trans (by (simp only [low3R, amoFunc]; cases wide <;> simp <;> omega))
  unfold decodeGregon
  simp only [gregonWord_sense x _ _ hm hl, gregonWord_pred x _ _ hm hl, gregonWord_major x _ _ hm hl, f0, f1, f2, f3]
  cases wide <;> rfl

theorem amoMax (x : Issue) (rd ra rb : Reg) (wide : Bool) : Statement (.amoMax x rd ra rb wide) := by
  intro y w b hx hw
  obtain rfl : x = y := Option.some.inj hx
  obtain rfl : gregonWord x 0x14 (low3R rd ra rb (amoFunc 6 wide)) = w := Option.some.inj hw
  have b_rd := rd.isLt
  have b_ra := ra.isLt
  have b_rb := rb.isLt
  have hm : (0x14 : Nat) < 64 := by decide
  have hl : low3R rd ra rb (amoFunc 6 wide) < 2 ^ 22 := by (simp only [low3R, amoFunc]; cases wide <;> simp <;> omega)
  have f0 := gregonWord_reg x _ _ 17 rd hm hl (by decide) (by (simp only [low3R, amoFunc]; cases wide <;> simp <;> omega))
  have f1 := gregonWord_reg x _ _ 12 ra hm hl (by decide) (by (simp only [low3R, amoFunc]; cases wide <;> simp <;> omega))
  have f2 := gregonWord_reg x _ _ 7 rb hm hl (by decide) (by (simp only [low3R, amoFunc]; cases wide <;> simp <;> omega))
  have f3 : wordField (gregonWord x 0x14 (low3R rd ra rb (amoFunc 6 wide))) 6 0 = (amoFunc 6 wide) := (gregonWord_low x _ _ 6 0 hm hl (by decide) (by decide)).trans (by (simp only [low3R, amoFunc]; cases wide <;> simp <;> omega))
  unfold decodeGregon
  simp only [gregonWord_sense x _ _ hm hl, gregonWord_pred x _ _ hm hl, gregonWord_major x _ _ hm hl, f0, f1, f2, f3]
  cases wide <;> rfl

theorem cas (x : Issue) (rd ra rb : Reg) (wide : Bool) : Statement (.cas x rd ra rb wide) := by
  intro y w b hx hw
  obtain rfl : x = y := Option.some.inj hx
  obtain rfl : gregonWord x 0x14 (low3R rd ra rb (amoFunc 7 wide)) = w := Option.some.inj hw
  have b_rd := rd.isLt
  have b_ra := ra.isLt
  have b_rb := rb.isLt
  have hm : (0x14 : Nat) < 64 := by decide
  have hl : low3R rd ra rb (amoFunc 7 wide) < 2 ^ 22 := by (simp only [low3R, amoFunc]; cases wide <;> simp <;> omega)
  have f0 := gregonWord_reg x _ _ 17 rd hm hl (by decide) (by (simp only [low3R, amoFunc]; cases wide <;> simp <;> omega))
  have f1 := gregonWord_reg x _ _ 12 ra hm hl (by decide) (by (simp only [low3R, amoFunc]; cases wide <;> simp <;> omega))
  have f2 := gregonWord_reg x _ _ 7 rb hm hl (by decide) (by (simp only [low3R, amoFunc]; cases wide <;> simp <;> omega))
  have f3 : wordField (gregonWord x 0x14 (low3R rd ra rb (amoFunc 7 wide))) 6 0 = (amoFunc 7 wide) := (gregonWord_low x _ _ 6 0 hm hl (by decide) (by decide)).trans (by (simp only [low3R, amoFunc]; cases wide <;> simp <;> omega))
  unfold decodeGregon
  simp only [gregonWord_sense x _ _ hm hl, gregonWord_pred x _ _ hm hl, gregonWord_major x _ _ hm hl, f0, f1, f2, f3]
  cases wide <;> rfl

theorem prefL1d (x : Issue) (ra : Reg) (imm : BitVec 12) : Statement (.prefL1d x ra imm) := by
  intro y w b hx hw
  obtain rfl : x = y := Option.some.inj hx
  obtain rfl : gregonWord x 0x15 (lowRI 0 ra imm.toNat) = w := Option.some.inj hw
  have b_ra := ra.isLt
  have b_imm := imm.isLt
  have hm : (0x15 : Nat) < 64 := by decide
  have hl : lowRI 0 ra imm.toNat < 2 ^ 22 := by (simp only [lowRI]; omega)
  have f0 := gregonWord_reg x _ _ 17 (0 : Reg) hm hl (by decide) (by (simp only [lowRI]; omega))
  have f1 := gregonWord_reg x _ _ 12 ra hm hl (by decide) (by (simp only [lowRI]; omega))
  have f2 := gregonWord_imm x _ _ imm hm hl (by decide) (by (simp only [lowRI]; omega))
  unfold decodeGregon
  simp only [gregonWord_sense x _ _ hm hl, gregonWord_pred x _ _ hm hl, gregonWord_major x _ _ hm hl, f0, f1, f2]
  try rfl

theorem prefL2 (x : Issue) (ra : Reg) (imm : BitVec 12) : Statement (.prefL2 x ra imm) := by
  intro y w b hx hw
  obtain rfl : x = y := Option.some.inj hx
  obtain rfl : gregonWord x 0x15 (lowRI 1 ra imm.toNat) = w := Option.some.inj hw
  have b_ra := ra.isLt
  have b_imm := imm.isLt
  have hm : (0x15 : Nat) < 64 := by decide
  have hl : lowRI 1 ra imm.toNat < 2 ^ 22 := by (simp only [lowRI]; omega)
  have f0 := gregonWord_reg x _ _ 17 (1 : Reg) hm hl (by decide) (by (simp only [lowRI]; omega))
  have f1 := gregonWord_reg x _ _ 12 ra hm hl (by decide) (by (simp only [lowRI]; omega))
  have f2 := gregonWord_imm x _ _ imm hm hl (by decide) (by (simp only [lowRI]; omega))
  unfold decodeGregon
  simp only [gregonWord_sense x _ _ hm hl, gregonWord_pred x _ _ hm hl, gregonWord_major x _ _ hm hl, f0, f1, f2]
  try rfl

theorem prefStreamStart (x : Issue) (ra : Reg) (imm : BitVec 12) : Statement (.prefStreamStart x ra imm) := by
  intro y w b hx hw
  obtain rfl : x = y := Option.some.inj hx
  obtain rfl : gregonWord x 0x15 (lowRI 2 ra imm.toNat) = w := Option.some.inj hw
  have b_ra := ra.isLt
  have b_imm := imm.isLt
  have hm : (0x15 : Nat) < 64 := by decide
  have hl : lowRI 2 ra imm.toNat < 2 ^ 22 := by (simp only [lowRI]; omega)
  have f0 := gregonWord_reg x _ _ 17 (2 : Reg) hm hl (by decide) (by (simp only [lowRI]; omega))
  have f1 := gregonWord_reg x _ _ 12 ra hm hl (by decide) (by (simp only [lowRI]; omega))
  have f2 := gregonWord_imm x _ _ imm hm hl (by decide) (by (simp only [lowRI]; omega))
  unfold decodeGregon
  simp only [gregonWord_sense x _ _ hm hl, gregonWord_pred x _ _ hm hl, gregonWord_major x _ _ hm hl, f0, f1, f2]
  try rfl

theorem prefStreamEnd (x : Issue) (ra : Reg) (imm : BitVec 12) : Statement (.prefStreamEnd x ra imm) := by
  intro y w b hx hw
  obtain rfl : x = y := Option.some.inj hx
  obtain rfl : gregonWord x 0x15 (lowRI 3 ra imm.toNat) = w := Option.some.inj hw
  have b_ra := ra.isLt
  have b_imm := imm.isLt
  have hm : (0x15 : Nat) < 64 := by decide
  have hl : lowRI 3 ra imm.toNat < 2 ^ 22 := by (simp only [lowRI]; omega)
  have f0 := gregonWord_reg x _ _ 17 (3 : Reg) hm hl (by decide) (by (simp only [lowRI]; omega))
  have f1 := gregonWord_reg x _ _ 12 ra hm hl (by decide) (by (simp only [lowRI]; omega))
  have f2 := gregonWord_imm x _ _ imm hm hl (by decide) (by (simp only [lowRI]; omega))
  unfold decodeGregon
  simp only [gregonWord_sense x _ _ hm hl, gregonWord_pred x _ _ hm hl, gregonWord_major x _ _ hm hl, f0, f1, f2]
  try rfl

theorem icInvA (x : Issue) (ra : Reg) : Statement (.icInvA x ra) := by
  intro y w b hx hw
  obtain rfl : x = y := Option.some.inj hx
  obtain rfl : gregonWord x 0x16 (low3R 0 ra 0 0x00) = w := Option.some.inj hw
  have b_ra := ra.isLt
  have hm : (0x16 : Nat) < 64 := by decide
  have hl : low3R 0 ra 0 0x00 < 2 ^ 22 := by (simp only [low3R]; omega)
  have f0 := gregonWord_reg x _ _ 17 (0 : Reg) hm hl (by decide) (by (simp only [low3R]; omega))
  have f1 := gregonWord_reg x _ _ 12 ra hm hl (by decide) (by (simp only [low3R]; omega))
  have f2 := gregonWord_reg x _ _ 7 (0 : Reg) hm hl (by decide) (by (simp only [low3R]; omega))
  have f3 : wordField (gregonWord x 0x16 (low3R 0 ra 0 0x00)) 6 0 = 0x00 := (gregonWord_low x _ _ 6 0 hm hl (by decide) (by decide)).trans (by (simp only [low3R]; omega))
  unfold decodeGregon
  simp only [gregonWord_sense x _ _ hm hl, gregonWord_pred x _ _ hm hl, gregonWord_major x _ _ hm hl, f0, f1, f2, f3]
  try rfl

theorem dcInvA (x : Issue) (ra : Reg) : Statement (.dcInvA x ra) := by
  intro y w b hx hw
  obtain rfl : x = y := Option.some.inj hx
  obtain rfl : gregonWord x 0x16 (low3R 0 ra 0 0x01) = w := Option.some.inj hw
  have b_ra := ra.isLt
  have hm : (0x16 : Nat) < 64 := by decide
  have hl : low3R 0 ra 0 0x01 < 2 ^ 22 := by (simp only [low3R]; omega)
  have f0 := gregonWord_reg x _ _ 17 (0 : Reg) hm hl (by decide) (by (simp only [low3R]; omega))
  have f1 := gregonWord_reg x _ _ 12 ra hm hl (by decide) (by (simp only [low3R]; omega))
  have f2 := gregonWord_reg x _ _ 7 (0 : Reg) hm hl (by decide) (by (simp only [low3R]; omega))
  have f3 : wordField (gregonWord x 0x16 (low3R 0 ra 0 0x01)) 6 0 = 0x01 := (gregonWord_low x _ _ 6 0 hm hl (by decide) (by decide)).trans (by (simp only [low3R]; omega))
  unfold decodeGregon
  simp only [gregonWord_sense x _ _ hm hl, gregonWord_pred x _ _ hm hl, gregonWord_major x _ _ hm hl, f0, f1, f2, f3]
  try rfl

theorem l2ClnA (x : Issue) (ra : Reg) : Statement (.l2ClnA x ra) := by
  intro y w b hx hw
  obtain rfl : x = y := Option.some.inj hx
  obtain rfl : gregonWord x 0x16 (low3R 0 ra 0 0x02) = w := Option.some.inj hw
  have b_ra := ra.isLt
  have hm : (0x16 : Nat) < 64 := by decide
  have hl : low3R 0 ra 0 0x02 < 2 ^ 22 := by (simp only [low3R]; omega)
  have f0 := gregonWord_reg x _ _ 17 (0 : Reg) hm hl (by decide) (by (simp only [low3R]; omega))
  have f1 := gregonWord_reg x _ _ 12 ra hm hl (by decide) (by (simp only [low3R]; omega))
  have f2 := gregonWord_reg x _ _ 7 (0 : Reg) hm hl (by decide) (by (simp only [low3R]; omega))
  have f3 : wordField (gregonWord x 0x16 (low3R 0 ra 0 0x02)) 6 0 = 0x02 := (gregonWord_low x _ _ 6 0 hm hl (by decide) (by decide)).trans (by (simp only [low3R]; omega))
  unfold decodeGregon
  simp only [gregonWord_sense x _ _ hm hl, gregonWord_pred x _ _ hm hl, gregonWord_major x _ _ hm hl, f0, f1, f2, f3]
  try rfl

theorem l2InvA (x : Issue) (ra : Reg) : Statement (.l2InvA x ra) := by
  intro y w b hx hw
  obtain rfl : x = y := Option.some.inj hx
  obtain rfl : gregonWord x 0x16 (low3R 0 ra 0 0x03) = w := Option.some.inj hw
  have b_ra := ra.isLt
  have hm : (0x16 : Nat) < 64 := by decide
  have hl : low3R 0 ra 0 0x03 < 2 ^ 22 := by (simp only [low3R]; omega)
  have f0 := gregonWord_reg x _ _ 17 (0 : Reg) hm hl (by decide) (by (simp only [low3R]; omega))
  have f1 := gregonWord_reg x _ _ 12 ra hm hl (by decide) (by (simp only [low3R]; omega))
  have f2 := gregonWord_reg x _ _ 7 (0 : Reg) hm hl (by decide) (by (simp only [low3R]; omega))
  have f3 : wordField (gregonWord x 0x16 (low3R 0 ra 0 0x03)) 6 0 = 0x03 := (gregonWord_low x _ _ 6 0 hm hl (by decide) (by decide)).trans (by (simp only [low3R]; omega))
  unfold decodeGregon
  simp only [gregonWord_sense x _ _ hm hl, gregonWord_pred x _ _ hm hl, gregonWord_major x _ _ hm hl, f0, f1, f2, f3]
  try rfl

theorem l2CiA (x : Issue) (ra : Reg) : Statement (.l2CiA x ra) := by
  intro y w b hx hw
  obtain rfl : x = y := Option.some.inj hx
  obtain rfl : gregonWord x 0x16 (low3R 0 ra 0 0x04) = w := Option.some.inj hw
  have b_ra := ra.isLt
  have hm : (0x16 : Nat) < 64 := by decide
  have hl : low3R 0 ra 0 0x04 < 2 ^ 22 := by (simp only [low3R]; omega)
  have f0 := gregonWord_reg x _ _ 17 (0 : Reg) hm hl (by decide) (by (simp only [low3R]; omega))
  have f1 := gregonWord_reg x _ _ 12 ra hm hl (by decide) (by (simp only [low3R]; omega))
  have f2 := gregonWord_reg x _ _ 7 (0 : Reg) hm hl (by decide) (by (simp only [low3R]; omega))
  have f3 : wordField (gregonWord x 0x16 (low3R 0 ra 0 0x04)) 6 0 = 0x04 := (gregonWord_low x _ _ 6 0 hm hl (by decide) (by decide)).trans (by (simp only [low3R]; omega))
  unfold decodeGregon
  simp only [gregonWord_sense x _ _ hm hl, gregonWord_pred x _ _ hm hl, gregonWord_major x _ _ hm hl, f0, f1, f2, f3]
  try rfl

theorem icInvSw (x : Issue) (ra : Reg) : Statement (.icInvSw x ra) := by
  intro y w b hx hw
  obtain rfl : x = y := Option.some.inj hx
  obtain rfl : gregonWord x 0x16 (low3R 0 ra 0 0x08) = w := Option.some.inj hw
  have b_ra := ra.isLt
  have hm : (0x16 : Nat) < 64 := by decide
  have hl : low3R 0 ra 0 0x08 < 2 ^ 22 := by (simp only [low3R]; omega)
  have f0 := gregonWord_reg x _ _ 17 (0 : Reg) hm hl (by decide) (by (simp only [low3R]; omega))
  have f1 := gregonWord_reg x _ _ 12 ra hm hl (by decide) (by (simp only [low3R]; omega))
  have f2 := gregonWord_reg x _ _ 7 (0 : Reg) hm hl (by decide) (by (simp only [low3R]; omega))
  have f3 : wordField (gregonWord x 0x16 (low3R 0 ra 0 0x08)) 6 0 = 0x08 := (gregonWord_low x _ _ 6 0 hm hl (by decide) (by decide)).trans (by (simp only [low3R]; omega))
  unfold decodeGregon
  simp only [gregonWord_sense x _ _ hm hl, gregonWord_pred x _ _ hm hl, gregonWord_major x _ _ hm hl, f0, f1, f2, f3]
  try rfl

theorem dcInvSw (x : Issue) (ra : Reg) : Statement (.dcInvSw x ra) := by
  intro y w b hx hw
  obtain rfl : x = y := Option.some.inj hx
  obtain rfl : gregonWord x 0x16 (low3R 0 ra 0 0x09) = w := Option.some.inj hw
  have b_ra := ra.isLt
  have hm : (0x16 : Nat) < 64 := by decide
  have hl : low3R 0 ra 0 0x09 < 2 ^ 22 := by (simp only [low3R]; omega)
  have f0 := gregonWord_reg x _ _ 17 (0 : Reg) hm hl (by decide) (by (simp only [low3R]; omega))
  have f1 := gregonWord_reg x _ _ 12 ra hm hl (by decide) (by (simp only [low3R]; omega))
  have f2 := gregonWord_reg x _ _ 7 (0 : Reg) hm hl (by decide) (by (simp only [low3R]; omega))
  have f3 : wordField (gregonWord x 0x16 (low3R 0 ra 0 0x09)) 6 0 = 0x09 := (gregonWord_low x _ _ 6 0 hm hl (by decide) (by decide)).trans (by (simp only [low3R]; omega))
  unfold decodeGregon
  simp only [gregonWord_sense x _ _ hm hl, gregonWord_pred x _ _ hm hl, gregonWord_major x _ _ hm hl, f0, f1, f2, f3]
  try rfl

theorem l2ClnSw (x : Issue) (ra : Reg) : Statement (.l2ClnSw x ra) := by
  intro y w b hx hw
  obtain rfl : x = y := Option.some.inj hx
  obtain rfl : gregonWord x 0x16 (low3R 0 ra 0 0x0A) = w := Option.some.inj hw
  have b_ra := ra.isLt
  have hm : (0x16 : Nat) < 64 := by decide
  have hl : low3R 0 ra 0 0x0A < 2 ^ 22 := by (simp only [low3R]; omega)
  have f0 := gregonWord_reg x _ _ 17 (0 : Reg) hm hl (by decide) (by (simp only [low3R]; omega))
  have f1 := gregonWord_reg x _ _ 12 ra hm hl (by decide) (by (simp only [low3R]; omega))
  have f2 := gregonWord_reg x _ _ 7 (0 : Reg) hm hl (by decide) (by (simp only [low3R]; omega))
  have f3 : wordField (gregonWord x 0x16 (low3R 0 ra 0 0x0A)) 6 0 = 0x0A := (gregonWord_low x _ _ 6 0 hm hl (by decide) (by decide)).trans (by (simp only [low3R]; omega))
  unfold decodeGregon
  simp only [gregonWord_sense x _ _ hm hl, gregonWord_pred x _ _ hm hl, gregonWord_major x _ _ hm hl, f0, f1, f2, f3]
  try rfl

theorem l2InvSw (x : Issue) (ra : Reg) : Statement (.l2InvSw x ra) := by
  intro y w b hx hw
  obtain rfl : x = y := Option.some.inj hx
  obtain rfl : gregonWord x 0x16 (low3R 0 ra 0 0x0B) = w := Option.some.inj hw
  have b_ra := ra.isLt
  have hm : (0x16 : Nat) < 64 := by decide
  have hl : low3R 0 ra 0 0x0B < 2 ^ 22 := by (simp only [low3R]; omega)
  have f0 := gregonWord_reg x _ _ 17 (0 : Reg) hm hl (by decide) (by (simp only [low3R]; omega))
  have f1 := gregonWord_reg x _ _ 12 ra hm hl (by decide) (by (simp only [low3R]; omega))
  have f2 := gregonWord_reg x _ _ 7 (0 : Reg) hm hl (by decide) (by (simp only [low3R]; omega))
  have f3 : wordField (gregonWord x 0x16 (low3R 0 ra 0 0x0B)) 6 0 = 0x0B := (gregonWord_low x _ _ 6 0 hm hl (by decide) (by decide)).trans (by (simp only [low3R]; omega))
  unfold decodeGregon
  simp only [gregonWord_sense x _ _ hm hl, gregonWord_pred x _ _ hm hl, gregonWord_major x _ _ hm hl, f0, f1, f2, f3]
  try rfl

theorem l2CiSw (x : Issue) (ra : Reg) : Statement (.l2CiSw x ra) := by
  intro y w b hx hw
  obtain rfl : x = y := Option.some.inj hx
  obtain rfl : gregonWord x 0x16 (low3R 0 ra 0 0x0C) = w := Option.some.inj hw
  have b_ra := ra.isLt
  have hm : (0x16 : Nat) < 64 := by decide
  have hl : low3R 0 ra 0 0x0C < 2 ^ 22 := by (simp only [low3R]; omega)
  have f0 := gregonWord_reg x _ _ 17 (0 : Reg) hm hl (by decide) (by (simp only [low3R]; omega))
  have f1 := gregonWord_reg x _ _ 12 ra hm hl (by decide) (by (simp only [low3R]; omega))
  have f2 := gregonWord_reg x _ _ 7 (0 : Reg) hm hl (by decide) (by (simp only [low3R]; omega))
  have f3 : wordField (gregonWord x 0x16 (low3R 0 ra 0 0x0C)) 6 0 = 0x0C := (gregonWord_low x _ _ 6 0 hm hl (by decide) (by decide)).trans (by (simp only [low3R]; omega))
  unfold decodeGregon
  simp only [gregonWord_sense x _ _ hm hl, gregonWord_pred x _ _ hm hl, gregonWord_major x _ _ hm hl, f0, f1, f2, f3]
  try rfl

theorem fence (x : Issue) : Statement (.fence x) := by
  intro y w b hx hw
  obtain rfl : x = y := Option.some.inj hx
  obtain rfl : gregonWord x 0x17 (0) = w := Option.some.inj hw
  have hm : (0x17 : Nat) < 64 := by decide
  have hl : 0 < 2 ^ 22 := by (omega)
  have f0 := gregonWord_reg x _ _ 17 (0 : Reg) hm hl (by decide) (by (omega))
  have f1 := gregonWord_reg x _ _ 12 (0 : Reg) hm hl (by decide) (by (omega))
  have f2 := gregonWord_reg x _ _ 7 (0 : Reg) hm hl (by decide) (by (omega))
  have f3 : wordField (gregonWord x 0x17 (0)) 6 0 = 0 := (gregonWord_low x _ _ 6 0 hm hl (by decide) (by decide)).trans (by (omega))
  unfold decodeGregon
  simp only [gregonWord_sense x _ _ hm hl, gregonWord_pred x _ _ hm hl, gregonWord_major x _ _ hm hl, f0, f1, f2, f3]
  try rfl

theorem fenceSt (x : Issue) : Statement (.fenceSt x) := by
  intro y w b hx hw
  obtain rfl : x = y := Option.some.inj hx
  obtain rfl : gregonWord x 0x17 (1) = w := Option.some.inj hw
  have hm : (0x17 : Nat) < 64 := by decide
  have hl : 1 < 2 ^ 22 := by (omega)
  have f0 := gregonWord_reg x _ _ 17 (0 : Reg) hm hl (by decide) (by (omega))
  have f1 := gregonWord_reg x _ _ 12 (0 : Reg) hm hl (by decide) (by (omega))
  have f2 := gregonWord_reg x _ _ 7 (0 : Reg) hm hl (by decide) (by (omega))
  have f3 : wordField (gregonWord x 0x17 (1)) 6 0 = 1 := (gregonWord_low x _ _ 6 0 hm hl (by decide) (by decide)).trans (by (omega))
  unfold decodeGregon
  simp only [gregonWord_sense x _ _ hm hl, gregonWord_pred x _ _ hm hl, gregonWord_major x _ _ hm hl, f0, f1, f2, f3]
  try rfl

theorem fenceI (x : Issue) : Statement (.fenceI x) := by
  intro y w b hx hw
  obtain rfl : x = y := Option.some.inj hx
  obtain rfl : gregonWord x 0x17 (2) = w := Option.some.inj hw
  have hm : (0x17 : Nat) < 64 := by decide
  have hl : 2 < 2 ^ 22 := by (omega)
  have f0 := gregonWord_reg x _ _ 17 (0 : Reg) hm hl (by decide) (by (omega))
  have f1 := gregonWord_reg x _ _ 12 (0 : Reg) hm hl (by decide) (by (omega))
  have f2 := gregonWord_reg x _ _ 7 (0 : Reg) hm hl (by decide) (by (omega))
  have f3 : wordField (gregonWord x 0x17 (2)) 6 0 = 2 := (gregonWord_low x _ _ 6 0 hm hl (by decide) (by decide)).trans (by (omega))
  unfold decodeGregon
  simp only [gregonWord_sense x _ _ hm hl, gregonWord_pred x _ _ hm hl, gregonWord_major x _ _ hm hl, f0, f1, f2, f3]
  try rfl

theorem fenceT (x : Issue) : Statement (.fenceT x) := by
  intro y w b hx hw
  obtain rfl : x = y := Option.some.inj hx
  obtain rfl : gregonWord x 0x17 (3) = w := Option.some.inj hw
  have hm : (0x17 : Nat) < 64 := by decide
  have hl : 3 < 2 ^ 22 := by (omega)
  have f0 := gregonWord_reg x _ _ 17 (0 : Reg) hm hl (by decide) (by (omega))
  have f1 := gregonWord_reg x _ _ 12 (0 : Reg) hm hl (by decide) (by (omega))
  have f2 := gregonWord_reg x _ _ 7 (0 : Reg) hm hl (by decide) (by (omega))
  have f3 : wordField (gregonWord x 0x17 (3)) 6 0 = 3 := (gregonWord_low x _ _ 6 0 hm hl (by decide) (by decide)).trans (by (omega))
  unfold decodeGregon
  simp only [gregonWord_sense x _ _ hm hl, gregonWord_pred x _ _ hm hl, gregonWord_major x _ _ hm hl, f0, f1, f2, f3]
  try rfl

theorem br (x : Issue) (disp : BitVec 22) : Statement (.br x disp) := by
  intro y w b hx hw
  obtain rfl : x = y := Option.some.inj hx
  obtain rfl : gregonWord x 0x18 (disp.toNat) = w := Option.some.inj hw
  have b_disp := disp.isLt
  have hm : (0x18 : Nat) < 64 := by decide
  have hl : disp.toNat < 2 ^ 22 := by (omega)
  have f0 := gregonWord_imm x _ _ disp hm hl (by decide) (by (omega))
  unfold decodeGregon
  simp only [gregonWord_sense x _ _ hm hl, gregonWord_pred x _ _ hm hl, gregonWord_major x _ _ hm hl, f0]
  try rfl

theorem call (x : Issue) (disp : BitVec 22) : Statement (.call x disp) := by
  intro y w b hx hw
  obtain rfl : x = y := Option.some.inj hx
  obtain rfl : gregonWord x 0x19 (disp.toNat) = w := Option.some.inj hw
  have b_disp := disp.isLt
  have hm : (0x19 : Nat) < 64 := by decide
  have hl : disp.toNat < 2 ^ 22 := by (omega)
  have f0 := gregonWord_imm x _ _ disp hm hl (by decide) (by (omega))
  unfold decodeGregon
  simp only [gregonWord_sense x _ _ hm hl, gregonWord_pred x _ _ hm hl, gregonWord_major x _ _ hm hl, f0]
  try rfl

theorem jr (x : Issue) (ra : Reg) : Statement (.jr x ra) := by
  intro y w b hx hw
  obtain rfl : x = y := Option.some.inj hx
  obtain rfl : gregonWord x 0x1A (low3R 0 ra 0 0) = w := Option.some.inj hw
  have b_ra := ra.isLt
  have hm : (0x1A : Nat) < 64 := by decide
  have hl : low3R 0 ra 0 0 < 2 ^ 22 := by (simp only [low3R]; omega)
  have f0 := gregonWord_reg x _ _ 17 (0 : Reg) hm hl (by decide) (by (simp only [low3R]; omega))
  have f1 := gregonWord_reg x _ _ 12 ra hm hl (by decide) (by (simp only [low3R]; omega))
  have f2 := gregonWord_reg x _ _ 7 (0 : Reg) hm hl (by decide) (by (simp only [low3R]; omega))
  have f3 : wordField (gregonWord x 0x1A (low3R 0 ra 0 0)) 6 0 = 0 := (gregonWord_low x _ _ 6 0 hm hl (by decide) (by decide)).trans (by (simp only [low3R]; omega))
  unfold decodeGregon
  simp only [gregonWord_sense x _ _ hm hl, gregonWord_pred x _ _ hm hl, gregonWord_major x _ _ hm hl, f0, f1, f2, f3]
  try rfl

theorem jalr (x : Issue) (rd ra : Reg) : Statement (.jalr x rd ra) := by
  intro y w b hx hw
  obtain rfl : x = y := Option.some.inj hx
  obtain rfl : gregonWord x 0x1A (low3R rd ra 0 1) = w := Option.some.inj hw
  have b_rd := rd.isLt
  have b_ra := ra.isLt
  have hm : (0x1A : Nat) < 64 := by decide
  have hl : low3R rd ra 0 1 < 2 ^ 22 := by (simp only [low3R]; omega)
  have f0 := gregonWord_reg x _ _ 17 rd hm hl (by decide) (by (simp only [low3R]; omega))
  have f1 := gregonWord_reg x _ _ 12 ra hm hl (by decide) (by (simp only [low3R]; omega))
  have f2 := gregonWord_reg x _ _ 7 (0 : Reg) hm hl (by decide) (by (simp only [low3R]; omega))
  have f3 : wordField (gregonWord x 0x1A (low3R rd ra 0 1)) 6 0 = 1 := (gregonWord_low x _ _ 6 0 hm hl (by decide) (by decide)).trans (by (simp only [low3R]; omega))
  unfold decodeGregon
  simp only [gregonWord_sense x _ _ hm hl, gregonWord_pred x _ _ hm hl, gregonWord_major x _ _ hm hl, f0, f1, f2, f3]
  try rfl

theorem dbnz (x : Issue) (ra : Reg) (disp : BitVec 17) : Statement (.dbnz x ra disp) := by
  intro y w b hx hw
  obtain rfl : x = y := Option.some.inj hx
  obtain rfl : gregonWord x 0x1B (2 ^ 17 * ra.val + disp.toNat) = w := Option.some.inj hw
  have b_ra := ra.isLt
  have b_disp := disp.isLt
  have hm : (0x1B : Nat) < 64 := by decide
  have hl : 2 ^ 17 * ra.val + disp.toNat < 2 ^ 22 := by (omega)
  have f0 := gregonWord_reg x _ _ 17 ra hm hl (by decide) (by (omega))
  have f1 := gregonWord_imm x _ _ disp hm hl (by decide) (by (omega))
  unfold decodeGregon
  simp only [gregonWord_sense x _ _ hm hl, gregonWord_pred x _ _ hm hl, gregonWord_major x _ _ hm hl, f0, f1]
  try rfl

theorem crrd (x : Issue) (g : Reg) (crn : BitVec 12) : Statement (.crrd x g crn) := by
  intro y w b hx hw
  obtain rfl : x = y := Option.some.inj hx
  obtain rfl : gregonWord x 0x1C (2 ^ 17 * g.val + 2 ^ 5 * crn.toNat + 0) = w := Option.some.inj hw
  have b_g := g.isLt
  have b_crn := crn.isLt
  have hm : (0x1C : Nat) < 64 := by decide
  have hl : 2 ^ 17 * g.val + 2 ^ 5 * crn.toNat + 0 < 2 ^ 22 := by (omega)
  have f0 := gregonWord_reg x _ _ 17 g hm hl (by decide) (by (omega))
  have f1 : BitVec.ofNat 12 (wordField (gregonWord x 0x1C (2 ^ 17 * g.val + 2 ^ 5 * crn.toNat + 0)) 16 5) = crn := ofNat_eq crn _ ((gregonWord_low x _ _ 16 5 hm hl (by decide) (by decide)).trans (by (omega)))
  have f2 : wordField (gregonWord x 0x1C (2 ^ 17 * g.val + 2 ^ 5 * crn.toNat + 0)) 4 2 = 0 := (gregonWord_low x _ _ 4 2 hm hl (by decide) (by decide)).trans (by (omega))
  have f3 : wordField (gregonWord x 0x1C (2 ^ 17 * g.val + 2 ^ 5 * crn.toNat + 0)) 1 0 = 0 := (gregonWord_low x _ _ 1 0 hm hl (by decide) (by decide)).trans (by (omega))
  unfold decodeGregon
  simp only [gregonWord_sense x _ _ hm hl, gregonWord_pred x _ _ hm hl, gregonWord_major x _ _ hm hl, f0, f1, f2, f3]
  try rfl

theorem crwr (x : Issue) (g : Reg) (crn : BitVec 12) : Statement (.crwr x g crn) := by
  intro y w b hx hw
  obtain rfl : x = y := Option.some.inj hx
  obtain rfl : gregonWord x 0x1C (2 ^ 17 * g.val + 2 ^ 5 * crn.toNat + 1) = w := Option.some.inj hw
  have b_g := g.isLt
  have b_crn := crn.isLt
  have hm : (0x1C : Nat) < 64 := by decide
  have hl : 2 ^ 17 * g.val + 2 ^ 5 * crn.toNat + 1 < 2 ^ 22 := by (omega)
  have f0 := gregonWord_reg x _ _ 17 g hm hl (by decide) (by (omega))
  have f1 : BitVec.ofNat 12 (wordField (gregonWord x 0x1C (2 ^ 17 * g.val + 2 ^ 5 * crn.toNat + 1)) 16 5) = crn := ofNat_eq crn _ ((gregonWord_low x _ _ 16 5 hm hl (by decide) (by decide)).trans (by (omega)))
  have f2 : wordField (gregonWord x 0x1C (2 ^ 17 * g.val + 2 ^ 5 * crn.toNat + 1)) 4 2 = 0 := (gregonWord_low x _ _ 4 2 hm hl (by decide) (by decide)).trans (by (omega))
  have f3 : wordField (gregonWord x 0x1C (2 ^ 17 * g.val + 2 ^ 5 * crn.toNat + 1)) 1 0 = 1 := (gregonWord_low x _ _ 1 0 hm hl (by decide) (by decide)).trans (by (omega))
  unfold decodeGregon
  simp only [gregonWord_sense x _ _ hm hl, gregonWord_pred x _ _ hm hl, gregonWord_major x _ _ hm hl, f0, f1, f2, f3]
  try rfl

theorem crset (x : Issue) (g : Reg) (crn : BitVec 12) : Statement (.crset x g crn) := by
  intro y w b hx hw
  obtain rfl : x = y := Option.some.inj hx
  obtain rfl : gregonWord x 0x1C (2 ^ 17 * g.val + 2 ^ 5 * crn.toNat + 2) = w := Option.some.inj hw
  have b_g := g.isLt
  have b_crn := crn.isLt
  have hm : (0x1C : Nat) < 64 := by decide
  have hl : 2 ^ 17 * g.val + 2 ^ 5 * crn.toNat + 2 < 2 ^ 22 := by (omega)
  have f0 := gregonWord_reg x _ _ 17 g hm hl (by decide) (by (omega))
  have f1 : BitVec.ofNat 12 (wordField (gregonWord x 0x1C (2 ^ 17 * g.val + 2 ^ 5 * crn.toNat + 2)) 16 5) = crn := ofNat_eq crn _ ((gregonWord_low x _ _ 16 5 hm hl (by decide) (by decide)).trans (by (omega)))
  have f2 : wordField (gregonWord x 0x1C (2 ^ 17 * g.val + 2 ^ 5 * crn.toNat + 2)) 4 2 = 0 := (gregonWord_low x _ _ 4 2 hm hl (by decide) (by decide)).trans (by (omega))
  have f3 : wordField (gregonWord x 0x1C (2 ^ 17 * g.val + 2 ^ 5 * crn.toNat + 2)) 1 0 = 2 := (gregonWord_low x _ _ 1 0 hm hl (by decide) (by decide)).trans (by (omega))
  unfold decodeGregon
  simp only [gregonWord_sense x _ _ hm hl, gregonWord_pred x _ _ hm hl, gregonWord_major x _ _ hm hl, f0, f1, f2, f3]
  try rfl

theorem crclr (x : Issue) (g : Reg) (crn : BitVec 12) : Statement (.crclr x g crn) := by
  intro y w b hx hw
  obtain rfl : x = y := Option.some.inj hx
  obtain rfl : gregonWord x 0x1C (2 ^ 17 * g.val + 2 ^ 5 * crn.toNat + 3) = w := Option.some.inj hw
  have b_g := g.isLt
  have b_crn := crn.isLt
  have hm : (0x1C : Nat) < 64 := by decide
  have hl : 2 ^ 17 * g.val + 2 ^ 5 * crn.toNat + 3 < 2 ^ 22 := by (omega)
  have f0 := gregonWord_reg x _ _ 17 g hm hl (by decide) (by (omega))
  have f1 : BitVec.ofNat 12 (wordField (gregonWord x 0x1C (2 ^ 17 * g.val + 2 ^ 5 * crn.toNat + 3)) 16 5) = crn := ofNat_eq crn _ ((gregonWord_low x _ _ 16 5 hm hl (by decide) (by decide)).trans (by (omega)))
  have f2 : wordField (gregonWord x 0x1C (2 ^ 17 * g.val + 2 ^ 5 * crn.toNat + 3)) 4 2 = 0 := (gregonWord_low x _ _ 4 2 hm hl (by decide) (by decide)).trans (by (omega))
  have f3 : wordField (gregonWord x 0x1C (2 ^ 17 * g.val + 2 ^ 5 * crn.toNat + 3)) 1 0 = 3 := (gregonWord_low x _ _ 1 0 hm hl (by decide) (by decide)).trans (by (omega))
  unfold decodeGregon
  simp only [gregonWord_sense x _ _ hm hl, gregonWord_pred x _ _ hm hl, gregonWord_major x _ _ hm hl, f0, f1, f2, f3]
  try rfl

theorem nop (x : Issue) : Statement (.nop x) := by
  intro y w b hx hw
  obtain rfl : x = y := Option.some.inj hx
  obtain rfl : gregonWord x 0x1D (0) = w := Option.some.inj hw
  have hm : (0x1D : Nat) < 64 := by decide
  have hl : 0 < 2 ^ 22 := by (omega)
  have f0 : wordField (gregonWord x 0x1D (0)) 13 4 = 0 := (gregonWord_low x _ _ 13 4 hm hl (by decide) (by decide)).trans (by (omega))
  have f1 : wordField (gregonWord x 0x1D (0)) 3 0 = 0 := (gregonWord_low x _ _ 3 0 hm hl (by decide) (by decide)).trans (by (omega))
  have f2 : wordField (gregonWord x 0x1D (0)) 21 14 = 0 := (gregonWord_low x _ _ 21 14 hm hl (by decide) (by decide)).trans (by (omega))
  unfold decodeGregon
  simp only [gregonWord_sense x _ _ hm hl, gregonWord_pred x _ _ hm hl, gregonWord_major x _ _ hm hl, f0, f1, f2]
  try rfl

theorem trap (x : Issue) (imm : BitVec 8) : Statement (.trap x imm) := by
  intro y w b hx hw
  obtain rfl : x = y := Option.some.inj hx
  obtain rfl : gregonWord x 0x1D (2 ^ 14 * imm.toNat + 1) = w := Option.some.inj hw
  have b_imm := imm.isLt
  have hm : (0x1D : Nat) < 64 := by decide
  have hl : 2 ^ 14 * imm.toNat + 1 < 2 ^ 22 := by (omega)
  have f0 : wordField (gregonWord x 0x1D (2 ^ 14 * imm.toNat + 1)) 13 4 = 0 := (gregonWord_low x _ _ 13 4 hm hl (by decide) (by decide)).trans (by (omega))
  have f1 : wordField (gregonWord x 0x1D (2 ^ 14 * imm.toNat + 1)) 3 0 = 1 := (gregonWord_low x _ _ 3 0 hm hl (by decide) (by decide)).trans (by (omega))
  have f2 : BitVec.ofNat 8 (wordField (gregonWord x 0x1D (2 ^ 14 * imm.toNat + 1)) 21 14) = imm := ofNat_eq imm _ ((gregonWord_low x _ _ 21 14 hm hl (by decide) (by decide)).trans (by (omega)))
  unfold decodeGregon
  simp only [gregonWord_sense x _ _ hm hl, gregonWord_pred x _ _ hm hl, gregonWord_major x _ _ hm hl, f0, f1, f2]
  try rfl

theorem eret (x : Issue) : Statement (.eret x) := by
  intro y w b hx hw
  obtain rfl : x = y := Option.some.inj hx
  obtain rfl : gregonWord x 0x1D (2) = w := Option.some.inj hw
  have hm : (0x1D : Nat) < 64 := by decide
  have hl : 2 < 2 ^ 22 := by (omega)
  have f0 : wordField (gregonWord x 0x1D (2)) 13 4 = 0 := (gregonWord_low x _ _ 13 4 hm hl (by decide) (by decide)).trans (by (omega))
  have f1 : wordField (gregonWord x 0x1D (2)) 3 0 = 2 := (gregonWord_low x _ _ 3 0 hm hl (by decide) (by decide)).trans (by (omega))
  have f2 : wordField (gregonWord x 0x1D (2)) 21 14 = 0 := (gregonWord_low x _ _ 21 14 hm hl (by decide) (by decide)).trans (by (omega))
  unfold decodeGregon
  simp only [gregonWord_sense x _ _ hm hl, gregonWord_pred x _ _ hm hl, gregonWord_major x _ _ hm hl, f0, f1, f2]
  try rfl

theorem wait (x : Issue) : Statement (.wait x) := by
  intro y w b hx hw
  obtain rfl : x = y := Option.some.inj hx
  obtain rfl : gregonWord x 0x1D (3) = w := Option.some.inj hw
  have hm : (0x1D : Nat) < 64 := by decide
  have hl : 3 < 2 ^ 22 := by (omega)
  have f0 : wordField (gregonWord x 0x1D (3)) 13 4 = 0 := (gregonWord_low x _ _ 13 4 hm hl (by decide) (by decide)).trans (by (omega))
  have f1 : wordField (gregonWord x 0x1D (3)) 3 0 = 3 := (gregonWord_low x _ _ 3 0 hm hl (by decide) (by decide)).trans (by (omega))
  have f2 : wordField (gregonWord x 0x1D (3)) 21 14 = 0 := (gregonWord_low x _ _ 21 14 hm hl (by decide) (by decide)).trans (by (omega))
  unfold decodeGregon
  simp only [gregonWord_sense x _ _ hm hl, gregonWord_pred x _ _ hm hl, gregonWord_major x _ _ hm hl, f0, f1, f2]
  try rfl

theorem brk (x : Issue) : Statement (.brk x) := by
  intro y w b hx hw
  obtain rfl : x = y := Option.some.inj hx
  obtain rfl : gregonWord x 0x1D (4) = w := Option.some.inj hw
  have hm : (0x1D : Nat) < 64 := by decide
  have hl : 4 < 2 ^ 22 := by (omega)
  have f0 : wordField (gregonWord x 0x1D (4)) 13 4 = 0 := (gregonWord_low x _ _ 13 4 hm hl (by decide) (by decide)).trans (by (omega))
  have f1 : wordField (gregonWord x 0x1D (4)) 3 0 = 4 := (gregonWord_low x _ _ 3 0 hm hl (by decide) (by decide)).trans (by (omega))
  have f2 : wordField (gregonWord x 0x1D (4)) 21 14 = 0 := (gregonWord_low x _ _ 21 14 hm hl (by decide) (by decide)).trans (by (omega))
  unfold decodeGregon
  simp only [gregonWord_sense x _ _ hm hl, gregonWord_pred x _ _ hm hl, gregonWord_major x _ _ hm hl, f0, f1, f2]
  try rfl

theorem saveC (x : Issue) : Statement (.saveC x) := by
  intro y w b hx hw
  obtain rfl : x = y := Option.some.inj hx
  obtain rfl : gregonWord x 0x1E (0) = w := Option.some.inj hw
  have hm : (0x1E : Nat) < 64 := by decide
  have hl : 0 < 2 ^ 22 := by (omega)
  have f0 := gregonWord_reg x _ _ 17 (0 : Reg) hm hl (by decide) (by (omega))
  have f1 := gregonWord_reg x _ _ 12 (0 : Reg) hm hl (by decide) (by (omega))
  have f2 := gregonWord_reg x _ _ 7 (0 : Reg) hm hl (by decide) (by (omega))
  have f3 : wordField (gregonWord x 0x1E (0)) 6 0 = 0 := (gregonWord_low x _ _ 6 0 hm hl (by decide) (by decide)).trans (by (omega))
  unfold decodeGregon
  simp only [gregonWord_sense x _ _ hm hl, gregonWord_pred x _ _ hm hl, gregonWord_major x _ _ hm hl, f0, f1, f2, f3]
  try rfl

theorem saveH (x : Issue) : Statement (.saveH x) := by
  intro y w b hx hw
  obtain rfl : x = y := Option.some.inj hx
  obtain rfl : gregonWord x 0x1E (1) = w := Option.some.inj hw
  have hm : (0x1E : Nat) < 64 := by decide
  have hl : 1 < 2 ^ 22 := by (omega)
  have f0 := gregonWord_reg x _ _ 17 (0 : Reg) hm hl (by decide) (by (omega))
  have f1 := gregonWord_reg x _ _ 12 (0 : Reg) hm hl (by decide) (by (omega))
  have f2 := gregonWord_reg x _ _ 7 (0 : Reg) hm hl (by decide) (by (omega))
  have f3 : wordField (gregonWord x 0x1E (1)) 6 0 = 1 := (gregonWord_low x _ _ 6 0 hm hl (by decide) (by decide)).trans (by (omega))
  unfold decodeGregon
  simp only [gregonWord_sense x _ _ hm hl, gregonWord_pred x _ _ hm hl, gregonWord_major x _ _ hm hl, f0, f1, f2, f3]
  try rfl

theorem loadC (x : Issue) : Statement (.loadC x) := by
  intro y w b hx hw
  obtain rfl : x = y := Option.some.inj hx
  obtain rfl : gregonWord x 0x1E (2) = w := Option.some.inj hw
  have hm : (0x1E : Nat) < 64 := by decide
  have hl : 2 < 2 ^ 22 := by (omega)
  have f0 := gregonWord_reg x _ _ 17 (0 : Reg) hm hl (by decide) (by (omega))
  have f1 := gregonWord_reg x _ _ 12 (0 : Reg) hm hl (by decide) (by (omega))
  have f2 := gregonWord_reg x _ _ 7 (0 : Reg) hm hl (by decide) (by (omega))
  have f3 : wordField (gregonWord x 0x1E (2)) 6 0 = 2 := (gregonWord_low x _ _ 6 0 hm hl (by decide) (by decide)).trans (by (omega))
  unfold decodeGregon
  simp only [gregonWord_sense x _ _ hm hl, gregonWord_pred x _ _ hm hl, gregonWord_major x _ _ hm hl, f0, f1, f2, f3]
  try rfl

theorem loadH (x : Issue) : Statement (.loadH x) := by
  intro y w b hx hw
  obtain rfl : x = y := Option.some.inj hx
  obtain rfl : gregonWord x 0x1E (3) = w := Option.some.inj hw
  have hm : (0x1E : Nat) < 64 := by decide
  have hl : 3 < 2 ^ 22 := by (omega)
  have f0 := gregonWord_reg x _ _ 17 (0 : Reg) hm hl (by decide) (by (omega))
  have f1 := gregonWord_reg x _ _ 12 (0 : Reg) hm hl (by decide) (by (omega))
  have f2 := gregonWord_reg x _ _ 7 (0 : Reg) hm hl (by decide) (by (omega))
  have f3 : wordField (gregonWord x 0x1E (3)) 6 0 = 3 := (gregonWord_low x _ _ 6 0 hm hl (by decide) (by decide)).trans (by (omega))
  unfold decodeGregon
  simp only [gregonWord_sense x _ _ hm hl, gregonWord_pred x _ _ hm hl, gregonWord_major x _ _ hm hl, f0, f1, f2, f3]
  try rfl

theorem smov (x : Issue) (rd ra rb : Reg) (size : Size) : Statement (.smov x rd ra rb size) := by
  intro y w b hx hw
  obtain rfl : x = y := Option.some.inj hx
  obtain rfl : gregonWord x 0x20 (low3R rd ra rb (sizeCode size)) = w := Option.some.inj hw
  have b_rd := rd.isLt
  have b_ra := ra.isLt
  have b_rb := rb.isLt
  have b_size := sizeCode_lt size
  have hm : (0x20 : Nat) < 64 := by decide
  have hl : low3R rd ra rb (sizeCode size) < 2 ^ 22 := by (simp only [low3R]; omega)
  have f0 := gregonWord_reg x _ _ 17 rd hm hl (by decide) (by (simp only [low3R]; omega))
  have f1 := gregonWord_reg x _ _ 12 ra hm hl (by decide) (by (simp only [low3R]; omega))
  have f2 := gregonWord_reg x _ _ 7 rb hm hl (by decide) (by (simp only [low3R]; omega))
  have f3 : wordField (gregonWord x 0x20 (low3R rd ra rb (sizeCode size))) 6 0 = (sizeCode size) := (gregonWord_low x _ _ 6 0 hm hl (by decide) (by decide)).trans (by (simp only [low3R]; omega))
  unfold decodeGregon
  simp only [gregonWord_sense x _ _ hm hl, gregonWord_pred x _ _ hm hl, gregonWord_major x _ _ hm hl, f0, f1, f2, f3]
  cases size <;> rfl

theorem sset (x : Issue) (rd ra rb : Reg) (size : Size) : Statement (.sset x rd ra rb size) := by
  intro y w b hx hw
  obtain rfl : x = y := Option.some.inj hx
  obtain rfl : gregonWord x 0x21 (low3R rd ra rb (sizeCode size)) = w := Option.some.inj hw
  have b_rd := rd.isLt
  have b_ra := ra.isLt
  have b_rb := rb.isLt
  have b_size := sizeCode_lt size
  have hm : (0x21 : Nat) < 64 := by decide
  have hl : low3R rd ra rb (sizeCode size) < 2 ^ 22 := by (simp only [low3R]; omega)
  have f0 := gregonWord_reg x _ _ 17 rd hm hl (by decide) (by (simp only [low3R]; omega))
  have f1 := gregonWord_reg x _ _ 12 ra hm hl (by decide) (by (simp only [low3R]; omega))
  have f2 := gregonWord_reg x _ _ 7 rb hm hl (by decide) (by (simp only [low3R]; omega))
  have f3 : wordField (gregonWord x 0x21 (low3R rd ra rb (sizeCode size))) 6 0 = (sizeCode size) := (gregonWord_low x _ _ 6 0 hm hl (by decide) (by decide)).trans (by (simp only [low3R]; omega))
  unfold decodeGregon
  simp only [gregonWord_sense x _ _ hm hl, gregonWord_pred x _ _ hm hl, gregonWord_major x _ _ hm hl, f0, f1, f2, f3]
  cases size <;> rfl

theorem scmp (x : Issue) (rd ra rb : Reg) (size : Size) (pd : PReg) : Statement (.scmp x rd ra rb size pd) := by
  intro y w b hx hw
  obtain rfl : x = y := Option.some.inj hx
  obtain rfl : gregonWord x 0x22 (low3R rd ra rb (2 ^ 2 * pd.val + sizeCode size)) = w := Option.some.inj hw
  have b_rd := rd.isLt
  have b_ra := ra.isLt
  have b_rb := rb.isLt
  have b_size := sizeCode_lt size
  have b_pd := pd.isLt
  have hm : (0x22 : Nat) < 64 := by decide
  have hl : low3R rd ra rb (2 ^ 2 * pd.val + sizeCode size) < 2 ^ 22 := by (simp only [low3R]; omega)
  have f0 := gregonWord_reg x _ _ 17 rd hm hl (by decide) (by (simp only [low3R]; omega))
  have f1 := gregonWord_reg x _ _ 12 ra hm hl (by decide) (by (simp only [low3R]; omega))
  have f2 := gregonWord_reg x _ _ 7 rb hm hl (by decide) (by (simp only [low3R]; omega))
  have f3 : wordField (gregonWord x 0x22 (low3R rd ra rb (2 ^ 2 * pd.val + sizeCode size))) 6 0 = (2 ^ 2 * pd.val + sizeCode size) := (gregonWord_low x _ _ 6 0 hm hl (by decide) (by decide)).trans (by (simp only [low3R]; omega))
  unfold decodeGregon
  simp only [gregonWord_sense x _ _ hm hl, gregonWord_pred x _ _ hm hl, gregonWord_major x _ _ hm hl, f0, f1, f2, f3]
  have e1 : (2 ^ 2 * pd.val + sizeCode size) / 32 = 0 := by omega
  have e2 : sizeField (2 ^ 2 * pd.val + sizeCode size) = size := sizeField_code _ _ (by omega)
  have e3 : Fin.ofNat 8 ((2 ^ 2 * pd.val + sizeCode size) / 4) = pd := Fin.ext (by simp only [Fin.ofNat]; omega)
  simp only [decodeString, e1, e2, e3]
  rfl

theorem sscan (x : Issue) (rd ra rb : Reg) (size : Size) (pd : PReg) : Statement (.sscan x rd ra rb size pd) := by
  intro y w b hx hw
  obtain rfl : x = y := Option.some.inj hx
  obtain rfl : gregonWord x 0x23 (low3R rd ra rb (2 ^ 2 * pd.val + sizeCode size)) = w := Option.some.inj hw
  have b_rd := rd.isLt
  have b_ra := ra.isLt
  have b_rb := rb.isLt
  have b_size := sizeCode_lt size
  have b_pd := pd.isLt
  have hm : (0x23 : Nat) < 64 := by decide
  have hl : low3R rd ra rb (2 ^ 2 * pd.val + sizeCode size) < 2 ^ 22 := by (simp only [low3R]; omega)
  have f0 := gregonWord_reg x _ _ 17 rd hm hl (by decide) (by (simp only [low3R]; omega))
  have f1 := gregonWord_reg x _ _ 12 ra hm hl (by decide) (by (simp only [low3R]; omega))
  have f2 := gregonWord_reg x _ _ 7 rb hm hl (by decide) (by (simp only [low3R]; omega))
  have f3 : wordField (gregonWord x 0x23 (low3R rd ra rb (2 ^ 2 * pd.val + sizeCode size))) 6 0 = (2 ^ 2 * pd.val + sizeCode size) := (gregonWord_low x _ _ 6 0 hm hl (by decide) (by decide)).trans (by (simp only [low3R]; omega))
  unfold decodeGregon
  simp only [gregonWord_sense x _ _ hm hl, gregonWord_pred x _ _ hm hl, gregonWord_major x _ _ hm hl, f0, f1, f2, f3]
  have e1 : (2 ^ 2 * pd.val + sizeCode size) / 32 = 0 := by omega
  have e2 : sizeField (2 ^ 2 * pd.val + sizeCode size) = size := sizeField_code _ _ (by omega)
  have e3 : Fin.ofNat 8 ((2 ^ 2 * pd.val + sizeCode size) / 4) = pd := Fin.ext (by simp only [Fin.ofNat]; omega)
  simp only [decodeString, e1, e2, e3]
  rfl

theorem rep (x : Issue) (rc : Reg) (body : BitVec 32) : Statement (.rep x rc body) := by
  intro y w b hx hw
  obtain rfl : x = y := Option.some.inj hx
  obtain rfl : gregonWord x 0x24 (2 ^ 17 * rc.val) = w := Option.some.inj hw
  have b_rc := rc.isLt
  have hm : (0x24 : Nat) < 64 := by decide
  have hl : 2 ^ 17 * rc.val < 2 ^ 22 := by (omega)
  have f0 : wordField (gregonWord x 0x24 (2 ^ 17 * rc.val)) 16 0 = 0 := (gregonWord_low x _ _ 16 0 hm hl (by decide) (by decide)).trans (by (omega))
  have f1 := gregonWord_reg x _ _ 17 rc hm hl (by decide) (by (omega))
  unfold decodeGregon
  simp only [gregonWord_sense x _ _ hm hl, gregonWord_pred x _ _ hm hl, gregonWord_major x _ _ hm hl, f0, f1]
  try rfl

theorem crcs_crc32c (x : Issue) (rd ra rb : Reg) (size : Size) : Statement (.crcs x rd ra rb size .crc32c) := by
  intro y w b hx hw
  obtain rfl : x = y := Option.some.inj hx
  obtain rfl : gregonWord x 0x25 (low3R rd ra rb (sizeCode size)) = w := Option.some.inj hw
  have b_rd := rd.isLt
  have b_ra := ra.isLt
  have b_rb := rb.isLt
  have b_size := sizeCode_lt size
  have hm : (0x25 : Nat) < 64 := by decide
  have hl : low3R rd ra rb (sizeCode size) < 2 ^ 22 := by (simp only [low3R]; omega)
  have f0 := gregonWord_reg x _ _ 17 rd hm hl (by decide) (by (simp only [low3R]; omega))
  have f1 := gregonWord_reg x _ _ 12 ra hm hl (by decide) (by (simp only [low3R]; omega))
  have f2 := gregonWord_reg x _ _ 7 rb hm hl (by decide) (by (simp only [low3R]; omega))
  have f3 : wordField (gregonWord x 0x25 (low3R rd ra rb (sizeCode size))) 6 0 = (sizeCode size) := (gregonWord_low x _ _ 6 0 hm hl (by decide) (by decide)).trans (by (simp only [low3R]; omega))
  unfold decodeGregon
  simp only [gregonWord_sense x _ _ hm hl, gregonWord_pred x _ _ hm hl, gregonWord_major x _ _ hm hl, f0, f1, f2, f3]
  cases size <;> rfl

theorem crcs_ieee (x : Issue) (rd ra rb : Reg) (size : Size) : Statement (.crcs x rd ra rb size .ieee) := by
  intro y w b hx hw
  obtain rfl : x = y := Option.some.inj hx
  obtain rfl : gregonWord x 0x25 (low3R rd ra rb (4 + sizeCode size)) = w := Option.some.inj hw
  have b_rd := rd.isLt
  have b_ra := ra.isLt
  have b_rb := rb.isLt
  have b_size := sizeCode_lt size
  have hm : (0x25 : Nat) < 64 := by decide
  have hl : low3R rd ra rb (4 + sizeCode size) < 2 ^ 22 := by (simp only [low3R]; omega)
  have f0 := gregonWord_reg x _ _ 17 rd hm hl (by decide) (by (simp only [low3R]; omega))
  have f1 := gregonWord_reg x _ _ 12 ra hm hl (by decide) (by (simp only [low3R]; omega))
  have f2 := gregonWord_reg x _ _ 7 rb hm hl (by decide) (by (simp only [low3R]; omega))
  have f3 : wordField (gregonWord x 0x25 (low3R rd ra rb (4 + sizeCode size))) 6 0 = (4 + sizeCode size) := (gregonWord_low x _ _ 6 0 hm hl (by decide) (by decide)).trans (by (simp only [low3R]; omega))
  unfold decodeGregon
  simp only [gregonWord_sense x _ _ hm hl, gregonWord_pred x _ _ hm hl, gregonWord_major x _ _ hm hl, f0, f1, f2, f3]
  cases size <;> rfl

theorem crcs (x : Issue) (rd ra rb : Reg) (size : Size) (poly : Poly) : Statement (.crcs x rd ra rb size poly) := by
  cases poly
  · exact crcs_crc32c x rd ra rb size
  · exact crcs_ieee x rd ra rb size

theorem par (x : Issue) (rd ra : Reg) : Statement (.par x rd ra) := by
  intro y w b hx hw
  obtain rfl : x = y := Option.some.inj hx
  obtain rfl : gregonWord x 0x26 (low3R rd ra 0 0) = w := Option.some.inj hw
  have b_rd := rd.isLt
  have b_ra := ra.isLt
  have hm : (0x26 : Nat) < 64 := by decide
  have hl : low3R rd ra 0 0 < 2 ^ 22 := by (simp only [low3R]; omega)
  have f0 := gregonWord_reg x _ _ 17 rd hm hl (by decide) (by (simp only [low3R]; omega))
  have f1 := gregonWord_reg x _ _ 12 ra hm hl (by decide) (by (simp only [low3R]; omega))
  have f2 := gregonWord_reg x _ _ 7 (0 : Reg) hm hl (by decide) (by (simp only [low3R]; omega))
  have f3 : wordField (gregonWord x 0x26 (low3R rd ra 0 0)) 6 0 = 0 := (gregonWord_low x _ _ 6 0 hm hl (by decide) (by decide)).trans (by (simp only [low3R]; omega))
  unfold decodeGregon
  simp only [gregonWord_sense x _ _ hm hl, gregonWord_pred x _ _ hm hl, gregonWord_major x _ _ hm hl, f0, f1, f2, f3]
  try rfl

theorem parb (x : Issue) (rd ra : Reg) : Statement (.parb x rd ra) := by
  intro y w b hx hw
  obtain rfl : x = y := Option.some.inj hx
  obtain rfl : gregonWord x 0x26 (low3R rd ra 0 1) = w := Option.some.inj hw
  have b_rd := rd.isLt
  have b_ra := ra.isLt
  have hm : (0x26 : Nat) < 64 := by decide
  have hl : low3R rd ra 0 1 < 2 ^ 22 := by (simp only [low3R]; omega)
  have f0 := gregonWord_reg x _ _ 17 rd hm hl (by decide) (by (simp only [low3R]; omega))
  have f1 := gregonWord_reg x _ _ 12 ra hm hl (by decide) (by (simp only [low3R]; omega))
  have f2 := gregonWord_reg x _ _ 7 (0 : Reg) hm hl (by decide) (by (simp only [low3R]; omega))
  have f3 : wordField (gregonWord x 0x26 (low3R rd ra 0 1)) 6 0 = 1 := (gregonWord_low x _ _ 6 0 hm hl (by decide) (by decide)).trans (by (simp only [low3R]; omega))
  unfold decodeGregon
  simp only [gregonWord_sense x _ _ hm hl, gregonWord_pred x _ _ hm hl, gregonWord_major x _ _ hm hl, f0, f1, f2, f3]
  try rfl

theorem brev (x : Issue) (rd ra : Reg) : Statement (.brev x rd ra) := by
  intro y w b hx hw
  obtain rfl : x = y := Option.some.inj hx
  obtain rfl : gregonWord x 0x26 (low3R rd ra 0 2) = w := Option.some.inj hw
  have b_rd := rd.isLt
  have b_ra := ra.isLt
  have hm : (0x26 : Nat) < 64 := by decide
  have hl : low3R rd ra 0 2 < 2 ^ 22 := by (simp only [low3R]; omega)
  have f0 := gregonWord_reg x _ _ 17 rd hm hl (by decide) (by (simp only [low3R]; omega))
  have f1 := gregonWord_reg x _ _ 12 ra hm hl (by decide) (by (simp only [low3R]; omega))
  have f2 := gregonWord_reg x _ _ 7 (0 : Reg) hm hl (by decide) (by (simp only [low3R]; omega))
  have f3 : wordField (gregonWord x 0x26 (low3R rd ra 0 2)) 6 0 = 2 := (gregonWord_low x _ _ 6 0 hm hl (by decide) (by decide)).trans (by (simp only [low3R]; omega))
  unfold decodeGregon
  simp only [gregonWord_sense x _ _ hm hl, gregonWord_pred x _ _ hm hl, gregonWord_major x _ _ hm hl, f0, f1, f2, f3]
  try rfl

theorem brevb (x : Issue) (rd ra : Reg) : Statement (.brevb x rd ra) := by
  intro y w b hx hw
  obtain rfl : x = y := Option.some.inj hx
  obtain rfl : gregonWord x 0x26 (low3R rd ra 0 3) = w := Option.some.inj hw
  have b_rd := rd.isLt
  have b_ra := ra.isLt
  have hm : (0x26 : Nat) < 64 := by decide
  have hl : low3R rd ra 0 3 < 2 ^ 22 := by (simp only [low3R]; omega)
  have f0 := gregonWord_reg x _ _ 17 rd hm hl (by decide) (by (simp only [low3R]; omega))
  have f1 := gregonWord_reg x _ _ 12 ra hm hl (by decide) (by (simp only [low3R]; omega))
  have f2 := gregonWord_reg x _ _ 7 (0 : Reg) hm hl (by decide) (by (simp only [low3R]; omega))
  have f3 : wordField (gregonWord x 0x26 (low3R rd ra 0 3)) 6 0 = 3 := (gregonWord_low x _ _ 6 0 hm hl (by decide) (by decide)).trans (by (simp only [low3R]; omega))
  unfold decodeGregon
  simp only [gregonWord_sense x _ _ hm hl, gregonWord_pred x _ _ hm hl, gregonWord_major x _ _ hm hl, f0, f1, f2, f3]
  try rfl

theorem brevw (x : Issue) (rd ra : Reg) : Statement (.brevw x rd ra) := by
  intro y w b hx hw
  obtain rfl : x = y := Option.some.inj hx
  obtain rfl : gregonWord x 0x26 (low3R rd ra 0 4) = w := Option.some.inj hw
  have b_rd := rd.isLt
  have b_ra := ra.isLt
  have hm : (0x26 : Nat) < 64 := by decide
  have hl : low3R rd ra 0 4 < 2 ^ 22 := by (simp only [low3R]; omega)
  have f0 := gregonWord_reg x _ _ 17 rd hm hl (by decide) (by (simp only [low3R]; omega))
  have f1 := gregonWord_reg x _ _ 12 ra hm hl (by decide) (by (simp only [low3R]; omega))
  have f2 := gregonWord_reg x _ _ 7 (0 : Reg) hm hl (by decide) (by (simp only [low3R]; omega))
  have f3 : wordField (gregonWord x 0x26 (low3R rd ra 0 4)) 6 0 = 4 := (gregonWord_low x _ _ 6 0 hm hl (by decide) (by decide)).trans (by (simp only [low3R]; omega))
  unfold decodeGregon
  simp only [gregonWord_sense x _ _ hm hl, gregonWord_pred x _ _ hm hl, gregonWord_major x _ _ hm hl, f0, f1, f2, f3]
  try rfl

theorem tld (x : Issue) (td : TileReg) (ra rb : Reg) (rows : BitVec 6) (hint : BitVec 2) : Statement (.tld x td ra rb rows hint) := by
  intro y w b hx hw
  obtain rfl : x = y := Option.some.inj hx
  obtain rfl : gregonWord x 0x28 (2 ^ 19 * td.val + 2 ^ 14 * ra.val + 2 ^ 9 * rb.val + 2 ^ 3 * rows.toNat + 2 * hint.toNat) = w := Option.some.inj hw
  have b_td := td.isLt
  have b_ra := ra.isLt
  have b_rb := rb.isLt
  have b_rows := rows.isLt
  have b_hint := hint.isLt
  have hm : (0x28 : Nat) < 64 := by decide
  have hl : 2 ^ 19 * td.val + 2 ^ 14 * ra.val + 2 ^ 9 * rb.val + 2 ^ 3 * rows.toNat + 2 * hint.toNat < 2 ^ 22 := by (omega)
  have f0 := gregonWord_fin8 x _ _ 19 td hm hl (by decide) (by (omega))
  have f1 := gregonWord_reg x _ _ 14 ra hm hl (by decide) (by (omega))
  have f2 := gregonWord_reg x _ _ 9 rb hm hl (by decide) (by (omega))
  have f3 : BitVec.ofNat 6 (wordField (gregonWord x 0x28 (2 ^ 19 * td.val + 2 ^ 14 * ra.val + 2 ^ 9 * rb.val + 2 ^ 3 * rows.toNat + 2 * hint.toNat)) 8 3) = rows := ofNat_eq rows _ ((gregonWord_low x _ _ 8 3 hm hl (by decide) (by decide)).trans (by (omega)))
  have f4 : BitVec.ofNat 2 (wordField (gregonWord x 0x28 (2 ^ 19 * td.val + 2 ^ 14 * ra.val + 2 ^ 9 * rb.val + 2 ^ 3 * rows.toNat + 2 * hint.toNat)) 2 1) = hint := ofNat_eq hint _ ((gregonWord_low x _ _ 2 1 hm hl (by decide) (by decide)).trans (by (omega)))
  have f5 : wordField (gregonWord x 0x28 (2 ^ 19 * td.val + 2 ^ 14 * ra.val + 2 ^ 9 * rb.val + 2 ^ 3 * rows.toNat + 2 * hint.toNat)) 0 0 = 0 := (gregonWord_low x _ _ 0 0 hm hl (by decide) (by decide)).trans (by (omega))
  unfold decodeGregon
  simp only [gregonWord_sense x _ _ hm hl, gregonWord_pred x _ _ hm hl, gregonWord_major x _ _ hm hl, f0, f1, f2, f3, f4, f5, decodeTile]
  try rfl

theorem tst (x : Issue) (ts : TileReg) (ra rb : Reg) (rows : BitVec 6) : Statement (.tst x ts ra rb rows) := by
  intro y w b hx hw
  obtain rfl : x = y := Option.some.inj hx
  obtain rfl : gregonWord x 0x29 (2 ^ 19 * ts.val + 2 ^ 14 * ra.val + 2 ^ 9 * rb.val + 2 ^ 3 * rows.toNat) = w := Option.some.inj hw
  have b_ts := ts.isLt
  have b_ra := ra.isLt
  have b_rb := rb.isLt
  have b_rows := rows.isLt
  have hm : (0x29 : Nat) < 64 := by decide
  have hl : 2 ^ 19 * ts.val + 2 ^ 14 * ra.val + 2 ^ 9 * rb.val + 2 ^ 3 * rows.toNat < 2 ^ 22 := by (omega)
  have f0 := gregonWord_fin8 x _ _ 19 ts hm hl (by decide) (by (omega))
  have f1 := gregonWord_reg x _ _ 14 ra hm hl (by decide) (by (omega))
  have f2 := gregonWord_reg x _ _ 9 rb hm hl (by decide) (by (omega))
  have f3 : BitVec.ofNat 6 (wordField (gregonWord x 0x29 (2 ^ 19 * ts.val + 2 ^ 14 * ra.val + 2 ^ 9 * rb.val + 2 ^ 3 * rows.toNat)) 8 3) = rows := ofNat_eq rows _ ((gregonWord_low x _ _ 8 3 hm hl (by decide) (by decide)).trans (by (omega)))
  have f4 : wordField (gregonWord x 0x29 (2 ^ 19 * ts.val + 2 ^ 14 * ra.val + 2 ^ 9 * rb.val + 2 ^ 3 * rows.toNat)) 2 0 = 0 := (gregonWord_low x _ _ 2 0 hm hl (by decide) (by decide)).trans (by (omega))
  unfold decodeGregon
  simp only [gregonWord_sense x _ _ hm hl, gregonWord_pred x _ _ hm hl, gregonWord_major x _ _ hm hl, f0, f1, f2, f3, f4, decodeTile]
  try rfl

theorem tmma (x : Issue) (ad : AccReg) (ta tb : TileReg) (fmt : BitVec 3) (z : Bool) : Statement (.tmma x ad ta tb fmt z) := by
  intro y w b hx hw
  obtain rfl : x = y := Option.some.inj hx
  obtain rfl : gregonWord x 0x2A (2 ^ 20 * ad.val + 2 ^ 17 * ta.val + 2 ^ 14 * tb.val + 2 ^ 11 * fmt.toNat + (if z then 2 ^ 10 else 0)) = w := Option.some.inj hw
  have b_ad := ad.isLt
  have b_ta := ta.isLt
  have b_tb := tb.isLt
  have b_fmt := fmt.isLt
  have hm : (0x2A : Nat) < 64 := by decide
  have hl : 2 ^ 20 * ad.val + 2 ^ 17 * ta.val + 2 ^ 14 * tb.val + 2 ^ 11 * fmt.toNat + (if z then 2 ^ 10 else 0) < 2 ^ 22 := by (cases z <;> simp <;> omega)
  have f0 : wordField (gregonWord x 0x2A (2 ^ 20 * ad.val + 2 ^ 17 * ta.val + 2 ^ 14 * tb.val + 2 ^ 11 * fmt.toNat + (if z then 2 ^ 10 else 0))) 9 0 = 0 := (gregonWord_low x _ _ 9 0 hm hl (by decide) (by decide)).trans (by (cases z <;> simp <;> omega))
  have f1 := gregonWord_fin4 x _ _ 20 ad hm hl (by decide) (by (cases z <;> simp <;> omega))
  have f2 := gregonWord_fin8 x _ _ 17 ta hm hl (by decide) (by (cases z <;> simp <;> omega))
  have f3 := gregonWord_fin8 x _ _ 14 tb hm hl (by decide) (by (cases z <;> simp <;> omega))
  have f4 : BitVec.ofNat 3 (wordField (gregonWord x 0x2A (2 ^ 20 * ad.val + 2 ^ 17 * ta.val + 2 ^ 14 * tb.val + 2 ^ 11 * fmt.toNat + (if z then 2 ^ 10 else 0))) 13 11) = fmt := ofNat_eq fmt _ ((gregonWord_low x _ _ 13 11 hm hl (by decide) (by decide)).trans (by (cases z <;> simp <;> omega)))
  have f5 : wordField (gregonWord x 0x2A (2 ^ 20 * ad.val + 2 ^ 17 * ta.val + 2 ^ 14 * tb.val + 2 ^ 11 * fmt.toNat + (if z then 2 ^ 10 else 0))) 10 10 = if z then 1 else 0 := (gregonWord_low x _ _ 10 10 hm hl (by decide) (by decide)).trans (by (cases z <;> simp <;> omega))
  unfold decodeGregon
  simp only [gregonWord_sense x _ _ hm hl, gregonWord_pred x _ _ hm hl, gregonWord_major x _ _ hm hl, f0, f1, f2, f3, f4, f5, decodeTile]
  cases z <;> rfl

theorem tswap (x : Issue) (n : AccReg) : Statement (.tswap x n) := by
  intro y w b hx hw
  obtain rfl : x = y := Option.some.inj hx
  obtain rfl : gregonWord x 0x2B (2 ^ 19 * n.val) = w := Option.some.inj hw
  have b_n := n.isLt
  have hm : (0x2B : Nat) < 64 := by decide
  have hl : 2 ^ 19 * n.val < 2 ^ 22 := by (omega)
  have f0 : wordField (gregonWord x 0x2B (2 ^ 19 * n.val)) 15 4 = 0 := (gregonWord_low x _ _ 15 4 hm hl (by decide) (by decide)).trans (by (omega))
  have f1 : wordField (gregonWord x 0x2B (2 ^ 19 * n.val)) 3 0 = 0 := (gregonWord_low x _ _ 3 0 hm hl (by decide) (by decide)).trans (by (omega))
  have f2 : wordField (gregonWord x 0x2B (2 ^ 19 * n.val)) 21 21 = 0 := (gregonWord_low x _ _ 21 21 hm hl (by decide) (by decide)).trans (by (omega))
  have f3 := gregonWord_fin4 x _ _ 19 n hm hl (by decide) (by (omega))
  have f4 : wordField (gregonWord x 0x2B (2 ^ 19 * n.val)) 18 16 = 0 := (gregonWord_low x _ _ 18 16 hm hl (by decide) (by decide)).trans (by (omega))
  unfold decodeGregon
  simp only [gregonWord_sense x _ _ hm hl, gregonWord_pred x _ _ hm hl, gregonWord_major x _ _ hm hl, f0, f1, f2, f3, f4, decodeTile]
  try rfl

theorem tdrn (x : Issue) (l : AccReg) (td : TileReg) : Statement (.tdrn x l td) := by
  intro y w b hx hw
  obtain rfl : x = y := Option.some.inj hx
  obtain rfl : gregonWord x 0x2B (2 ^ 19 * l.val + 2 ^ 16 * td.val + 1) = w := Option.some.inj hw
  have b_l := l.isLt
  have b_td := td.isLt
  have hm : (0x2B : Nat) < 64 := by decide
  have hl : 2 ^ 19 * l.val + 2 ^ 16 * td.val + 1 < 2 ^ 22 := by (omega)
  have f0 : wordField (gregonWord x 0x2B (2 ^ 19 * l.val + 2 ^ 16 * td.val + 1)) 15 4 = 0 := (gregonWord_low x _ _ 15 4 hm hl (by decide) (by decide)).trans (by (omega))
  have f1 : wordField (gregonWord x 0x2B (2 ^ 19 * l.val + 2 ^ 16 * td.val + 1)) 3 0 = 1 := (gregonWord_low x _ _ 3 0 hm hl (by decide) (by decide)).trans (by (omega))
  have f2 : wordField (gregonWord x 0x2B (2 ^ 19 * l.val + 2 ^ 16 * td.val + 1)) 21 21 = 0 := (gregonWord_low x _ _ 21 21 hm hl (by decide) (by decide)).trans (by (omega))
  have f3 := gregonWord_fin4 x _ _ 19 l hm hl (by decide) (by (omega))
  have f4 := gregonWord_fin8 x _ _ 16 td hm hl (by decide) (by (omega))
  unfold decodeGregon
  simp only [gregonWord_sense x _ _ hm hl, gregonWord_pred x _ _ hm hl, gregonWord_major x _ _ hm hl, f0, f1, f2, f3, f4, decodeTile]
  try rfl

theorem tclra (x : Issue) (n : AccReg) : Statement (.tclra x n) := by
  intro y w b hx hw
  obtain rfl : x = y := Option.some.inj hx
  obtain rfl : gregonWord x 0x2B (2 ^ 19 * n.val + 2) = w := Option.some.inj hw
  have b_n := n.isLt
  have hm : (0x2B : Nat) < 64 := by decide
  have hl : 2 ^ 19 * n.val + 2 < 2 ^ 22 := by (omega)
  have f0 : wordField (gregonWord x 0x2B (2 ^ 19 * n.val + 2)) 15 4 = 0 := (gregonWord_low x _ _ 15 4 hm hl (by decide) (by decide)).trans (by (omega))
  have f1 : wordField (gregonWord x 0x2B (2 ^ 19 * n.val + 2)) 3 0 = 2 := (gregonWord_low x _ _ 3 0 hm hl (by decide) (by decide)).trans (by (omega))
  have f2 : wordField (gregonWord x 0x2B (2 ^ 19 * n.val + 2)) 21 21 = 0 := (gregonWord_low x _ _ 21 21 hm hl (by decide) (by decide)).trans (by (omega))
  have f3 := gregonWord_fin4 x _ _ 19 n hm hl (by decide) (by (omega))
  have f4 : wordField (gregonWord x 0x2B (2 ^ 19 * n.val + 2)) 18 16 = 0 := (gregonWord_low x _ _ 18 16 hm hl (by decide) (by decide)).trans (by (omega))
  unfold decodeGregon
  simp only [gregonWord_sense x _ _ hm hl, gregonWord_pred x _ _ hm hl, gregonWord_major x _ _ hm hl, f0, f1, f2, f3, f4, decodeTile]
  try rfl

theorem tclrt (x : Issue) (t : TileReg) : Statement (.tclrt x t) := by
  intro y w b hx hw
  obtain rfl : x = y := Option.some.inj hx
  obtain rfl : gregonWord x 0x2B (2 ^ 19 * t.val + 3) = w := Option.some.inj hw
  have b_t := t.isLt
  have hm : (0x2B : Nat) < 64 := by decide
  have hl : 2 ^ 19 * t.val + 3 < 2 ^ 22 := by (omega)
  have f0 : wordField (gregonWord x 0x2B (2 ^ 19 * t.val + 3)) 15 4 = 0 := (gregonWord_low x _ _ 15 4 hm hl (by decide) (by decide)).trans (by (omega))
  have f1 : wordField (gregonWord x 0x2B (2 ^ 19 * t.val + 3)) 3 0 = 3 := (gregonWord_low x _ _ 3 0 hm hl (by decide) (by decide)).trans (by (omega))
  have f2 := gregonWord_fin8 x _ _ 19 t hm hl (by decide) (by (omega))
  have f3 : wordField (gregonWord x 0x2B (2 ^ 19 * t.val + 3)) 18 16 = 0 := (gregonWord_low x _ _ 18 16 hm hl (by decide) (by decide)).trans (by (omega))
  unfold decodeGregon
  simp only [gregonWord_sense x _ _ hm hl, gregonWord_pred x _ _ hm hl, gregonWord_major x _ _ hm hl, f0, f1, f2, f3, decodeTile]
  try rfl

theorem tlda (x : Issue) (n : AccReg) (ra : Reg) : Statement (.tlda x n ra) := by
  intro y w b hx hw
  obtain rfl : x = y := Option.some.inj hx
  obtain rfl : gregonWord x 0x2C (2 ^ 20 * n.val + 2 ^ 15 * ra.val) = w := Option.some.inj hw
  have b_n := n.isLt
  have b_ra := ra.isLt
  have hm : (0x2C : Nat) < 64 := by decide
  have hl : 2 ^ 20 * n.val + 2 ^ 15 * ra.val < 2 ^ 22 := by (omega)
  have f0 : wordField (gregonWord x 0x2C (2 ^ 20 * n.val + 2 ^ 15 * ra.val)) 14 1 = 0 := (gregonWord_low x _ _ 14 1 hm hl (by decide) (by decide)).trans (by (omega))
  have f1 : wordField (gregonWord x 0x2C (2 ^ 20 * n.val + 2 ^ 15 * ra.val)) 0 0 = 0 := (gregonWord_low x _ _ 0 0 hm hl (by decide) (by decide)).trans (by (omega))
  have f2 := gregonWord_fin4 x _ _ 20 n hm hl (by decide) (by (omega))
  have f3 := gregonWord_reg x _ _ 15 ra hm hl (by decide) (by (omega))
  unfold decodeGregon
  simp only [gregonWord_sense x _ _ hm hl, gregonWord_pred x _ _ hm hl, gregonWord_major x _ _ hm hl, f0, f1, f2, f3, decodeTile]
  try rfl

theorem tsta (x : Issue) (n : AccReg) (ra : Reg) : Statement (.tsta x n ra) := by
  intro y w b hx hw
  obtain rfl : x = y := Option.some.inj hx
  obtain rfl : gregonWord x 0x2C (2 ^ 20 * n.val + 2 ^ 15 * ra.val + 1) = w := Option.some.inj hw
  have b_n := n.isLt
  have b_ra := ra.isLt
  have hm : (0x2C : Nat) < 64 := by decide
  have hl : 2 ^ 20 * n.val + 2 ^ 15 * ra.val + 1 < 2 ^ 22 := by (omega)
  have f0 : wordField (gregonWord x 0x2C (2 ^ 20 * n.val + 2 ^ 15 * ra.val + 1)) 14 1 = 0 := (gregonWord_low x _ _ 14 1 hm hl (by decide) (by decide)).trans (by (omega))
  have f1 : wordField (gregonWord x 0x2C (2 ^ 20 * n.val + 2 ^ 15 * ra.val + 1)) 0 0 = 1 := (gregonWord_low x _ _ 0 0 hm hl (by decide) (by decide)).trans (by (omega))
  have f2 := gregonWord_fin4 x _ _ 20 n hm hl (by decide) (by (omega))
  have f3 := gregonWord_reg x _ _ 15 ra hm hl (by decide) (by (omega))
  unfold decodeGregon
  simp only [gregonWord_sense x _ _ hm hl, gregonWord_pred x _ _ hm hl, gregonWord_major x _ _ hm hl, f0, f1, f2, f3, decodeTile]
  try rfl

theorem custw0 (x : Issue) (rd ra rb : Reg) (func : BitVec 7) : Statement (.custw0 x rd ra rb func) := by
  intro y w b hx hw
  obtain rfl : x = y := Option.some.inj hx
  obtain rfl : gregonWord x 0x3C (low3R rd ra rb func.toNat) = w := Option.some.inj hw
  have b_rd := rd.isLt
  have b_ra := ra.isLt
  have b_rb := rb.isLt
  have b_func := func.isLt
  have hm : (0x3C : Nat) < 64 := by decide
  have hl : low3R rd ra rb func.toNat < 2 ^ 22 := by (simp only [low3R]; omega)
  have f0 := gregonWord_reg x _ _ 17 rd hm hl (by decide) (by (simp only [low3R]; omega))
  have f1 := gregonWord_reg x _ _ 12 ra hm hl (by decide) (by (simp only [low3R]; omega))
  have f2 := gregonWord_reg x _ _ 7 rb hm hl (by decide) (by (simp only [low3R]; omega))
  have f3 : wordField (gregonWord x 0x3C (low3R rd ra rb func.toNat)) 6 0 = func.toNat := (gregonWord_low x _ _ 6 0 hm hl (by decide) (by decide)).trans (by (simp only [low3R]; omega))
  unfold decodeGregon
  simp only [gregonWord_sense x _ _ hm hl, gregonWord_pred x _ _ hm hl, gregonWord_major x _ _ hm hl, f0, f1, f2, f3]
  rw [BitVec.ofNat_toNat, BitVec.setWidth_eq]

theorem custw1 (x : Issue) (rd ra rb : Reg) (func : BitVec 7) : Statement (.custw1 x rd ra rb func) := by
  intro y w b hx hw
  obtain rfl : x = y := Option.some.inj hx
  obtain rfl : gregonWord x 0x3D (low3R rd ra rb func.toNat) = w := Option.some.inj hw
  have b_rd := rd.isLt
  have b_ra := ra.isLt
  have b_rb := rb.isLt
  have b_func := func.isLt
  have hm : (0x3D : Nat) < 64 := by decide
  have hl : low3R rd ra rb func.toNat < 2 ^ 22 := by (simp only [low3R]; omega)
  have f0 := gregonWord_reg x _ _ 17 rd hm hl (by decide) (by (simp only [low3R]; omega))
  have f1 := gregonWord_reg x _ _ 12 ra hm hl (by decide) (by (simp only [low3R]; omega))
  have f2 := gregonWord_reg x _ _ 7 rb hm hl (by decide) (by (simp only [low3R]; omega))
  have f3 : wordField (gregonWord x 0x3D (low3R rd ra rb func.toNat)) 6 0 = func.toNat := (gregonWord_low x _ _ 6 0 hm hl (by decide) (by decide)).trans (by (simp only [low3R]; omega))
  unfold decodeGregon
  simp only [gregonWord_sense x _ _ hm hl, gregonWord_pred x _ _ hm hl, gregonWord_major x _ _ hm hl, f0, f1, f2, f3]
  rw [BitVec.ofNat_toNat, BitVec.setWidth_eq]

theorem cust0 (x : Issue) (rd ra rb : Reg) (func : BitVec 7) : Statement (.cust0 x rd ra rb func) := by
  intro y w b hx hw
  obtain rfl : x = y := Option.some.inj hx
  obtain rfl : gregonWord x 0x3E (low3R rd ra rb func.toNat) = w := Option.some.inj hw
  have b_rd := rd.isLt
  have b_ra := ra.isLt
  have b_rb := rb.isLt
  have b_func := func.isLt
  have hm : (0x3E : Nat) < 64 := by decide
  have hl : low3R rd ra rb func.toNat < 2 ^ 22 := by (simp only [low3R]; omega)
  have f0 := gregonWord_reg x _ _ 17 rd hm hl (by decide) (by (simp only [low3R]; omega))
  have f1 := gregonWord_reg x _ _ 12 ra hm hl (by decide) (by (simp only [low3R]; omega))
  have f2 := gregonWord_reg x _ _ 7 rb hm hl (by decide) (by (simp only [low3R]; omega))
  have f3 : wordField (gregonWord x 0x3E (low3R rd ra rb func.toNat)) 6 0 = func.toNat := (gregonWord_low x _ _ 6 0 hm hl (by decide) (by decide)).trans (by (simp only [low3R]; omega))
  unfold decodeGregon
  simp only [gregonWord_sense x _ _ hm hl, gregonWord_pred x _ _ hm hl, gregonWord_major x _ _ hm hl, f0, f1, f2, f3]
  rw [BitVec.ofNat_toNat, BitVec.setWidth_eq]

theorem cust1 (x : Issue) (rd ra rb : Reg) (func : BitVec 7) : Statement (.cust1 x rd ra rb func) := by
  intro y w b hx hw
  obtain rfl : x = y := Option.some.inj hx
  obtain rfl : gregonWord x 0x3F (low3R rd ra rb func.toNat) = w := Option.some.inj hw
  have b_rd := rd.isLt
  have b_ra := ra.isLt
  have b_rb := rb.isLt
  have b_func := func.isLt
  have hm : (0x3F : Nat) < 64 := by decide
  have hl : low3R rd ra rb func.toNat < 2 ^ 22 := by (simp only [low3R]; omega)
  have f0 := gregonWord_reg x _ _ 17 rd hm hl (by decide) (by (simp only [low3R]; omega))
  have f1 := gregonWord_reg x _ _ 12 ra hm hl (by decide) (by (simp only [low3R]; omega))
  have f2 := gregonWord_reg x _ _ 7 rb hm hl (by decide) (by (simp only [low3R]; omega))
  have f3 : wordField (gregonWord x 0x3F (low3R rd ra rb func.toNat)) 6 0 = func.toNat := (gregonWord_low x _ _ 6 0 hm hl (by decide) (by decide)).trans (by (simp only [low3R]; omega))
  unfold decodeGregon
  simp only [gregonWord_sense x _ _ hm hl, gregonWord_pred x _ _ hm hl, gregonWord_major x _ _ hm hl, f0, f1, f2, f3]
  rw [BitVec.ofNat_toNat, BitVec.setWidth_eq]

theorem testModeChange (level : Bool) : Statement (.testModeChange level) :=
  fun _ _ _ _ h => nomatch h

theorem referenceLoss (present : BitVec 48) : Statement (.referenceLoss present) :=
  fun _ _ _ _ h => nomatch h

theorem referenceJoin (present : BitVec 48) : Statement (.referenceJoin present) :=
  fun _ _ _ _ h => nomatch h

theorem sourceReturn (link : Option LinkId) : Statement (.sourceReturn link) :=
  fun _ _ _ _ h => nomatch h

theorem driftWindowEnd (dA dL : Option (BitVec 16)) : Statement (.driftWindowEnd dA dL) :=
  fun _ _ _ _ h => nomatch h

theorem throttleEvaluation (pEst : BitVec 10) : Statement (.throttleEvaluation pEst) :=
  fun _ _ _ _ h => nomatch h

theorem stopDemandChange (a b : Bool) (edges : Nat) : Statement (.stopDemandChange a b edges) :=
  fun _ _ _ _ h => nomatch h

theorem startupSelfTest (pass : Bool) : Statement (.startupSelfTest pass) :=
  fun _ _ _ _ h => nomatch h

theorem selfTestPeriodStart (pass : Bool) : Statement (.selfTestPeriodStart pass) :=
  fun _ _ _ _ h => nomatch h

theorem tileKnownAnswerTest (core : CoreId) (pass : Bool) : Statement (.tileKnownAnswerTest core pass) :=
  fun _ _ _ _ h => nomatch h

theorem quayKnownAnswerTest (engine : SliceId) (pass : Bool) : Statement (.quayKnownAnswerTest engine pass) :=
  fun _ _ _ _ h => nomatch h

theorem faultRecord (arrivals : List FaultEvent) : Statement (.faultRecord arrivals) :=
  fun _ _ _ _ h => nomatch h

theorem faultAcknowledge (src : BitVec 6) (inst : BitVec 8) : Statement (.faultAcknowledge src inst) :=
  fun _ _ _ _ h => nomatch h

theorem hostRequest (id : HostId) (write : Bool) (addr : BitVec 24) (be : BitVec 8) (wdata : Word) : Statement (.hostRequest id write addr be wdata) :=
  fun _ _ _ _ h => nomatch h

theorem hostReply (id : HostId) : Statement (.hostReply id) :=
  fun _ _ _ _ h => nomatch h

theorem registerWrite (id : HostId) (addr : BitVec 24) (wdata : Word) : Statement (.registerWrite id addr wdata) :=
  fun _ _ _ _ h => nomatch h

theorem readClear (id : HostId) (addr : BitVec 24) : Statement (.readClear id addr) :=
  fun _ _ _ _ h => nomatch h

theorem stagingWrite (id : HostId) (offset : BitVec 24) (wdata : Word) : Statement (.stagingWrite id offset wdata) :=
  fun _ _ _ _ h => nomatch h

theorem commit (id : HostId) (sect : BitVec 8) : Statement (.commit id sect) :=
  fun _ _ _ _ h => nomatch h

theorem discard (id : HostId) (sect : BitVec 8) : Statement (.discard id sect) :=
  fun _ _ _ _ h => nomatch h

theorem unitRequest (id : HostId) (value : Word) : Statement (.unitRequest id value) :=
  fun _ _ _ _ h => nomatch h

theorem unitRelease (id : HostId) (value : Word) : Statement (.unitRelease id value) :=
  fun _ _ _ _ h => nomatch h

theorem bwAttnWrite (id : HostId) (value : Word) : Statement (.bwAttnWrite id value) :=
  fun _ _ _ _ h => nomatch h

theorem doorbellRing (id : HostId) (ring : BitVec 16) : Statement (.doorbellRing id ring) :=
  fun _ _ _ _ h => nomatch h

theorem tileSave (id : HostId) (save : BitVec 16) : Statement (.tileSave id save) :=
  fun _ _ _ _ h => nomatch h

theorem cleanAll (id : HostId) : Statement (.cleanAll id) :=
  fun _ _ _ _ h => nomatch h

theorem invalidateAll (id : HostId) : Statement (.invalidateAll id) :=
  fun _ _ _ _ h => nomatch h

theorem cleanAndInvalidate (id : HostId) : Statement (.cleanAndInvalidate id) :=
  fun _ _ _ _ h => nomatch h

theorem l2ArrayTest (id : HostId) : Statement (.l2ArrayTest id) :=
  fun _ _ _ _ h => nomatch h

theorem coreArrayTest (id : HostId) (core : CoreId) : Statement (.coreArrayTest id core) :=
  fun _ _ _ _ h => nomatch h

theorem arrayTestDone (core : Option CoreId) (fail : Bool) : Statement (.arrayTestDone core fail) :=
  fun _ _ _ _ h => nomatch h

theorem halt (id : HostId) (core : CoreId) : Statement (.halt id core) :=
  fun _ _ _ _ h => nomatch h

theorem resume (id : HostId) (core : CoreId) : Statement (.resume id core) :=
  fun _ _ _ _ h => nomatch h

theorem step (id : HostId) (core : CoreId) : Statement (.step id core) :=
  fun _ _ _ _ h => nomatch h

theorem berthRegisterAccess (id : HostId) (core : CoreId) (write : Bool) (offset : BitVec 16) (wdata : Word) : Statement (.berthRegisterAccess id core write offset wdata) :=
  fun _ _ _ _ h => nomatch h

theorem debugRequest (req wdata : Word) : Statement (.debugRequest req wdata) :=
  fun _ _ _ _ h => nomatch h

theorem gateWrite (id : HostId) (value : Word) : Statement (.gateWrite id value) :=
  fun _ _ _ _ h => nomatch h

theorem reselect (id : HostId) : Statement (.reselect id) :=
  fun _ _ _ _ h => nomatch h

theorem safeClear (id : HostId) : Statement (.safeClear id) :=
  fun _ _ _ _ h => nomatch h

theorem stopFaultClear (id : HostId) : Statement (.stopFaultClear id) :=
  fun _ _ _ _ h => nomatch h

theorem release (id : HostId) (outputs : BitVec 10) : Statement (.release id outputs) :=
  fun _ _ _ _ h => nomatch h

theorem kick (id : HostId) : Statement (.kick id) :=
  fun _ _ _ _ h => nomatch h

theorem inject (id : HostId) (src : BitVec 6) (inst : BitVec 8) : Statement (.inject id src inst) :=
  fun _ _ _ _ h => nomatch h

theorem logEnable (id : HostId) (base : BitVec 36) (sizeLog2 : BitVec 4) : Statement (.logEnable id base sizeLog2) :=
  fun _ _ _ _ h => nomatch h

theorem harbourGo (id : HostId) (notice : BitVec 10) : Statement (.harbourGo id notice) :=
  fun _ _ _ _ h => nomatch h

theorem harbourReopen (id : HostId) (notice : BitVec 10) : Statement (.harbourReopen id notice) :=
  fun _ _ _ _ h => nomatch h

theorem memoryRequest (port : SliceId) (write : Bool) (client : Client) (addr : BitVec 42) (len : Bool) (tag : BitVec 9) (data : BitVec 1024) (strb : BitVec 128) : Statement (.memoryRequest port write client addr len tag data strb) :=
  fun _ _ _ _ h => nomatch h

theorem memoryReadResponse (port : SliceId) (tag : BitVec 9) (data : BitVec 1024) (err : BitVec 2) : Statement (.memoryReadResponse port tag data err) :=
  fun _ _ _ _ h => nomatch h

theorem memoryWriteAck (port : SliceId) (tag : BitVec 9) (err : BitVec 2) : Statement (.memoryWriteAck port tag err) :=
  fun _ _ _ _ h => nomatch h

theorem memoryResponseLate (port : SliceId) (tag : BitVec 9) : Statement (.memoryResponseLate port tag) :=
  fun _ _ _ _ h => nomatch h

theorem ingressBeat (first : Bool) (data : Line) : Statement (.ingressBeat first data) :=
  fun _ _ _ _ h => nomatch h

theorem insert (slot : Fin 16) (entry : BitVec 24) (room : Bool) : Statement (.insert slot entry room) :=
  fun _ _ _ _ h => nomatch h

theorem delete (slot : Fin 16) : Statement (.delete slot) :=
  fun _ _ _ _ h => nomatch h

theorem lookup (slot : Fin 16) : Statement (.lookup slot) :=
  fun _ _ _ _ h => nomatch h

theorem tableResponse (tag : Fin 16) (data : BitVec 128) : Statement (.tableResponse tag data) :=
  fun _ _ _ _ h => nomatch h

theorem coprocessorResponse (core : CoreId) (tag : BitVec 5) (data : Word) (err : Bool) : Statement (.coprocessorResponse core tag data err) :=
  fun _ _ _ _ h => nomatch h

theorem coprocessorTimeout (core : CoreId) (tag : BitVec 5) : Statement (.coprocessorTimeout core tag) :=
  fun _ _ _ _ h => nomatch h

theorem lpnUpRise (link : LinkId) : Statement (.lpnUpRise link) :=
  fun _ _ _ _ h => nomatch h

theorem lpnUpFall (link : LinkId) : Statement (.lpnUpFall link) :=
  fun _ _ _ _ h => nomatch h

theorem flitSlot (link : LinkId) (ready : Bool) (now : Word) : Statement (.flitSlot link ready now) :=
  fun _ _ _ _ h => nomatch h

theorem flitReceive (link : LinkId) (framed : Bool) (flit : BitVec 2048) (now : Word) : Statement (.flitReceive link framed flit now) :=
  fun _ _ _ _ h => nomatch h

theorem nakReceive (link : LinkId) (seq : BitVec 16) : Statement (.nakReceive link seq) :=
  fun _ _ _ _ h => nomatch h

theorem initReceive (link : LinkId) (node : BitVec 15) (role : BitVec 2) : Statement (.initReceive link node role) :=
  fun _ _ _ _ h => nomatch h

theorem markerReceive (link : LinkId) (tTx pTx pRx now : Word) : Statement (.markerReceive link tTx pTx pRx now) :=
  fun _ _ _ _ h => nomatch h

theorem idle (link : LinkId) : Statement (.idle link) :=
  fun _ _ _ _ h => nomatch h

theorem sleep (link : LinkId) : Statement (.sleep link) :=
  fun _ _ _ _ h => nomatch h

theorem agree (link : LinkId) : Statement (.agree link) :=
  fun _ _ _ _ h => nomatch h

theorem deny (link : LinkId) : Statement (.deny link) :=
  fun _ _ _ _ h => nomatch h

theorem wake (link : LinkId) : Statement (.wake link) :=
  fun _ _ _ _ h => nomatch h

theorem wakeack (link : LinkId) : Statement (.wakeack link) :=
  fun _ _ _ _ h => nomatch h

theorem txPend (link : LinkId) : Statement (.txPend link) :=
  fun _ _ _ _ h => nomatch h

theorem sleepTimer (link : LinkId) : Statement (.sleepTimer link) :=
  fun _ _ _ _ h => nomatch h

theorem calDue (link : LinkId) : Statement (.calDue link) :=
  fun _ _ _ _ h => nomatch h

theorem arrivalAccept (core : CoreId) : Statement (.arrivalAccept core) :=
  fun _ _ _ _ h => nomatch h

theorem spillReturn (core : CoreId) : Statement (.spillReturn core) :=
  fun _ _ _ _ h => nomatch h

theorem pilotSelect (core : CoreId) : Statement (.pilotSelect core) :=
  fun _ _ _ _ h => nomatch h

theorem berthSwitch (core : CoreId) : Statement (.berthSwitch core) :=
  fun _ _ _ _ h => nomatch h

theorem eventEntry (core : CoreId) : Statement (.eventEntry core) :=
  fun _ _ _ _ h => nomatch h

theorem tableCommandSend (slot : Fin 16) : Statement (.tableCommandSend slot) :=
  fun _ _ _ _ h => nomatch h

theorem storeBufferDrain (core : CoreId) : Statement (.storeBufferDrain core) :=
  fun _ _ _ _ h => nomatch h

theorem storeAck (core : CoreId) (err : Bool) : Statement (.storeAck core err) :=
  fun _ _ _ _ h => nomatch h

theorem lateBusError (core : CoreId) : Statement (.lateBusError core) :=
  fun _ _ _ _ h => nomatch h

theorem l2Fill (core : CoreId) (fetch : Option (BitVec 48)) : Statement (.l2Fill core fetch) :=
  fun _ _ _ _ h => nomatch h

theorem tideCleanWriteback (slice : SliceId) : Statement (.tideCleanWriteback slice) :=
  fun _ _ _ _ h => nomatch h

theorem dirtyVictim (addr : BitVec 48) : Statement (.dirtyVictim addr) :=
  fun _ _ _ _ h => nomatch h

theorem streamFetch (core : CoreId) : Statement (.streamFetch core) :=
  fun _ _ _ _ h => nomatch h

theorem tilePrefetch (core : CoreId) : Statement (.tilePrefetch core) :=
  fun _ _ _ _ h => nomatch h

theorem tileClaim (core : CoreId) : Statement (.tileClaim core) :=
  fun _ _ _ _ h => nomatch h

theorem tileEntryStart (core : CoreId) (index : Fin 32) : Statement (.tileEntryStart core index) :=
  fun _ _ _ _ h => nomatch h

theorem tileEntryComplete (core : CoreId) (index : Fin 32) : Statement (.tileEntryComplete core index) :=
  fun _ _ _ _ h => nomatch h

theorem epilogueDescriptorRead (core : CoreId) : Statement (.epilogueDescriptorRead core) :=
  fun _ _ _ _ h => nomatch h

theorem drainRow (core : CoreId) : Statement (.drainRow core) :=
  fun _ _ _ _ h => nomatch h

theorem dispatchHandoff (core : CoreId) : Statement (.dispatchHandoff core) :=
  fun _ _ _ _ h => nomatch h

theorem dispatchOutcome (index : Nat) : Statement (.dispatchOutcome index) :=
  fun _ _ _ _ h => nomatch h

theorem overflowRecordWrite (core : CoreId) : Statement (.overflowRecordWrite core) :=
  fun _ _ _ _ h => nomatch h

theorem overflowTakeReread (core : CoreId) : Statement (.overflowTakeReread core) :=
  fun _ _ _ _ h => nomatch h

theorem accumulatorUpdate (engine : SliceId) : Statement (.accumulatorUpdate engine) :=
  fun _ _ _ _ h => nomatch h

theorem mergeWrite (engine : SliceId) (index : Fin 64) : Statement (.mergeWrite engine index) :=
  fun _ _ _ _ h => nomatch h

theorem ringPutPublish (region : Fin 4096) : Statement (.ringPutPublish region) :=
  fun _ _ _ _ h => nomatch h

theorem launchStart (engine : SliceId) : Statement (.launchStart engine) :=
  fun _ _ _ _ h => nomatch h

theorem microOpIssue (engine : SliceId) : Statement (.microOpIssue engine) :=
  fun _ _ _ _ h => nomatch h

theorem scrubRead (engine : SliceId) : Statement (.scrubRead engine) :=
  fun _ _ _ _ h => nomatch h

theorem scrubResponse (engine : SliceId) (err : BitVec 2) : Statement (.scrubResponse engine err) :=
  fun _ _ _ _ h => nomatch h

theorem putStore (core : CoreId) (queue : QueueId) (value : Word) : Statement (.putStore core queue value) :=
  fun _ _ _ _ h => nomatch h

theorem queueResume (core : CoreId) (queue : QueueId) (put : BitVec 32) : Statement (.queueResume core queue put) :=
  fun _ _ _ _ h => nomatch h

theorem watchStore (core : CoreId) (watch : WatchId) (value : Word) : Statement (.watchStore core watch value) :=
  fun _ _ _ _ h => nomatch h

theorem counterStore (core : CoreId) (ctr : Ctr) (value : Word) : Statement (.counterStore core ctr value) :=
  fun _ _ _ _ h => nomatch h

theorem watchFire (watch : WatchId) : Statement (.watchFire watch) :=
  fun _ _ _ _ h => nomatch h

theorem descriptorFetch (queue : QueueId) : Statement (.descriptorFetch queue) :=
  fun _ _ _ _ h => nomatch h

theorem nopDescriptor (queue : QueueId) : Statement (.nopDescriptor queue) :=
  fun _ _ _ _ h => nomatch h

theorem writeDescriptor (queue : QueueId) : Statement (.writeDescriptor queue) :=
  fun _ _ _ _ h => nomatch h

theorem readDescriptor (queue : QueueId) : Statement (.readDescriptor queue) :=
  fun _ _ _ _ h => nomatch h

theorem descriptorFinish (queue : QueueId) : Statement (.descriptorFinish queue) :=
  fun _ _ _ _ h => nomatch h

theorem operationTimeout (index : Nat) : Statement (.operationTimeout index) :=
  fun _ _ _ _ h => nomatch h

theorem runArm (chain : ChainId) : Statement (.runArm chain) :=
  fun _ _ _ _ h => nomatch h

theorem frameLaunch (chain : ChainId) : Statement (.frameLaunch chain) :=
  fun _ _ _ _ h => nomatch h

theorem operandRead (chain : ChainId) : Statement (.operandRead chain) :=
  fun _ _ _ _ h => nomatch h

theorem hawserFrame (index : Nat) : Statement (.hawserFrame index) :=
  fun _ _ _ _ h => nomatch h

theorem porstNAssert : Statement (.porstNAssert) :=
  fun _ _ _ _ h => nomatch h

theorem porstNDeassert : Statement (.porstNDeassert) :=
  fun _ _ _ _ h => nomatch h

theorem rootLock : Statement (.rootLock) :=
  fun _ _ _ _ h => nomatch h

theorem wrstNAssert : Statement (.wrstNAssert) :=
  fun _ _ _ _ h => nomatch h

theorem supWarnRise : Statement (.supWarnRise) :=
  fun _ _ _ _ h => nomatch h

theorem supplyEpisodeEnd : Statement (.supplyEpisodeEnd) :=
  fun _ _ _ _ h => nomatch h

theorem supReset : Statement (.supReset) :=
  fun _ _ _ _ h => nomatch h

theorem refLocalAbsent : Statement (.refLocalAbsent) :=
  fun _ _ _ _ h => nomatch h

theorem refLocalPresent : Statement (.refLocalPresent) :=
  fun _ _ _ _ h => nomatch h

theorem lossOfEverySource : Statement (.lossOfEverySource) :=
  fun _ _ _ _ h => nomatch h

theorem dividerChangeSequence : Statement (.dividerChangeSequence) :=
  fun _ _ _ _ h => nomatch h

theorem stopDiscrepancyFault : Statement (.stopDiscrepancyFault) :=
  fun _ _ _ _ h => nomatch h

theorem keepaliveExpiry : Statement (.keepaliveExpiry) :=
  fun _ _ _ _ h => nomatch h

theorem logRecordWrite : Statement (.logRecordWrite) :=
  fun _ _ _ _ h => nomatch h

theorem logTakeReread : Statement (.logTakeReread) :=
  fun _ _ _ _ h => nomatch h

theorem logWriteError : Statement (.logWriteError) :=
  fun _ _ _ _ h => nomatch h

theorem commitDone : Statement (.commitDone) :=
  fun _ _ _ _ h => nomatch h

theorem consistencyCheckDone : Statement (.consistencyCheckDone) :=
  fun _ _ _ _ h => nomatch h

theorem l2MaintDone : Statement (.l2MaintDone) :=
  fun _ _ _ _ h => nomatch h

theorem traceSend : Statement (.traceSend) :=
  fun _ _ _ _ h => nomatch h

theorem noticeEnd : Statement (.noticeEnd) :=
  fun _ _ _ _ h => nomatch h

theorem drainEnd : Statement (.drainEnd) :=
  fun _ _ _ _ h => nomatch h

theorem harbourClosed : Statement (.harbourClosed) :=
  fun _ _ _ _ h => nomatch h

theorem ingressCreditGrant : Statement (.ingressCreditGrant) :=
  fun _ _ _ _ h => nomatch h

theorem ingressDescriptor : Statement (.ingressDescriptor) :=
  fun _ _ _ _ h => nomatch h

theorem inboxRecordWrite : Statement (.inboxRecordWrite) :=
  fun _ _ _ _ h => nomatch h

theorem inboxTakeReread : Statement (.inboxTakeReread) :=
  fun _ _ _ _ h => nomatch h

theorem dispatchWriteStart : Statement (.dispatchWriteStart) :=
  fun _ _ _ _ h => nomatch h

theorem ringAppend : Statement (.ringAppend) :=
  fun _ _ _ _ h => nomatch h

theorem launchRecord : Statement (.launchRecord) :=
  fun _ _ _ _ h => nomatch h

theorem launchComplete : Statement (.launchComplete) :=
  fun _ _ _ _ h => nomatch h

theorem arrivingWrite : Statement (.arrivingWrite) :=
  fun _ _ _ _ h => nomatch h

theorem arrivingRead : Statement (.arrivingRead) :=
  fun _ _ _ _ h => nomatch h

theorem arrivingAppend : Statement (.arrivingAppend) :=
  fun _ _ _ _ h => nomatch h

theorem ack : Statement (.ack) :=
  fun _ _ _ _ h => nomatch h

theorem readData : Statement (.readData) :=
  fun _ _ _ _ h => nomatch h

theorem supResetRelease : Statement (.supResetRelease) :=
  fun _ _ _ _ h => nomatch h

theorem supWarnFall : Statement (.supWarnFall) :=
  fun _ _ _ _ h => nomatch h

end Sys2Proof.Laws.RoundTrip
end

