-- ==== Sys2Proof/Tests/Slice0.lean ====
section
/-! SUPPORT. The tests: for every statement with hypotheses a witness of each clause, and the results that the spec's rules
give for it, worked out by hand; the operand checks, each with a command that it refuses. `ends` asks whether an outcome is
a next state that passes a test. -/

namespace Sys2Proof.Tests
open Sys2Proof.Machine

set_option Elab.async false
/-- A body of `len` bytes from values, each at a byte offset. -/
def bodyOf (len : Nat) (l : List (Nat × Nat)) : Blob := { len := len, bits := l.foldl (fun a x => a + x.2 * 2 ^ (8 * x.1)) 0 }

/-- A MEMORY_MAP of one range of 1 MiB at 0, with the dock window at 0x10_0000_0000 and the table-port window above it. -/
def mapBody : Blob := bodyOf 48 [(0, 1), (2, 800), (8, 0x1000000000), (16, 0x2000000000), (32, 0), (40, 0x100000)]

/-- General registers from a list of numbers and values. -/
def regs (l : List (Reg × Word)) : Vector Word 32 := l.foldl (fun g x => g.set x.1 x.2) (Vector.replicate 32 0)

/-- The block with its root locked, every unit enabled and berth 0 of core 0 running at M: g1 is 0x1000, g2 8, g3 0x2001,
g4 2^48 and g5 3. -/
def base : State :=
  let k := Core.reset
  let g := regs [(1, 0x1000), (2, 8), (3, 0x2001), (4, 0x1000000000000), (5, 3)]
  { State.reset with
    porst := false, rootLocked := true, cpPresent := 0xFFFF
    si := { Si.reset with enable := 0xFFFF03FF, active := [(secMap, mapBody)] }
    cores := State.reset.cores.set 0
      { k with running := some 0, berths := k.berths.set 0 { Berth.reset with waiting := false, pc := 0x100, g := g } } }

/-- Core 0, always. -/
def x0 : Issue := { core := 0, sense := false, pred := 0 }

/-- Core 0, never while p1 is 0. -/
def x1 : Issue := { core := 0, sense := false, pred := 1 }

/-- Berth 0 of core 0 changed. -/
def at0 (f : Berth → Berth) : State := base.mapBerth 0 0 f

/-- A state in which the slice of a line holds it for a quay program, launch 3. -/
def holding (line : Nat) (s : State) : State := { s with l2 := { s.l2 with holds := [{ line := line, launch := 3, chunk := 4 }] } }

/-- Core 0 changed. -/
def core0 (f : Core → Core) : State := base.setCore 0 (f (base.core 0))

/-- An older instruction of core 0 waits. -/
def stuckBehind (i : Instr) : State := core0 fun k => { k with stalled := some i }

/-- Another section active beside the map. -/
def withSect (id : Nat) (b : Blob) (s : State) : State := s.mapSi fun i => { i with active := aput id b i.active }

/-- Whether an outcome is a next state that satisfies a test. -/
def ends (o : Host.Outcome State Fault Refusal) (f : State → Bool) : Bool :=
  match o with
  | .next t => f t
  | .fault _ | .refused _ => false

theorem base_executes : base.Executes x0 0 := by unfold State.Executes; decide +kernel


-- Instructions of a core: witnesses and tests -----------------------------------------------------------------------------

theorem retires_add : Retires (.add x0 7 1 2) x0 (fun y => y.setReg 7 (y.reg 1 + y.reg 2)) :=
  Sys2Proof.Laws.retires_of_regInstruction fun _ => rfl
theorem retires_pand : Retires (.pand x0 2 1 0) x0 (fun y => y.setPred 2 (y.pred 1 && y.pred 0)) :=
  Sys2Proof.Laws.retires_of_regInstruction fun _ => rfl

/-- IntegerArithmetic (the worked example of R68: ADDI g3, g4, -8). -/
theorem test_addi : ends (exec (.addi x0 3 4 0xFF8) base) (fun t => (t.berth 0 0).reg 3 == 0xFFFFFFFFFFF8) = true := by
  decide +kernel
theorem test_sraw : ends (exec (.sraw x0 6 7 5) (at0 fun y => y.setReg 7 0x1_8000_0000)) (fun t =>
    (t.berth 0 0).reg 6 == 0xFFFFFFFF_F0000000) = true := by decide +kernel
theorem test_mulh : ends (exec (.mulh x0 6 7 7) (at0 fun y => y.setReg 7 (-1))) (fun t => (t.berth 0 0).reg 6 == 0) = true ∧
    ends (exec (.mulhu x0 6 7 7) (at0 fun y => y.setReg 7 (-1))) (fun t => (t.berth 0 0).reg 6 == 0xFFFFFFFFFFFFFFFE) = true := by
  decide +kernel
/-- Division: a zero divisor, and the overflow (R74). -/
theorem test_div : ends (exec (.div x0 6 1 0) base) (fun t => (t.berth 0 0).reg 6 == -1) = true ∧
    ends (exec (.div x0 6 7 8) (at0 fun y => (y.setReg 7 (1 <<< 63)).setReg 8 (-1)))
      (fun t => (t.berth 0 0).reg 6 == 1 <<< 63) = true := by decide +kernel
/-- CRCS: the worked example of R89, "123456789" through CRC-32C (0xE3069283 after the final inversion). -/
theorem test_crcs : ends (exec (.crcs x0 10 10 11 .b8 .crc32c)
      (at0 fun y => (y.setReg 10 (-1)).setReg 11 0x3837363534333231)) (fun t =>
    ends (exec (.crcs x0 10 10 12 .b1 .crc32c) (t.mapBerth 0 0 fun y => y.setReg 12 0x39)) fun u =>
      ((u.berth 0 0).reg 10) ^^^ 0xFFFFFFFF == 0xE3069283) = true := by decide +kernel
theorem test_predicates : (1 : PReg) ≠ 0 ∧ ends (exec (.cmpi x0 1 1 0x3FF .ltu) base) (fun t => (t.berth 0 0).pred 1) = true ∧
    ends (exec (.cmpi x0 1 1 0x3FF .lt) base) (fun t => (t.berth 0 0).pred 1) = false := by decide +kernel

theorem witness_checks : base.runner 0 = some 0 ∧ (base.core 0).stalled = none ∧ (base.berth 0 0).midway = false ∧
    (base.berth 0 0).pred 1 = x1.sense ∧ x1.pred ≠ 0 ∧
    decodeGregon 0 0x03C00000 0 = none ∧ (0x80000000 : BitVec 32).toNat / 2 ^ 28 = 8 ∧
    (decodeGregon 0 0x00464FF8 0).isSome = true ∧
    ends (exec (.st x1 1 3 .b8 0) base) (fun t => t == base.retire x0 0 id) = true ∧
    ends (exec (.unassignedMajor 0 0x03C00000) base) (fun t =>
      t == (base.mapBerth 0 0 Berth.countMode).raise 0 0 1 0) = true ∧
    ends (exec (.tst x1 0 1 2 33) base) (fun t => t == (base.issued x0 0).raise 0 0 1 0) = true := by decide +kernel
/-- A word that the decoder reads and that spells an illegal form: LDS of size 3. -/
theorem witness_checks_illegal : ∃ w i, decodeGregon 0 w 0 = some i ∧ base.legal i = false ∧ (∀ x rc body, i ≠ .rep x rc body) ∧
    ends (exec (.unassignedMajor 0 w) base) (fun t => t == (base.mapBerth 0 0 Berth.countMode).raise 0 0 1 0) = true :=
  ⟨(encodeGregon (.lds x0 6 1 .b8 0)).getD 0, .lds x0 6 1 .b8 0, by decide +kernel, by decide +kernel, by simp, by decide +kernel⟩
/-- Behind an instruction that waits a younger one waits, in the last place of the reorder buffer and with none left. -/
theorem witness_mustWait : (stuckBehind (.fence x0)).mustWait 0 = true ∧
    (base.mapBerth 0 0 fun y => { y with customer := some 3 }).mustWait 0 = true ∧
    ends (exec (.add x0 6 1 2) (stuckBehind (.fence x0))) (fun t => (t.core 0).rob == [.add x0 6 1 2] && (t.berth 0 0).pc == 0x100) = true ∧
    ends (exec (.wait x0) (base.mapBerth 0 0 fun y => { y with customer := some 3 })) (fun t =>
      (t.core 0).stalled == some (.wait x0)) = true ∧
    ends (exec (.brk x0) ((stuckBehind (.fence x0)).setCore 0 { (stuckBehind (.fence x0)).core 0 with rob := List.replicate 447 (.nop x0) }))
      (fun t => (t.core 0).rob.length == 447) = true := by decide +kernel
theorem witness_privilege : (at0 fun y => { y with priv := 0 }).Executes x0 0 := by unfold State.Executes; decide +kernel
theorem test_privilege : ends (exec (.eret x0) (at0 fun y => { y with priv := 0 })) (fun t =>
    t == ((at0 fun y => { y with priv := 0 }).issued x0 0).raise 0 0 2 0) = true := by decide +kernel

/-- A gangway table at 0 with a good descriptor for entries 1 and 300 and none for the others. -/
def gates : State := { base with
  mem := cellsPut (cellsPut [] 32 (0x4000 + 0x7 * 2 ^ 64) (2 ^ 32 - 1) 32) 9600 (0x5000 + 0x0107 * 2 ^ 64) (2 ^ 32 - 1) 32 }
theorem witness_entry : ((gates.abandon 0 0).readGangway 0 0 1).2 = some { handler := 0x4000, priv := 3, keepIe := false, trapMin := 0 } ∧
    (((gates.abandon 0 0).readGangway 0 0 1).1.core 0).traceEn = false ∧ (gates.core 0).running = some 0 ∧
    ((gates.raise 0 0 1 5).berth 0 0).pc = 0x4000 ∧ ((gates.raise 0 0 1 5).berth 0 0).era = 0x100 ∧
    ((gates.raise 0 0 1 5).berth 0 0).estat = 0x50C01 := by decide +kernel
theorem witness_gangwayFault_halts :
    let u := (base.abandon 0 0).readGangway 0 0 5; let w := u.1.readGangway 0 0 9
    u.2 = none ∧ w.2 = none ∧ (w.1.core 0).running = some 0 ∧ w.1.bw.queue = [] ∧ w.1.bw.unacked = [] ∧
    ((base.raise 0 0 5 0).berth 0 0).halted = true ∧ (base.raise 0 0 5 0).bw.pendU.getLsbD 0x11 = true := by decide +kernel
/-- A table whose descriptor 9 is good. -/
def gate9 : State := { base with mem := cellsPut [] 288 (0x6000 + 0x3 * 2 ^ 64) (2 ^ 32 - 1) 32 }
theorem witness_gangwayFault_enters : let u := (gate9.abandon 0 0).readGangway 0 0 5
    u.2 = none ∧ (u.1.readGangway 0 0 9).2 = some { handler := 0x6000, priv := 1, keepIe := false, trapMin := 0 } ∧
    ((u.1.readGangway 0 0 9).1.core 0).traceEn = false ∧
    ((gate9.raise 0 0 5 0).berth 0 0).pc = 0x6000 := by decide +kernel

/-- Loads: a byte at 0x1007 with bit 7 set, read by LDU and LDS, and by LSX with post-increment. -/
def loadBase : State := { base with mem := cellsPut [] 0x1000 0x8877665544332211 255 8 }
theorem witness_loads : (loadBase.berth 0 0).reg 1 + (7 : BitVec 10).signExtend 64 * BitVec.ofNat 64 1 = 0x1007 ∧
    ((loadBase.issued x0 0).coreLoad 0 0x1007 .b1).2 = .ok 0x88 ∧ 0x1007 % sizeBytes .b1 = 0 ∧
    loadBase.inWindow 0x1007 = false ∧ loadBase.mapped 0x1007 = true ∧ loadBase.scratchLine (0x1007 / 64) = false ∧
    loadBase.l2.find (0x1007 / 64) = none ∧ (loadBase.core 0).l1d.find (0x1007 / 64) = none ∧ (loadBase.core 0).sb = [] ∧
    aget (0x1007 / 64) loadBase.l2.poison = none := by decide +kernel
/-- The same bytes with their line in the L1D. -/
def cached : State := loadBase.setCore 0 { loadBase.core 0 with
  l1d := { L1.empty with lines := [{ line := 64, way := 0, data := 0x8877665544332211 }] } }
theorem witness_loads_cached : ((cached.issued x0 0).coreLoad 0 0x1007 .b1).2 = .ok 0x88 ∧ cached.loadWaits 0 0x1007 .b1 false = false ∧
    cached.loadWaits 0 0x1000 .b8 false = false ∧ (6 : Reg) ≠ 1 ∧ (Size.b1 : Size) ≠ .b8 ∧
    loadBase.l2.den.getLsbD 0 = true ∧ (0x1007 : Word).toNat < 2 ^ 48 ∧
    ends (exec (.ldu x0 6 1 .b1 7) loadBase) (fun t => (t.core 0).stalled == some (.ldu x0 6 1 .b1 7) && (t.core 0).fills == [64]) = true ∧
    ends (exec (.lsxLoadPostinc x0 6 1 0 .b8 false) (loadBase.setCore 0 { loadBase.core 0 with fills := [64] })) (fun t =>
      (t.core 0).stalled.isSome && (t.core 0).fills == [64]) = true := by decide +kernel
theorem test_loads : ends (exec (.ldu x0 6 1 .b1 7) cached) (fun t => (t.berth 0 0).reg 6 == 0x88) = true ∧
    ends (exec (.lds x0 6 1 .b1 7) cached) (fun t => (t.berth 0 0).reg 6 == 0xFFFFFFFFFFFFFF88) = true ∧
    ends (exec (.lsxLoadPostinc x0 6 1 0 .b8 false) cached) (fun t =>
      (t.berth 0 0).reg 6 == 0x8877665544332211 && (t.berth 0 0).reg 1 == 0x1008) = true := by decide +kernel
theorem test_load_after_store : 0x1000 < 2 ^ 48 ∧ (loadBase.coreStore 0 0 0x1000 0xAABB .b2).inWindow 0x1000 = false ∧
    (loadBase.coreStore 0 0 0x1000 0xAABB .b2).mapped 0x1000 = true ∧
    ((loadBase.coreStore 0 0 0x1000 0xAABB .b2).coreLoad 0 0x1000 .b2).2 = .ok 0xAABB := by decide +kernel

theorem witness_stores : (base.berth 0 0).reg 1 + (1 : BitVec 10).signExtend 64 * BitVec.ofNat 64 8 = 0x1008 ∧
    (0x1008 : Word).toNat % 8 = 0 ∧ (0x1008 : Word).toNat < 2 ^ 48 ∧ (base.core 0).sb.length < 16 ∧
    ends (exec (.st x0 3 1 .b8 1) base) (fun t => t.mem == base.mem && (t.core 0).sb ==
      [{ berth := 0, addr := 0x1008, data := 0x2001, size := .b8 }]) = true := by decide +kernel
/-- A full store buffer. -/
def fullBuffer : State := core0 fun k => { k with sb := List.replicate 16 { berth := 0, addr := 0x1000, data := 0, size := .b1 } }
theorem witness_stores_full : 16 ≤ (fullBuffer.core 0).sb.length ∧ (fullBuffer.issued x0 0).runner 0 = some 0 ∧
    ends (exec (.lsxStorePostinc x0 2 1 0 .b8 false) fullBuffer) (fun t => (t.core 0).sb.length == 16 &&
      (t.berth 0 0).reg 1 == 0x1008) = true := by decide +kernel
/-- The full buffer with the line of its oldest store held. -/
theorem witness_stores_held : (∃ e rest, ((holding 64 fullBuffer).core 0).sb = e :: rest ∧ (holding 64 fullBuffer).lineHeld (e.addr.toNat / 64) = true) ∧
    ends (exec (.st x0 3 1 .b8 1) (holding 64 fullBuffer)) (fun t => (t.core 0).stalled == some (.st x0 3 1 .b8 1)) = true :=
  ⟨⟨_, _, rfl, by decide +kernel⟩, by decide +kernel⟩
theorem witness_addressChecks : ((base.berth 0 0).reg 3).toNat % 4 ≠ 0 ∧ ((base.berth 0 0).reg 4).toNat % 8 = 0 ∧
    2 ^ 48 ≤ ((base.berth 0 0).reg 4).toNat ∧ (6 : Reg) ≠ 3 ∧
    ends (exec (.cas x0 6 3 2 true) base) (fun t => t == (base.issued x0 0).raise 0 0 3 0x2001) = true ∧
    ends (exec (.ldu x0 6 4 .b8 0) base) (fun t => t == (base.issued x0 0).raise 0 0 4 0) = true ∧
    ends (exec (.lsxStorePostinc x0 6 3 0 .b4 false) base) (fun t => t == (base.issued x0 0).raise 0 0 3 0x2001) = true := by
  decide +kernel

theorem witness_atomics : ((loadBase.berth 0 0).reg 1).toNat < 2 ^ 48 ∧ (loadBase.issued x0 0).inWindow 0x1000 = false ∧
    (loadBase.issued x0 0).mapped 0x1000 = true ∧
    (((((loadBase.issued x0 0).drainAll 0)).l2Fill 64).sliceRead 64).2.getLsbD 0 = false ∧ loadBase.lineWaits 64 = false ∧
    loadBase.sbHeld 0 = false ∧ (holding 64 loadBase).lineWaits 64 = true ∧
    ends (exec (.swap x0 6 1 2 false) (holding 64 loadBase)) (fun t => (t.core 0).stalled == some (.swap x0 6 1 2 false)) = true ∧
    ends (exec (.amoAdd x0 6 1 2 true) loadBase) (fun t => (t.berth 0 0).reg 6 == 0x8877665544332211 &&
      ((t.sliceRead 64).1.toNat % 2 ^ 64 == 0x8877665544332219)) = true ∧
    ends (exec (.amoMin x0 6 1 7 false) (loadBase.mapBerth 0 0 fun y => y.setReg 7 0x80000000)) (fun t =>
      (t.berth 0 0).reg 6 == 0x44332211 && ((t.sliceRead 64).1.toNat % 2 ^ 64 == 0x8877665580000000)) = true ∧
    ends (exec (.cas x0 6 1 2 true) loadBase) (fun t => (t.berth 0 0).reg 6 == 0x8877665544332211 &&
      ((t.sliceRead 64).1.toNat % 2 ^ 64 == 0x8877665544332211)) = true := by decide +kernel

theorem witness_prefetches : 2 ^ 48 ≤ ((base.berth 0 0).reg 4 + (0 : BitVec 12).signExtend 64).toNat ∧
    ((base.berth 0 0).reg 1).toNat < 2 ^ 48 ∧ base.inRange 0x1000 = true ∧ base.l2.find 64 = none ∧
    base.missFull (sliceOf 64) = false ∧ base.l2.den.getLsbD 0 = true ∧ (base.core 0).l1d.find 64 = none ∧
    64 ∉ (base.core 0).fills ∧ ({ base with l2 := { base.l2 with den := 0 } } : State).l2.den.getLsbD 0 = false ∧
    ends (exec (.prefL1d x0 1 0) base) (fun t => (t.core 0).fills == [64] && ((t.l2.find 64).map (·.mask)) == some (-1)) = true ∧
    ends (exec (.prefStreamStart x0 1 0) base) (fun t => (t.core 0).streams == [{ next := 64, high := 64 }]) = true := by
  decide +kernel
/-- Prefetches of the tile unit: in memory, above 2^48, and in a line that the L2 holds. -/
def tilePf (base_ : Word) : State := core0 fun k => { k with tile := { k.tile with
  pf := [{ base := base_, stride := 64, rows := 2, next := 0 }] } }
/-- Every miss entry of slice 4, the slice of line 64, is in use. -/
def missesFull (s : State) : State :=
  { s with ports := s.ports.set 4 (List.replicate 256 { tag := 0, write := false, client := .slice, line := 7, len := false }) }
/-- A whole line in the L2. -/
def heldLine (s : State) : State := { s with l2 := { s.l2 with lines := [{ line := 64, way := 0, data := 0x99, mask := BitVec.allOnes 64, dirty := false, sharers := 0, poison := 0 }] } }
theorem witness_tilePrefetch : (tilePf 0x1000).tileRuns 0 = true ∧ (tilePf 0x1000).scratchLine 64 = false ∧
    (tilePf 0x1000).inRange 0x1000 = true ∧ (tilePf 0x1000).l2.find 64 = none ∧
    (tilePf 0x1000).missFull (sliceOf 64) = false ∧ (tilePf 0x1000000000000).tileRuns 0 = true ∧
    ((((tilePf 0x1000).l2Fill 64).l2.find 64).map (·.mask)) = some (BitVec.allOnes 64) ∧
    (missesFull (tilePf 0x1000)).missFull (sliceOf 64) = true ∧ (missesFull (tilePf 0x1000)).missing 64 = false ∧
    ((heldLine (tilePf 0x1000)).l2.find 64).map (·.mask) = some (BitVec.allOnes 64) ∧
    ends (exec (.tilePrefetch 0) (missesFull (tilePf 0x1000))) (fun t => t.l2.skips[(4 : SliceId)] == 1 && (t.l2.find 64).isNone) = true ∧
    ends (exec (.tilePrefetch 0) (heldLine (tilePf 0x1000))) (fun t => (t.core 0).tile.pf.map (·.next) == [1]) = true ∧
    ends (exec (.tilePrefetch 0) (tilePf 0x1000)) (fun t => (t.l2.find 64).isSome) = true ∧
    ends (exec (.tilePrefetch 0) (tilePf 0x1000000000000)) (fun t =>
      (t.core 0).tile.pf == [{ base := 0x1000000000000, stride := 64, rows := 2, next := 1 }]) = true := by decide +kernel

/-- A dirty line in the L2: the bytes of 0x1000, all valid. -/
def dirtyLine : L2Line := { line := 64, way := 0, data := 0x99, mask := BitVec.allOnes 64, dirty := true, sharers := 0, poison := 0 }
def dirtyL2 : State := { base with l2 := { base.l2 with lines := [dirtyLine], order := [64] } }
theorem witness_maintenance : dirtyL2.scratchLine 64 = false ∧ dirtyL2.lineHeld 64 = false ∧ (holding 64 dirtyL2).lineHeld 64 = true ∧
    ends (exec (.l2ClnA x0 1) (holding 64 dirtyL2)) (fun t => (t.core 0).stalled == some (.l2ClnA x0 1)) = true ∧ dirtyL2.l2.find 64 = some dirtyLine ∧
    ((dirtyL2.berth 0 0).reg 1).toNat < 2 ^ 48 ∧ 1 ≤ (dirtyL2.berth 0 0).priv.toNat ∧
    2 ^ 48 ≤ ((dirtyL2.berth 0 0).reg 4).toNat ∧
    ends (exec (.l2ClnA x0 1) dirtyL2) (fun t => t.mem == [(0x1000, 0x99)] && t.l2.order == [] &&
      (t.l2.find 64).map (·.dirty) == some false) = true ∧
    ends (exec (.l2CiA x0 1) dirtyL2) (fun t => t.mem == [(0x1000, 0x99)] && t.l2.lines == []) = true ∧
    ends (exec (.l2InvA x0 1) dirtyL2) (fun t => t.mem == [] && t.l2.lines == []) = true := by decide +kernel
/-- The whole of the slices that a body of one scratch way in the L2_PLAN gives, at 0x8000_0000. -/
def withScratch : State := withSect secL2 (bodyOf 64 [(0, 1), (16, 0x80000000), (24, 4)]) base
theorem witness_maintenance_scratch : withScratch.scratchLine (0x80000000 / 64) = true := by decide +kernel
/-- The line 0x1000 lies in slice 4, set 4: its set-and-way operand with way 0 is 0x40040. -/
theorem witness_setAndWay : 0x40040 < 2 ^ 20 ∧ 0x40040 / 2 ^ 15 % 2 = 0 ∧ dirtyL2.l2.at 4 4 0 = some dirtyLine ∧
    dirtyL2.scratchLine dirtyLine.line = false ∧ dirtyL2.lineHeld dirtyLine.line = false ∧ dirtyL2.l2.at 4 4 1 = none ∧
    ¬ (0x40040 / 2 ^ 16 % 16 = 0) ∧ ¬ (0x108040 / 2 ^ 15 % 2 = 0) ∧
    ends (exec (.l2CiSw x0 6) (dirtyL2.mapBerth 0 0 fun y => y.setReg 6 0x40040)) (fun t =>
      t.l2.lines == [] && t.mem == [(0x1000, 0x99)]) = true ∧
    ends (exec (.icInvSw x0 6) (dirtyL2.mapBerth 0 0 fun y => y.setReg 6 0x40040)) (fun t =>
      t == ((dirtyL2.mapBerth 0 0 fun y => y.setReg 6 0x40040).issued x0 0).raise 0 0 1 0) = true := by decide +kernel
/-- A line of each L1 cache at set 64, way 2. -/
def l1Lines : State := core0 fun k => { k with
  l1i := { k.l1i with lines := [{ line := 64, way := 2, data := 0 }] }, l1d := { k.l1d with lines := [{ line := 64, way := 2, data := 0 }] } }
theorem witness_setAndWay_l1 : (0x402 / 2 ^ 16 % 16 = 0 ∧ 0x402 / 16 % 2048 = 64 ∧ 0x402 % 16 = 2) ∧
    ((l1Lines.core 0).l1i.at 256 64 2).isSome = true ∧ ((l1Lines.core 0).l1d.at 128 64 2).isSome = true ∧
    (l1Lines.core 0).l1i.at 256 64 1 = none ∧ (l1Lines.core 0).l1d.at 128 64 1 = none ∧
    ends (exec (.dcInvSw x0 6) (l1Lines.mapBerth 0 0 fun y => y.setReg 6 0x402)) (fun t => (t.core 0).l1d.lines == []) = true := by
  decide +kernel

/-- A store that a memory port has yet to acknowledge. -/
def warned : State := core0 fun k => { k with sent := [{ kind := .core, berth := 0, addr := 0x1000, err := false, port := true }] }
theorem witness_fences : (∀ e ∈ (base.core 0).tile.queue, ¬ (e.berth = 0 ∧ e.op.stores = true)) ∧
    fullBuffer.sbHeld 0 = false ∧ ((fullBuffer.drainAll 0).core 0).sent.all (fun d => !d.port) = true ∧
    ((warned.drainAll 0).core 0).sent.any (fun d => d.port && d.kind == .core) = true ∧ (holding 64 fullBuffer).sbHeld 0 = true ∧
    ends (exec (.fence x0) warned) (fun t => (t.core 0).stalled == some (.fence x0) && (t.core 0).sent.length == 1) = true ∧
    ends (exec (.fenceSt x0) (holding 64 fullBuffer)) (fun t => (t.core 0).stalled == some (.fenceSt x0) && (t.core 0).sb.length == 16) = true ∧
    ends (exec (.fence x0) fullBuffer) (fun t => (t.core 0).sb == [] && (t.core 0).sent == []) = true := by decide +kernel
/-- A tile store of berth 0 in the queue. -/
def tileStore : State := core0 fun k => { k with tile := { k.tile with
  queue := [{ berth := 0, op := .tst 0 0x1000 64 1, started := false, done := false, flags := 0, errs := [] }] } }
theorem witness_fenceT : (tileStore.runner 0 = some 0 ∧ ∃ e ∈ (tileStore.core 0).tile.queue, e.berth = 0 ∧ e.op.stores = true) ∧
    ends (exec (.fenceT x0) tileStore) (fun t => (t.core 0).stalled == some (.fenceT x0) && (t.berth 0 0).pc == 0x100) = true := by decide +kernel

theorem witness_branches : ((base.berth 0 0).reg 1).toNat % 4 = 0 ∧ ((base.berth 0 0).reg 3).toNat % 4 ≠ 0 ∧
    (base.berth 0 0).reg 2 - 1 ≠ 0 ∧ (at0 fun y => y.setReg 6 1).Executes x0 0 ∧
    ((at0 fun y => y.setReg 6 1).berth 0 0).reg 6 - 1 = 0 ∧ (base.core 0).traceEn = false := by
  refine ⟨?_, ?_, ?_, ⟨?_, ?_⟩, ?_, ?_⟩ <;> decide +kernel
theorem test_branches : ends (exec (.br x0 0x3FFFFF) base) (fun t => (t.berth 0 0).pc == 0xFC) = true ∧
    ends (exec (.jalr x0 1 1) base) (fun t => (t.berth 0 0).pc == 0x1000 && (t.berth 0 0).reg 1 == 0x104) = true ∧
    ends (exec (.dbnz x0 2 4) base) (fun t => (t.berth 0 0).pc == 0x110 && (t.berth 0 0).reg 2 == 7) = true := by
  decide +kernel

theorem witness_controlRegisters : 1 ≤ (base.berth 0 0).priv.toNat ∧ base.tilePending 0 0 = false ∧
    tileStore.tilePending 0 0 = true ∧ crOf 0x000 = some .pstat ∧ Cr.pstat ≠ .time ∧ crOf 0x011 = some .fstat ∧
    (base.berth 0 0).reg 1 &&& Cr.pstat.reserved ≠ 0 ∧ ¬ ((base.berth 0 0).reg 0 &&& Cr.pstat.reserved ≠ 0 ∨
      Cr.badCode .pstat ((base.berth 0 0).reg 0) = true) ∧
    ¬ ((base.berth 0 0).priv.toNat < Cr.pstat.writePriv) ∧
    ((at0 fun y => { y with priv := 1 }).berth 0 0).priv.toNat < ((base.berth 0 0).reg 5).toNat % 4 := by decide +kernel
/-- The shadow of Table 11 of "Gregon instruction set": three instructions under the old mode. -/
theorem test_modeShadow : let y := ((base.berth 0 0).writeMode 1)
    y.modePend ≠ [] ∧ y.countMode.mode = 0 ∧ y.countMode.countMode.countMode.mode = 0 ∧
    y.countMode.countMode.countMode.countMode.mode = 1 ∧ y.modeLast = 1 := by decide +kernel
theorem test_crwr : ends (exec (.crwr x0 0 0x000) base) (fun t => (t.berth 0 0).priv == 0) = true ∧
    ends (exec (.crwr x0 5 0x010) base) (fun t => (t.berth 0 0).modeLast == 3 && (t.berth 0 0).mode == 0) = true ∧
    ends (exec (.crwr x0 5 0x000) (at0 fun y => { y with priv := 1 })) (fun t =>
      t == ((at0 fun y => { y with priv := 1 }).issued x0 0).raise 0 0 2 0) = true := by decide +kernel

theorem witness_trap : ((gates.issued x0 0).readGangway 0 0 300).2 = some { handler := 0x5000, priv := 3, keepIe := false, trapMin := 1 } ∧
    (1 : Nat) ≤ (gates.berth 0 0).priv.toNat ∧
    ends (exec (.trap x0 44) gates) (fun t => (t.berth 0 0).pc == 0x5000 && (t.berth 0 0).era == 0x104) = true := by decide +kernel
/-- The same table for a berth at U: entry 300 asks for S, and entry 2 is good. -/
def gatesU : State := { gates with mem := cellsPut gates.mem 64 (0x7000 + 0x7 * 2 ^ 64) (2 ^ 32 - 1) 32 }.mapBerth 0 0 fun y =>
  { y with priv := 0 }
theorem witness_trap_refused : ((gatesU.issued x0 0).readGangway 0 0 300).2 =
      some { handler := 0x5000, priv := 3, keepIe := false, trapMin := 1 } ∧
    (((gatesU.issued x0 0).readGangway 0 0 300).1.berth 0 0).priv = ((gatesU.issued x0 0).berth 0 0).priv ∧
    ((gatesU.issued x0 0).berth 0 0).priv.toNat < 1 ∧
    ends (exec (.trap x0 44) gatesU) (fun t => (t.berth 0 0).pc == 0x7000 && (t.berth 0 0).era == 0x100) = true := by decide +kernel
theorem witness_eret : 1 ≤ ((at0 fun y => { y with estat := 0x3601, era := 0x2000 }).berth 0 0).priv.toNat ∧
    (0x3601 / 2 ^ 10 % 4 = 1 ∧ 1 ≤ 3) ∧ ((at0 fun y => { y with estat := 0x3601 }).berth 0 0).lbe = none ∧
    ends (exec (.eret x0) (at0 fun y => { y with estat := 0x3601, era := 0x2000 })) (fun t =>
      (t.berth 0 0).pc == 0x2000 && (t.berth 0 0).priv == 1 && (t.berth 0 0).ie && (t.berth 0 0).prio == 3) = true := by
  decide +kernel
theorem witness_eret_refused : let s := at0 fun y => { y with estat := 0xC00, priv := 1 }
    1 ≤ (s.berth 0 0).priv.toNat ∧ (s.berth 0 0).priv.toNat < (s.berth 0 0).estat.toNat / 2 ^ 10 % 4 ∧
    ends (exec (.eret x0) s) (fun t => t == (s.issued x0 0).raise 0 0 2 0) = true := by decide +kernel
theorem witness_brk : (core0 fun k => { k with hold := true }).runner 0 = some 0 ∧
    ((core0 fun k => { k with hold := true }).core 0).traceEn = false ∧ (base.core 0).hold = false ∧
    ends (exec (.brk x0) (core0 fun k => { k with hold := true })) (fun t => (t.core 0).halted && (t.core 0).reason == 2) = true ∧
    ends (exec (.brk x0) base) (fun t => t == (base.issued x0 0).raise 0 0 6 0) = true ∧
    ends (exec (.wait x0) base) (fun t => (t.core 0).running == none && (t.berth 0 0).waiting == true &&
      (t.berth 0 0).pc == 0x104) = true := by decide +kernel

/-- Two sleeves: SLV at 0x1000, whose LINK is 0x1100; 0x1108 holds BACK to 0x1000. -/
def sleeves : State := ({ base with mem := cellsPut (cellsPut [] 0x1000 0x1100 255 8) 0x1108 0x1000 255 8 } : State).mapBerth 0 0
  fun y => { y with slv := 0x1000 }
theorem witness_saves : 1 ≤ (sleeves.berth 0 0).priv.toNat ∧ sleeves.tilePending 0 0 = false ∧
    (match (sleeves.issued x0 0).sleeveWords 0 0x1000 1 with
      | (u, .inl l) => decide (l = [0x1100] ∧ u.inWindow 0x1108 = false ∧ u.mapped 0x1108 = true ∧
          u.berth 0 0 = (sleeves.issued x0 0).berth 0 0)
      | _ => false) = true ∧ (0x1100 : Word) ≠ 0 ∧ (0x1100 : Word).toNat % 256 = 0 := by decide +kernel
/-- A SAVE.C and the LOAD.C that follows it give the registers back. -/
theorem test_sleeves : ends (exec (.saveC x0) sleeves) (fun t => (t.berth 0 0).slv == 0x1100 &&
    ends (exec (.loadC x0) (t.mapBerth 0 0 fun y => { y with g := regs [(1, 7)] })) fun u =>
      (u.berth 0 0).reg 1 == 0x1000 && (u.berth 0 0).reg 5 == 3 && (u.berth 0 0).slv == 0x1000) = true := by decide +kernel
theorem witness_saves_without_link : (match ((at0 fun y => { y with slv := 0x1000 }).issued x0 0).sleeveWords 0 0x1000 1 with
      | (u, .inl l) => decide (l = [0] ∧ u.berth 0 0 = ((at0 fun y => { y with slv := 0x1000 }).issued x0 0).berth 0 0)
      | _ => false) = true := by decide +kernel
theorem witness_saves_waits : (tileStore.mapBerth 0 0 fun y => { y with slv := 0x1000 }).tilePending 0 0 = true ∧
    (tileStore.mapBerth 0 0 fun y => { y with slv := 0x1000 }).runner 0 = some 0 := by decide +kernel
/-- A collar (KIND 1) at 0x1000 with PSTAT word 1, and SLV at 0x1100 with BACK to it. -/
def collar (kind priv : Nat) : State :=
  ({ base with mem := cellsPut (cellsPut (cellsPut [] 0x1108 0x1000 255 8) 0x1010 kind 255 8) 0x10A0 priv 255 8 } : State).mapBerth
    0 0 fun y => { y with slv := 0x1100, priv := 1 }
def collarRead (kind priv : Nat) : Bool :=
  let s := collar kind priv
  match (s.issued x0 0).sleeveWords 0 0x1108 1 with
  | (u, .inl [back]) =>
    match u.sleeveWords 0 (back.toNat + 16) 20 with
    | (w, .inl (k :: half)) => decide (k.toNat = kind ∧ back = 0x1000 ∧ half.length = 19 ∧ (half.getD 17 0).toNat % 4 = priv ∧
        w.berth 0 0 = (s.issued x0 0).berth 0 0 ∧ s.tilePending 0 0 = false ∧ 1 ≤ (s.berth 0 0).priv.toNat)
    | _ => false
  | _ => false
theorem witness_loads_of_sleeves : collarRead 1 1 = true ∧ collarRead 1 3 = true ∧ collarRead 2 0 = true ∧ collarRead 5 0 = true ∧
    ends (exec (.loadC x0) (collar 1 1)) (fun t => (t.berth 0 0).slv == 0x1000 && (t.berth 0 0).priv == 1) = true ∧
    ends (exec (.loadC x0) (collar 1 3)) (fun t => (t.berth 0 0).slv == 0x1100) = true ∧
    ends (exec (.loadH x0) (collar 2 0)) (fun t => (t.berth 0 0).slv == 0x1000 && (t.berth 0 0).reg 31 == 0) = true ∧
    ends (exec (.loadH x0) (collar 5 0)) (fun t => (t.berth 0 0).slv == 0x1100) = true := by decide +kernel

/-- Pointers 0x1000 and 0x1040 and a count of 2. -/
def strings (n : Word) : State := loadBase.mapBerth 0 0 fun y => ((y.setReg 6 0x1000).setReg 7 0x1040).setReg 8 n
theorem witness_strings : ((6 : Reg) ≠ 0 ∧ (8 : Reg) ≠ 0 ∧ (6 : Reg) ≠ 7 ∧ (6 : Reg) ≠ 8 ∧ (7 : Reg) ≠ 8 ∧ (1 : PReg) ≠ 0) ∧
    ((strings 0).berth 0 0).reg 8 = 0 ∧ ((strings 1).berth 0 0).reg 8 = 1 ∧ ((strings 2).berth 0 0).reg 8 ≠ 1 ∧
    (strings 2).runner 0 = some 0 ∧ ((strings 2).berth 0 0).modePend = [] ∧ 0x1001 % sizeBytes .b2 ≠ 0 ∧
    0x1000 % sizeBytes .b8 = 0 ∧ (((strings 2).issued x0 0).coreLoad 0 0x1000 .b8).2 = .ok 0x8877665544332211 ∧
    (((strings 2).issued x0 0).coreLoad 0 0x1040 .b8).2 = .ok 0 ∧
    ((((strings 2).issued x0 0).coreLoad 0 0x1000 .b1).1.coreLoad 0 0x1040 .b1).2 = .ok 0 := by decide +kernel
theorem test_strings :
    ends (exec (.smov x0 7 6 8 .b8) (strings 1)) (fun t => (t.core 0).sb ==
      [{ berth := 0, addr := 0x1040, data := 0x8877665544332211, size := .b8 }] && (t.berth 0 0).reg 8 == 0) = true ∧
    ends (exec (.scmp x0 6 7 8 .b1 1) (strings 2)) (fun t => !(t.berth 0 0).pred 1 && (t.berth 0 0).reg 8 == 2) = true ∧
    ends (exec (.sscan x0 6 0 8 .b1 1) (strings 9)) (fun t => (t.berth 0 0).pred 1 && (t.berth 0 0).reg 6 == 0x1008 &&
      (t.berth 0 0).reg 8 == 1) = true ∧
    ends (exec (.sset x0 6 7 8 .b4) (strings 2)) (fun t => ((t.core 0).sb.map (·.addr)) == [0x1000, 0x1004] &&
      (t.berth 0 0).reg 6 == 0x1008) = true := by decide +kernel
theorem witness_sset : ((strings 2).core 0).sb.length + 2 ≤ 16 ∧ 0x1000 % sizeBytes .b8 = 0 ∧ 0x1000 + 8 * 2 ≤ 2 ^ 48 := by
  decide +kernel
/-- REP with ADDI g6, g6, 3 as its body. -/
theorem witness_rep : encodeGregon (.addi x0 6 6 3) = some 0x004C6003 ∧ (6 : Reg) ≠ 2 ∧ (2 : Reg) ≠ 0 ∧
    (base.berth 0 0).modePend = [] ∧ (base.berth 0 0).pc.toNat % 4 = 0 ∧ (0x004C6003 / 2 ^ 22 % 64 ≤ 14) ∧
    (decodeGregon 0 0x004C6003 0 = some (.addi x0 6 6 3) ∧ writesReg (.addi x0 6 6 3) 2 = false) ∧
    (base.berth 0 0).reg 6 = 0 ∧ x1.sense = (base.berth 0 0).pred x1.pred ∧ ¬ (0x24 ≤ 14) ∧
    ends (exec (.rep x0 2 0x004C6003) base) (fun t => (t.berth 0 0).reg 6 == 24 && (t.berth 0 0).reg 2 == 0 &&
      (t.berth 0 0).pc == 0x108) = true ∧
    ends (exec (.rep x0 6 0x004C6003) base) (fun t => t == (base.issued x0 0).raise 0 0 1 0) = true := by decide +kernel

/-- A berth with the tile unit open. -/
def tileOn : State := at0 fun y => { (y.setReg 2 64) with townEn := true }
theorem witness_tileIssue : tileOn.runner 0 = some 0 ∧ (tileOn.berth 0 0).townEn = true ∧ (tileOn.core 0).tileBad = false ∧
    (tileOn.core 0).tile.queue.length < 32 ∧ ((tileOn.berth 0 0).reg 1).toNat % 64 = 0 ∧
    ((tileOn.berth 0 0).reg 2).toNat % 64 = 0 ∧ (32 : BitVec 6).toNat ≤ 32 ∧ (2 : BitVec 2) ≠ 3 ∧
    (∀ r, r < 32 → ((tileOn.berth 0 0).reg 1 + BitVec.ofNat 64 r * (tileOn.berth 0 0).reg 2).toNat < 2 ^ 48) ∧
    (tileOn.si.codes.getD 0 Blob.empty).field 0 0 1 = 1 ∧ ((tileOn.berth 0 0).reg 1).toNat + 5183 < 2 ^ 48 ∧
    ends (exec (.tld x0 2 1 2 32 1) tileOn) (fun t => (t.core 0).tile.queue.map (·.op) == [.tld 2 0x1000 64 32 1]) = true ∧
    ends (exec (.tmma x0 1 2 3 4 true) tileOn) (fun t => (t.core 0).tile.queue.length == 1) = true ∧
    ends (exec (.tsta x0 1 1) tileOn) (fun t => (t.core 0).tile.queue.map (·.op) == [.tsta 1 0x1000]) = true := by decide +kernel
/-- The unit with a full queue. -/
def tileFull : State := tileOn.setCore 0 { tileOn.core 0 with tile := { (tileOn.core 0).tile with
  queue := List.replicate 32 { berth := 0, op := .tclrt 0, started := false, done := false, flags := 0, errs := [] } } }
theorem witness_tileIssue_exceptions : 32 < (33 : BitVec 6).toNat ∧ (base.berth 0 0).townEn = false ∧
    (tileOn.berth 0 0).reg 3 = 0x2001 ∧ ((tileOn.berth 0 0).reg 3).toNat % 64 ≠ 0 ∧
    2 ^ 48 ≤ ((tileOn.berth 0 0).reg 4).toNat ∧ ((tileOn.berth 0 0).reg 4).toNat % 64 = 0 ∧
    32 ≤ (tileFull.core 0).tile.queue.length ∧ tileFull.runner 0 = some 0 ∧
    ((withSect secCodes (bodyOf 8 []) tileOn).mapSi fun i => { i with codes := [] }).si.codes.getD 3 Blob.empty = Blob.empty ∧
    ends (exec (.tswap x0 1) base) (fun t => t == (base.issued x0 0).raise 0 0 8 0) = true ∧
    ends (exec (.tst x0 1 3 2 4) tileOn) (fun t => t == (tileOn.issued x0 0).raise 0 0 3 0x2001) = true ∧
    ends (exec (.tst x0 1 4 2 4) tileOn) (fun t => t == (tileOn.issued x0 0).raise 0 0 4 0) = true ∧
    ends (exec (.tclrt x0 1) tileFull) (fun t => (t.core 0).stalled == some (.tclrt x0 1) && (t.core 0).tile.queue.length == 32) = true := by decide +kernel

/-- Core 0 of a state changed. -/
def onCore (f : Core → Core) (s : State) : State := s.setCore 0 (f (s.core 0))
/-- Core 0 with a changed tile unit. -/
def tileC (f : TileUnit → TileUnit) : State := core0 fun k => { k with tile := f k.tile }
/-- An entry of berth 0. -/
def entry (op : TileOp) : TileEntry := { berth := 0, op := op, started := false, done := false, flags := 0, errs := [] }
def claiming : State := tileC fun t => { t with queue := [entry (.tclrt 0)] }
theorem witness_tileClaim : claiming.tileRuns 0 = true ∧ (claiming.core 0).tile.queue = [entry (.tclrt 0)] ∧
    (claiming.core 0).tile.owner = none ∧ (entry (.tclrt 0)).started = false ∧
    (claiming.core 0).tile.drain = none ∧ (claiming.core 0).tile.save ≠ some 0 ∧ (claiming.core 0).sent = [] ∧ claiming.l2.holds = [] ∧
    (claiming.berth 0 0).townSaved = false ∧ (claiming.berth 0 0).pocketLost = false := by decide +kernel
/-- The scratch byte at which the byte of an address lies (R220). -/
def placed (a : Nat) : Nat := 64 * scratchPlace (a / 64) + a % 64
/-- The bytes of a pocket that give its layout and the KINDs of its eight records, in scratch. -/
def pocketCells (a : Nat) : List Host.Cell :=
  [(0, 1), (16576, 3), (21760, 3), (26944, 3), (32128, 3), (37312, 4), (42496, 4), (47680, 4), (52864, 4)].foldl
    (fun m x => cellsPut m (placed (a + x.1)) x.2 1 1) []
/-- The pocket of berth 0 in scratch at 0x80000000. -/
def pocketed : State :=
  let s : State := { withScratch with l2 := { withScratch.l2 with scratch := pocketCells 0x80000000 } }
  (s.setCore 0 (claiming.core 0)).mapBerth 0 0 fun y => { y with pocket := 0x80000000, townSaved := true }
theorem mergeLine_zero (d : Line) : mergeLine d 0 (granuleBytes 0) = d := by
  have h : BitVec.ofNat 512 (expandMask 64 (granuleBytes 0).toNat) = 0 := by decide +kernel
  unfold mergeLine
  rw [h]
  simp only [show (~~~(0 : Line)) = BitVec.allOnes 512 by decide +kernel, BitVec.and_allOnes]
  change (0#512 &&& 0#512 ||| d) = d
  rw [BitVec.zero_and, BitVec.zero_or]
theorem setCore_self (s : State) (c : CoreId) (k : Core) (h : k = s.core c) : s.setCore c k = s := by
  subst h; simp [State.setCore, State.core]
theorem core_streams : ∀ k : Core, k.streams = [] → { k with streams := [] } = k := by rintro ⟨⟩ h; simp_all
theorem tile_held : ∀ t : TileUnit, t.held = [] → { t with held := [] } = t := by rintro ⟨⟩ h; simp_all
theorem portReads_scratch (c : CoreId) (s : State) (hs : (s.core c).streams = []) (hp : s.l2.scrPoison = []) :
    ∀ l : List Nat, (∀ a ∈ l, s.portReach a = true ∧ s.scratchLine (a / 64) = true) →
      s.portReads c l = (s, l.map fun a => cellsLine s.l2.scratch (scratchPlace (a / 64)), [])
  | [], _ => rfl
  | a :: t, h => by
    have h1 := h a (by simp)
    have hk : s.setCore c { s.core c with streams := [] } = s :=
      setCore_self s c _ (core_streams _ hs)
    have hr : s.portRead c a = (s, cellsLine s.l2.scratch (scratchPlace (a / 64)), false) := by
      simp only [State.portRead, h1.1, if_true, hs, touchStreams, List.map_nil]
      rw [hk]
      simp only [h1.2, State.sliceRead, hp, aget, if_true, Option.getD_none]
      rw [mergeLine_zero]
      rfl
    simp [State.portReads, hr, portReads_scratch c s hs hp t fun a ha => h a (by simp [ha])]
theorem pocketed_reach : ∀ i, i < 960 → pocketed.portReach (0x80000000 + 64 * i) = true ∧ pocketed.scratchLine ((0x80000000 + 64 * i) / 64) = true := by decide +kernel
theorem aget_filter {β : Type} (k : Nat) (q : Nat → Bool) (h : q k = true) : ∀ m : List (Nat × β),
    aget k (m.filter fun x => q x.1) = aget k m
  | [] => rfl
  | (j, v) :: m => by
    by_cases e : j = k
    · subst e; simp [h, aget]
    · by_cases g : q j = true <;> simp [g, aget, e, aget_filter k q h m]
theorem cellsNat_filter (m : List Host.Cell) (lo hi n : Nat) : ∀ a : Nat, lo ≤ a → a + n ≤ hi →
    cellsNat (m.filter fun x => decide (lo ≤ x.1) && decide (x.1 < hi)) a n = cellsNat m a n := by
  induction n with
  | zero => intro a _ _; rfl
  | succ n ih =>
    intro a h1 h2
    rw [cellsNat, cellsNat, ih (a + 1) (by omega) (by omega), cellGet, cellGet,
      aget_filter a (fun k => decide (lo ≤ k) && decide (k < hi)) (by simp; omega)]
/-- A line of a sparse memory by the bytes listed in it alone. -/
def shortLine (m : List Host.Cell) (line : Nat) : Line :=
  match m.filter fun x => decide (64 * line ≤ x.1) && decide (x.1 < 64 * line + 64) with
  | [] => 0
  | x :: l => BitVec.ofNat 512 (cellsNat (x :: l) (64 * line) 64)
theorem shortLine_eq (m : List Host.Cell) (line : Nat) : cellsLine m line = shortLine m line := by
  have h := cellsNat_filter m (64 * line) (64 * line + 64) 64 (64 * line) (Nat.le_refl _) (Nat.le_refl _)
  unfold cellsLine shortLine
  rw [← h]
  cases m.filter fun x => decide (64 * line ≤ x.1) && decide (x.1 < 64 * line + 64) with
  | nil => simp [Laws.cellsNat_nil]
  | cons x l => rfl
theorem pocketed_layout : (TileState.ofPocket (linesBlob ((List.range 960).map fun i =>
    cellsLine (pocketCells 0x80000000) (scratchPlace ((0x80000000 + 64 * i) / 64))))).isSome = true := by
  simp only [shortLine_eq]; decide +kernel
/-- The pocket is read whole and its layout is that of R151. -/
theorem witness_tileClaim_saved : ∃ u lines st,
    (pocketed.setTile 0 { (pocketed.core 0).tile with held := [] }).portReads 0 ((List.range 960).map fun i =>
      (pocketed.berth 0 0).pocket.toNat + 64 * i) = (u, lines, []) ∧ TileState.ofPocket (linesBlob lines) = some st ∧
    (pocketed.core 0).tile.owner = none ∧ (pocketed.berth 0 0).townSaved = true := by
  have h0 : pocketed.setTile 0 { (pocketed.core 0).tile with held := [] } = pocketed := by
    rw [State.setTile, tile_held _ (by decide +kernel)]
    exact setCore_self _ _ _ rfl
  have hr := portReads_scratch 0 pocketed (by decide +kernel) (by decide +kernel)
    ((List.range 960).map fun i => 0x80000000 + 64 * i) (by simpa using fun i hi => pocketed_reach i hi)
  obtain ⟨st, hst⟩ := Option.isSome_iff_exists.mp pocketed_layout
  refine ⟨pocketed, _, st, ?_, hst, by decide +kernel, by decide +kernel⟩
  rw [h0, show (pocketed.berth 0 0).pocket.toNat = 0x80000000 by decide +kernel, hr, List.map_map]
  rfl
/-- Berth 1 holds the unit. -/
def takeover : State := claiming.setTile 0 { (claiming.core 0).tile with owner := some 1 }
theorem witness_tileClaim_owner : (takeover.core 0).tile.owner = some 1 ∧ takeover.ck.supEpisode = false ∧ takeover.memOk ∧
    (takeover.berth 0 1).pocket.toNat % 4096 = 0 ∧ takeover.scratchWays = 0 ∧
    ((takeover.core 0).tile.st.pocket 0 1 takeover.time).len = 61440 ∧
    ∀ i, i < 960 → takeover.portReach ((takeover.berth 0 1).pocket.toNat + 64 * i) = true := by
  unfold State.memOk; decide +kernel

/-- Berth 0 owns the unit and has one entry. -/
def owned (op : TileOp) : State := tileC fun t => { t with owner := some 0, queue := [entry op] }
theorem witness_tileEntries : (owned (.tclrt 3)).tileRuns 0 = true ∧
    ((owned (.tclrt 3)).core 0).tile.queue[(0 : Fin 32).val]? = some (entry (.tclrt 3)) ∧
    ((owned (.tclrt 3)).core 0).tile.canStart 0 = true ∧ ((owned (.tclra 1 true)).core 0).tile.canStart 0 = true ∧
    ((owned (.tswap 1 true)).core 0).tile.canStart 0 = true ∧ ((owned (.tld 2 0x1000 64 0 3)).core 0).tile.canStart 0 = true ∧
    ((owned (.tmma 1 2 3 0 true 0 [])).core 0).tile.canStart 0 = true ∧ (owned (.tclrt 3)).opWaits (.tclrt 3) = false ∧
    (holding 64 (owned (.tld 2 0x1000 64 3 0))).opWaits (.tld 2 0x1000 64 3 0) = true ∧
    ends (exec (.tileEntryStart 0 0) (holding 64 (owned (.tld 2 0x1000 64 3 0)))) (fun t => (t.core 0).tile.queue.map (·.started) == [false]) = true := by decide +kernel
theorem witness_tileEntries_lines : ((owned (.tld 2 0x1000 64 3 0)).core 0).tile.canStart 0 = true ∧
    ((owned (.tld 2 0x1000 64 3 0)).portReads 0 ((List.range 3).map fun r => ((0x1000 : Word) + BitVec.ofNat 64 r * 64).toNat)).2.2 = [] ∧
    ((owned (.tlda 1 0x1000 false)).core 0).tile.canStart 0 = true ∧
    ((owned (.tlda 1 0x1000 false)).portReads 0 ((List.range 81).map fun k => (0x1000 : Word).toNat + 64 * k)).2.2 = [] := by decide +kernel
theorem witness_tileEntries_stores : let s := owned (.tst 2 0x1000 64 3)
    (s.core 0).tile.canStart 0 = true ∧ (s.portWrites 0 0 .tile ((List.range 3).map fun r =>
      (((0x1000 : Word) + BitVec.ofNat 64 r * 64).toNat, ((s.core 0).tile.st.tiles.getD 2 []).getD r 0))).2 = [] := by decide +kernel
theorem witness_tileEntries_records : let s := owned (.tsta 1 0x1000)
    (s.core 0).tile.canStart 0 = true ∧ (s.portWrites 0 0 .tile (((List.range 81).map fun k => (0x1000 : Word).toNat + 64 * k).zip
      (((s.core 0).tile.st.accs.getD 1 (Accum.zero false)).record 3).toLines)).2 = [] := by decide +kernel
theorem witness_tileEntries_complete : (tileC fun t => { t with queue := [{ entry (.tclrt 3) with started := true, flags := 1 }] }).tileRuns 0 = true ∧
    (entry (.tclrt 3)).op.engine ≠ 2 ∧ ((owned (.tclrt 3)).core 0).tile.save = none ∧
    ((owned (.tclrt 3)).core 0).tile.follows 0 (.tclrt 3) = false ∧ ((owned (.tclrt 3)).core 0).sent = [] ∧ (1 : BitVec 6).toNat % 32 ≠ 0 ∧
    ends (exec (.tileEntryComplete 0 0) (tileC fun t => { t with queue := [{ entry (.tclrt 3) with started := true, flags := 1 }] }))
      (fun t => (t.core 0).tile.queue == [] && (t.berth 0 0).fstat == 1 && t.bw.attn.getLsbD 4) = true := by decide +kernel
/-- 1 times 1, summed over the 32 elements of a row, is 32 in every cell. -/
def ones : State := (owned (.tmma 1 2 3 1 true 0 [])).setTst 0 { TileState.cleared with
  tiles := List.replicate 8 (List.replicate 32 (BitVec.ofNat 512 (packNats 16 (List.replicate 32 0x3C00)))) }
theorem test_tmma : ends (exec (.tileEntryStart 0 0) ones) (fun t =>
    ((t.tile 0).st.acc 1).cells.head? == some 0x4080000000 &&
    ((t.tile 0).st.acc 1).kcount == 32) = true := by
  decide +kernel

/-- A started TMMA behind an older one of its accumulator stays; TMMA with z and 32 rows in each tile meets the clause of the dot
product. -/
theorem witness_tileEntries_order : let op : TileOp := .tmma 1 2 3 0 true 0 []
    let s := tileC fun t => { t with owner := some 0, queue := [{ entry op with started := true }, { entry op with started := true }] }
    (s.core 0).tile.follows 1 op = true ∧ ends (exec (.tileEntryComplete 0 1) s) (fun t => t == s) = true ∧
    (ones.tile 0).canStart 0 = true ∧ ones.opWaits (.tmma 1 2 3 1 true 0 []) = false ∧
    ((ones.tile 0).st.tileRows 2).length = 32 ∧ ((ones.tile 0).st.tileRows 3).length = 32 := by decide +kernel

/-- An epilogue descriptor: NROWS and NCOLS of 32, a destination (OUT_FMT 1, OUT_ADDR 0x4000, OUT_STRIDE 64), and further bits. -/
def descOf (dest more : Nat) : BitVec 1024 :=
  BitVec.ofNat 1024 (32 * 2 ^ 64 + 32 * 2 ^ 72 + dest * 2 ^ 28 + 2 ^ 24 + 0x4000 * 2 ^ 192 + 64 * 2 ^ 256 + more)
def drainEntry : TileOp := .tdrn 1 2 0x2000 0 0 0 []
theorem witness_epilogueRead : (owned drainEntry).tileRuns 0 = true ∧ (entry drainEntry).started = false ∧
    ((owned drainEntry).core 0).tile.heldFor 0 0 = none ∧ ((owned drainEntry).core 0).tile.held.length < 2 := by decide +kernel
/-- The unit holds a descriptor, no berth runs. -/
def heldDesc (d : BitVec 1024) : State :=
  onCore (fun k => { k with
    running := none, tile := { k.tile with held := [{ berth := 0, serial := 0, epi := 0x2000, data := some d }] } }) (owned drainEntry)
theorem witness_drainStart : ((heldDesc (descOf 3 0)).core 0).tile.canStart 0 = true ∧
    (((heldDesc (descOf 3 0)).core 0).tile.heldFor 0 0).map (·.data) = some (some (descOf 3 0)) ∧
    (heldDesc (descOf 3 0)).checkDesc (some (descOf 3 0)) [] = none := by decide +kernel
theorem witness_drainRefused : ((heldDesc (descOf 5 0)).core 0).tile.canStart 0 = true ∧ ((heldDesc (descOf 5 0)).core 0).running = none ∧
    (heldDesc (descOf 5 0)).checkDesc (some (descOf 5 0)) [] = some 0x0A10 ∧ (descOf 3 (2 ^ 648)).toNat / 2 ^ 648 ≠ 0 ∧
    ((heldDesc (descOf 5 0)).core 0).tile.save = none ∧ 32 < (descOf 3 (2 ^ 64)).toNat / 2 ^ 64 % 64 ∧
    ends (exec (.tileEntryStart 0 0) (heldDesc (descOf 5 0))) (fun t => (t.core 0).tile.queue == [] &&
      (t.berth 0 0).epiFaults == [0x0A10]) = true := by decide +kernel
/-- A drain at a row. -/
def drainAt (row : Nat) (d : BitVec 1024) : State := tileC fun t => { t with
  owner := some 0
  st := { t.st with lins := List.replicate 4 { a16 := false, kcount := 0, cells := List.replicate 1024 0x3FE0000000 } }
  queue := [{ entry drainEntry with started := true }]
  drain := some { berth := 0, l := 1, td := 2, tkbase := 0, mode := 0, codes := [], desc := d, curves := [], bias := 0, row := row } }
theorem witness_drainRow : (drainAt 31 (descOf 3 0)).tileRuns 0 = true ∧ ((drainAt 31 (descOf 3 0)).core 0).tile.rows.length < 4 ∧
    (let d : Blob := { len := 128, bits := (descOf 3 0).toNat }; d.field 8 0 6 = 32 ∧ d.field 3 4 4 = 3 ∧ d.field 1 6 1 = 0 ∧ d.field 0 0 6 = 0) ∧
    (let d : Blob := { len := 128, bits := (descOf 0 0).toNat }; d.field 3 4 4 = 0 ∧ d.field 3 0 4 ≤ 1 ∧ d.field 24 0 48 = 0x4000) ∧
    (let d : Blob := { len := 128, bits := (descOf 2 (2 ^ 14)).toNat }; d.field 3 4 4 = 2 ∧ d.field 1 6 1 = 1) ∧
    (let d : Blob := { len := 128, bits := (descOf 3 0 - 2 ^ 64).toNat }; d.field 8 0 6 ≤ 31) := by decide +kernel
/-- The drain to a tile, with TOPK_LAST and TKBASE.EN clear or set, with clip alone, with statistics and with k = 2. -/
theorem witness_drainRow_stages : (drainAt 3 (descOf 1 0)).l2.holds = [] ∧ ((drainAt 3 (descOf 1 0)).tile 0).st.tiles.length = 8 ∧
    (((drainAt 3 (descOf 1 0)).tile 0).st.tileRows 2).length = 32 ∧ (((drainAt 3 (descOf 1 0)).tile 0).st.tileRows 3).length = 32 ∧
    (let d : Blob := { len := 128, bits := (descOf 1 32).toNat }; d.field 3 4 4 = 1 ∧ d.field 0 0 6 = 32) ∧
    (let d : Blob := { len := 128, bits := (descOf 3 (64 + 2 * 2 ^ 8 + 2 ^ 14)).toNat }
     d.field 0 6 2 = 1 ∧ d.field 1 0 5 = 2 ∧ d.field 1 6 1 = 1 ∧ d.field 3 4 4 = 3) ∧
    ((drainAt 3 (descOf 3 (2 ^ 14))).portWrites 0 0 .tile [(0x8180, 0), (0x81C0, 0)]).2 = [] := by decide +kernel
/-- 1 clipped to 1/2 in tile 2; the statistics of a row of ones; the two earliest of 32 equal candidates. -/
theorem test_drainRow_stages :
    ends (exec (.drainRow 0) (drainAt 3 (descOf 1 (32 + 0x3F000000 * 2 ^ 160)))) (fun t =>
      (t.tile 0).st.row 2 3 == BitVec.ofNat 512 (packNats 16 (List.replicate 32 0x3800))) = true ∧
    ends (exec (.drainRow 0) (drainAt 3 (descOf 3 64))) (fun t => (t.tile 0).st.stats[3]? == some { m := 0x3FE0000000, s := 0x4080000000 }) = true ∧
    ends (exec (.drainRow 0) (drainAt 3 (descOf 2 (2 * 2 ^ 8 + 2 ^ 14)))) (fun t =>
      (t.tile 0).rows.map (fun h => h.entries.map (·.pos)) == [[0, 1]]) = true := by decide +kernel
/-- The row of a drain to memory: 1 in the lining arrives as binary16 1 at 0x4000 + 31 x 64. -/
theorem test_drainRow : ends (exec (.drainRow 0) (drainAt 31 (descOf 0 0))) (fun t =>
    (t.core 0).tile.drain.isNone && (t.sliceRead ((0x4000 + 31 * 64) / 64)).1.toNat % 2 ^ 32 == 0x3C003C00) = true := by decide +kernel
/-- The write of that row meets no failing line. -/
theorem witness_drainRow_memory : ((drainAt 31 (descOf 0 0)).portWrites 0 0 .tile [(0x4000 + 31 * 64, 0)]).2 = [] := by decide +kernel
theorem test_drainRow_handoff : ends (exec (.drainRow 0) (drainAt 3 (descOf 2 (2 ^ 14)))) (fun t =>
    (t.core 0).tile.rows.map (·.row) == [3]) = true := by decide +kernel

/-- A hand-off of row 3 with one entry at position 5. -/
def handed : Handoff := { row := 3, desc := descOf 2 (2 ^ 14 + 0x8000 * 2 ^ 576), entries := [{ val := 0, pos := 5 }], m := 0, s := 0, next := 0, table := [] }
def handing (n : Nat) (h : Handoff) : State := core0 fun k => { k with
  tile := { k.tile with rows := [h] }, handoffs := List.replicate n handed }
theorem witness_dispatchHandoff : (handing 8 handed).tileRuns 0 = true ∧ ((handing 8 handed).core 0).tile.rows = [handed] ∧
    8 ≤ ((handing 8 handed).core 0).handoffs.length ∧ ((handing 7 handed).core 0).handoffs.length < 8 ∧ handed.entries ≠ [] ∧
    ((handing 7 { handed with entries := [] }).core 0).tile.rows = [{ handed with entries := [] }] := by decide +kernel
/-- A core with one hand-off; its position has the given table entry. -/
def sending (e : Option (BitVec 128)) : State := core0 fun k => { k with handoffs := [{ handed with table := [e] }] }
theorem witness_dispatchWrite : base.dockRuns = true ∧ base.bw.fStop = false ∧ base.enabled .dock = true ∧ base.l2.holds = [] ∧ base.dk.late = [] ∧
    ((sending none).core 0).handoffs = [{ handed with table := [none] }] ∧ (∀ k, k ≠ 0 → ((sending none).core k).handoffs = []) ∧
    ((sending none).core 0).overflow = [] ∧ handed.entries[handed.next]? = some { val := 0, pos := 5 } ∧
    { handed with table := [none] }.table[handed.next]? = some none ∧
    handed.home (1 + 0x9000 * 2 ^ 16) = (base.si.nodeId, 0x9000) ∧ handed.bytes.field 52 0 12 = 0 ∧ base.dk.ops = [] ∧
    ends (exec .dispatchWriteStart (sending none)) (fun t => (t.core 0).overflow.map (·.data.toNat / 2 ^ 104 % 256) == [5]) = true ∧
    ends (exec .dispatchWriteStart (sending (some (1 + 0x9000 * 2 ^ 16)))) (fun t =>
      t.dk.arriving.map (fun a => (a.addr, a.len)) == [(0x9000, 64)] && (t.core 0).overflow == []) = true := by decide +kernel
def record : OvRecord := { base := 0x8000, log2 := 0, done := 7, data := 0x55 }
/-- A dispatch write whose answer is known, and a held record. -/
def answered (cause : BitVec 8) (put : Nat) : State := { core0 fun k => { k with overflow := [record] } with
  mem := cellsPut [] 0x8000 put 255 8
  dk := { Dock.reset with ops := [{
    id := 4, kind := .append, route := .loop, tag := 0, dest := 0, owner := .dispatch 0 record, local_ := 0, len := 64,
    answer := some (cause, 0), stored := none }] } }
theorem witness_dispatchOutcome : (answered 0 0).dockRuns = true ∧ ((answered 0 0).dk.ops.filter (·.answer.isSome)).length = 1 ∧
    5 ≤ (5 : BitVec 8).toNat ∧ (8 : BitVec 8).toNat ≤ 8 ∧
    ends (exec (.dispatchOutcome 0) (answered 0 0)) (fun t => t.dk.ops.length == 0 && aget 7 t.dk.ctrs == some 1) = true ∧
    ends (exec (.dispatchOutcome 0) (answered 9 0)) (fun t => t.bw.attn.getLsbD 3) = true := by decide +kernel
theorem witness_overflow : (answered 0 0).dockRuns = true ∧ (answered 0 0).l2.holds = [] ∧ ((answered 0 0).core 0).overflow = [record] ∧
    (answered 0 0).engineWord 0x8000 = some 0 ∧ (answered 0 0).engineWord 0x8008 = some 0 ∧
    (answered 0 0).mappedAll (0x8000 + 64) 32 = true ∧ (answered 0 0).mapped 0x8000 = true ∧
    (answered 0 16).engineWord 0x8000 = some 16 ∧ 16 < 16 + 1 - 0 ∧
    ends (exec (.overflowRecordWrite 0) (answered 0 0)) (fun t => t.engineWord 0x8000 == some 1 && t.engineWord 0x8040 == some 0x55 &&
      (t.core 0).overflow == []) = true ∧
    ends (exec (.overflowTakeReread 0) (answered 0 16)) (fun t => t == answered 0 16) = true := by decide +kernel

/-- A store to memory in the store buffer of core 0, one sent, one in error. -/
def storing (a : BitVec 48) : State := core0 fun k => { k with sb := [{ berth := 0, addr := a, data := 0x1122334455667788, size := .b4 }] }
theorem witness_storeBufferDrain : base.meshRuns = true ∧ base.tileRuns 0 = true ∧ base.lineHeld 64 = false ∧ base.inWindow 0x1004 = false ∧ base.mapped 0x1004 = true ∧
    (0x1004 : BitVec 48).toNat % sizeBytes .b4 = 0 ∧ Memory.wf base.mem = true ∧ Memory.wf base.l2.scratch = true ∧
    base.inWindow 0x200000 = false ∧ base.mapped 0x200000 = false ∧ base.l2.den.getLsbD 0 = true ∧
    ends (exec (.storeBufferDrain 0) (holding 64 (storing 0x1004))) (fun t => t == holding 64 (storing 0x1004)) = true ∧
    ends (exec (.storeBufferDrain 0) (storing 0x1004)) (fun t => (t.sliceRead 64).1.toNat / 2 ^ 32 % 2 ^ 32 == 0x55667788 &&
      (t.core 0).sent.length == 1) = true := by decide +kernel
theorem witness_storeAck : let s := core0 fun k => { k with sent := [{ kind := .core, berth := 0, addr := 0x1004, err := true, port := false }] }
    s.meshRuns = true ∧ (s.core 0).tile.save ≠ some 0 ∧ (s.berth 0 0).lbe = none ∧
    ends (exec (.storeAck 0 false) s) (fun t => (t.berth 0 0).lbe.map (·.addr) == some 0x1004 && (t.core 0).sent == []) = true := by
  decide +kernel
/-- The last acknowledgement of a pocket save, and a memory port's error on a store of the core. -/
theorem witness_storeAck_port : let s := core0 fun k => { k with sent := [{ kind := .pocket, berth := 1, addr := 0x1000, err := false, port := true }] }
    (s.berth 0 1).pocketLost = false ∧ (s.core 0).tile.save ≠ some 0 ∧
    ends (exec (.storeAck 0 false) s) (fun t => (t.berth 0 1).townSaved && (t.core 0).sent == []) = true ∧
    ends (exec (.storeAck 0 true) warned) (fun t => (t.berth 0 0).lbe.map (·.addr) == some 0x1000) = true := by decide +kernel
/-- The gangway table with a good descriptor for entry 5 as well. -/
def gates5 (f : Berth → Berth) : State :=
  { gates with mem := cellsPut gates.mem 160 (0x6000 + 0x7 * 2 ^ 64) (2 ^ 32 - 1) 32 }.mapBerth 0 0 f
def lateBus : State := gates5 fun y => { y with lbe := some { addr := 0x1004, more := 2, taken := false, depth := 0 } }
theorem witness_lateBusError : lateBus.coreRuns 0 = true ∧ (lateBus.core 0).running = some 0 ∧ (lateBus.berth 0 0).halted = false ∧
    (lateBus.berth 0 0).customer = none ∧ ((lateBus.abandon 0 0).readGangway 0 0 5).2 = some { handler := 0x6000, priv := 3, keepIe := false, trapMin := 0 } ∧
    ends (exec (.lateBusError 0) lateBus) (fun t => (t.berth 0 0).pc == 0x6000 && (t.berth 0 0).estat.toNat / 65536 == 0x1002) = true := by
  decide +kernel
/-- A load that waits for the fill of its line. -/
def filling : State := loadBase.setCore 0 { loadBase.core 0 with fills := [64], stalled := some (.ldu x0 6 1 .b1 7) }
theorem witness_fills_restart : (filling.core 0).fills = [64] ∧ filling.lineWaits 64 = false ∧ (filling.core 0).rob = [] ∧
    (let f := (filling.setCore 0 { filling.core 0 with fills := [] }).fillL1d 0 64
     let w := f.setCore 0 { f.core 0 with stalled := none }
     f.runner 0 = some 0 ∧ (f.core 0).stalled = some (.ldu x0 6 1 .b1 7) ∧ w.runner 0 = some 0 ∧ w.lineWaits 64 = false ∧
      ((w.issued x0 0).coreLoad 0 0x1007 .b1).2 = .ok 0x88 ∧ (((w.issued x0 0).coreLoad 0 0x1007 .b1).1.core 0).rob = []) ∧
    ends (exec (.l2Fill 0 none) filling) (fun t => (t.berth 0 0).reg 6 == 0x88 && (t.core 0).stalled == none && (t.berth 0 0).pc == 0x104) = true ∧
    ends (exec (.l2Fill 0 none) (holding 64 filling)) (fun t => t == holding 64 filling) = true := by decide +kernel
theorem witness_fills : base.meshRuns = true ∧ base.tileRuns 0 = true ∧ base.lineWaits 64 = false ∧ (base.core 0).stalled = none ∧ ((core0 fun k => { k with fills := [64] }).core 0).fills = [64] ∧
    base.mapped 0x1000 = true ∧ base.inWindow 0x1000 = false ∧ base.l2.ien.getLsbD 0 = true ∧
    ends (exec (.l2Fill 0 none) (core0 fun k => { k with fills := [64] })) (fun t => ((t.core 0).l1d.find 64).isSome && (t.sliceRead 64).2 == 0) = true ∧
    ends (exec (.l2Fill 0 (some 0x1000)) base) (fun t => (t.core 0).lineBuf == [{ line := 64, data := 0 }] && ((t.core 0).l1i.find 64).isSome &&
      (t.sliceRead 64).2 == 0) = true := by decide +kernel
/-- 800 lines in the dirty order of slice 0, with a limit of 1,024. -/
def tide : State := let s := withSect secL2 (bodyOf 64 [(24, 1)]) base
  { s with l2 := { s.l2 with
    lines := [{ line := 0, way := 0, data := 0x77, mask := 1, dirty := true, sharers := 0, poison := 0 }]
    order := (List.range 800).map fun i => i * 65536 } }
theorem witness_tideClean : tide.dirtyLimit = 1024 ∧ tide.dirtyLimit < (tide.l2.dirtyOf 0).length + 256 ∧
    (tide.l2.dirtyOf 0).head? = some 0 ∧ (tide.l2.find 0).map (fun x => (x.dirty, x.poison)) = some (true, 0) ∧
    (tide.l2.dirtyOf 1).length + 256 ≤ tide.dirtyLimit ∧
    ends (exec (.tideCleanWriteback 0) tide) (fun t => t.mem == [(0, 0x77)]) = true := by decide +kernel
/-- A full set: its 16 ways hold lines with the same key as line 0, that of way 0 dirty. -/
def fullSet : State := { base with l2 := { base.l2 with order := [65536], lines := (List.range 16).map fun i =>
  { line := (i + 1) * 65536, way := i, data := 0x77, mask := BitVec.allOnes 64, dirty := i == 0, sharers := 0, poison := 0 } } }
theorem witness_dirtyVictim_displaced : (∀ x ∈ fullSet.l2.lines, l2Key x.line = l2Key 0) ∧ fullSet.l2.find 0 = none ∧
    (∀ w, w < fullSet.cacheWays → ∃ x ∈ fullSet.l2.lines, x.way = w) ∧ (fullSet.l2.lines.find? (·.way == 0)).map (fun x => (x.line, x.dirty, x.poison)) = some (65536, true, 0) ∧
    (aget (l2Key 0) fullSet.l2.ptrs).getD 0 = 0 ∧ fullSet.inRange 0 = true ∧ fullSet.scratchLine 0 = false ∧
    ends (exec (.dirtyVictim 0) fullSet) (fun t => t.mem == [(0x400000, 0x77)] && (t.l2.find 65536).isNone &&
      (t.l2.find 0).map (·.way) == some 0) = true := by decide +kernel
theorem witness_dirtyVictim : base.enabled .l2 = true ∧ base.inRange 0x1000 = true ∧ base.scratchLine (0x1000 / 64) = false := by decide +kernel
theorem witness_streams : let s := core0 fun k => { k with streams := [{ next := 70, high := 64 }] }
    s.coreRuns 0 = true ∧ 70 ≤ 64 + 8 ∧ s.inRange (64 * 70) = true ∧ s.missFull (sliceOf 70) = false ∧ 64 * 70 < 2 ^ 48 ∧
    s.inRange (64 * 0x8000) = false ∧
    ends (exec (.streamFetch 0) s) (fun t => (t.l2.find 70).isSome) = true := by decide +kernel

/-- Tag 0 of core 0 is taken by a CUSTW0 of berth 1. -/
def custBusy : State := core0 fun k => { k with cust := [{ tag := 0, berth := 1, insn := 0, opa := 1, opb := 2, rd := some 6 }] }
theorem witness_customer : custBusy.Executes x0 0 ∧ custBusy.cpPresent.getLsbD 0 = true ∧
    (∀ r ∈ (custBusy.core 0).cust, r.tag.toNat ≠ 1) ∧ (custBusy.core 0).custLate = [] ∧ custBusy.custClock 0 = true ∧ (custBusy.core 0).haltDue = none ∧
    (∀ u, u < 1 → ∃ r ∈ (custBusy.core 0).cust, r.tag.toNat = u) ∧
    ({ custBusy with cpPresent := 0 } : State).cpPresent.getLsbD 0 = false ∧
    ((custBusy.core 0).cust.find? (·.tag == 0)).isSome = true ∧ (custBusy.core 0).cust.find? (·.tag == 9) = none ∧
    ends (exec (.custw1 x0 6 1 2 5) custBusy) (fun t => (t.core 0).cust.map (·.insn) == [0, 0x0F4C1105] && (t.berth 0 0).customer == some 1) = true ∧
    ends (exec (.coprocessorResponse 0 0 0x77 false) custBusy) (fun t => (t.berth 0 1).reg 6 == 0x77) = true := by
  unfold State.Executes; decide +kernel
/-- All 32 tags in flight, one after its time limit; a late response; the response that a halt waits for. -/
def custFull : State := custBusy.setCore 0 { custBusy.core 0 with
  cust := (List.range 31).map fun n => { tag := BitVec.ofNat 5 n, berth := 1, insn := 0, opa := 0, opb := 0, rd := none }, custLate := [31] }
def custHalt : State := base.setCore 0 { base.core 0 with
  cust := [{ tag := 0, berth := 0, insn := 0, opa := 1, opb := 2, rd := some 6 }], haltDue := some 1 }
theorem witness_customer_waits :
    (∀ n, n < 32 → (∃ r ∈ (custFull.core 0).cust, r.tag.toNat = n) ∨ ∃ r ∈ (custFull.core 0).custLate, r.toNat = n) ∧
    (custHalt.core 0).haltDue = some 1 ∧ (custHalt.core 0).stalled = none ∧ (custHalt.core 0).running = some 0 ∧ (custHalt.core 0).traceEn = false ∧
    ends (exec (.cust0 x0 6 1 2 5) custFull) (fun t => (t.core 0).stalled.isSome) = true ∧
    ends (exec (.coprocessorResponse 0 31 0 false) custFull) (fun t => (t.core 0).custLate == [] && t.bw == custFull.bw) = true ∧
    ends (exec (.coprocessorTimeout 0 0) custBusy) (fun t => (t.core 0).custLate == [0] && t.bw.pendU.getLsbD 0x11 && t.bw.pendF.getLsbD 0x13) = true ∧
    ends (exec (.coprocessorResponse 0 0 0x77 false) custHalt) (fun t => (t.core 0).halted && (t.core 0).reason == 1 &&
      (t.berth 0 0).reg 6 == 0x77) = true := by decide +kernel

/-- A PILOT_EVENTS section: event 5 is valid, PRIO 9, VECTOR 1, berth 0 of core 0; event 6 coalesces; the descriptor and table
events 0 to 3 go to berth 1 of core 0, whose inbox of 16 slots is at 0x8000. -/
def plan : Blob := bodyOf 65536 [(4096, 1), (4098, 1), (4099, 1), (4112, 1), (4114, 1), (4115, 1), (4128, 1), (4130, 1), (4131, 1),
  (4144, 1), (4146, 1), (4176, 1), (4177, 9), (4178, 1), (4192, 3), (4193, 9), (4194, 1), (32, 1), (48, 0x8000)]
def piloted (f : Core → Core) (offers : List Offer) : State :=
  let s := withSect secPilot plan (onCore f gates)
  { s with pl := { s.pl with offers := offers } }
def offer (id : BitVec 12) : Offer := { id := id, core := 0, src := .latch, terms := evTerms plan id.toNat }
def arrival (id : BitVec 12) : Arrival := { id := id, berth := 0, count := 1, age := 0, prio := 9, vector := 1 }
theorem witness_arrivals : (piloted id [offer 5]).pilotRuns = true ∧ (piloted id [offer 5]).l2.holds = [] ∧
    (piloted id [offer 5]).enabled (.core 0) = true ∧ (piloted id [offer 5]).pastStop = false ∧
    ((piloted id [offer 5]).berth 0 (offer 5).terms.berth).halted = false ∧
    (offer 5).terms.coalesce = false ∧ (offer 6).terms.coalesce = true ∧ berthSpill plan 0 0 = false ∧
    ends (exec (.arrivalAccept 0) (piloted id [offer 5])) (fun t => (t.core 0).pend == [arrival 5] && t.pl.offers == []) = true ∧
    ends (exec (.arrivalAccept 0) (piloted (fun k => { k with pend := [arrival 6] }) [offer 6])) (fun t =>
      (t.core 0).pend == [{ arrival 6 with count := 2 }]) = true ∧
    ends (exec (.arrivalAccept 0) (piloted (fun k => { k with pend := List.replicate 64 (arrival 5) }) [offer 5])) (fun t =>
      t.pl.offers == [offer 5]) = true := by decide +kernel
/-- A plan that also gives berth 0 of core 0 a spill ring of 16 slots at 0x9000. -/
def spilling (n : Nat) : State := withSect secPilot (bodyOf 65536 [(4176, 1), (4177, 9), (4178, 1), (0, 4), (24, 0x9000)]) { piloted (fun k => { k with
  pend := List.replicate 64 (arrival 5), spilled := List.replicate n (arrival 5, 0) }) [offer 5] with mem := [] }
theorem witness_spill : berthSpill (spilling 15).pilotPlan 0 0 = true ∧ berthSpillSlots (spilling 15).pilotPlan 0 0 = 16 ∧
    ((spilling 15).core 0).spilled.length < 16 ∧
    ends (exec (.arrivalAccept 0) (spilling 15)) (fun t => (t.core 0).spilled.length == 16 && t.pl.offers == []) = true ∧
    ends (exec (.arrivalAccept 0) (spilling 16)) (fun t => t.pl.offers == [offer 5]) = true := by decide +kernel
theorem witness_spillReturn : let s := piloted (fun k => { k with spilled := [(arrival 5, 3)] }) []
    (s.core 0).pend.length < 64 ∧ (s.core 0).spilled = [(arrival 5, 3)] := by decide +kernel
theorem witness_pastStop : ({ base with si := { base.si with harbour := .drain } } : State).pilotRuns = true ∧
    ({ base with si := { base.si with harbour := .drain } } : State).pastStop = true := by decide +kernel
/-- Berth 2 is chosen over berth 0: it does not wait and its priority is 7. -/
def rivals : State := (piloted id []).mapBerth 0 2 fun y => { y with waiting := false, prio := 7 }
/-- An interrupt is due for berth 0: strings and REP stop after one element or iteration; a WAIT is over at once with IE 0. -/
def interrupted (ie : Bool) (n : Word) : State :=
  withSect secPilot plan (onCore (fun k => { k with pend := [arrival 5] }) ((strings n).mapBerth 0 0 fun y => { y with ie := ie, started := true }))
theorem witness_interrupts : (interrupted true 2).interrupts 0 0 = true ∧ (strings 2).interrupts 0 0 = false ∧ (interrupted true 2).l2.holds = [] ∧
    1 < ((interrupted true 2).berth 0 0 |>.reg 2).toNat ∧
    ends (exec (.sset x0 6 7 8 .b4) (interrupted true 2)) (fun t => ((t.core 0).sb.map (·.addr)) == [0x1000] && (t.berth 0 0).midway &&
      (t.core 0).stalled == some (.sset x0 6 7 8 .b4) && (t.berth 0 0).pc == 0x100) = true ∧
    ends (exec (.rep x0 2 0x004C6003) (interrupted true 2)) (fun t => (t.berth 0 0).reg 2 == 7 && (t.berth 0 0).reg 6 == 0x1003 &&
      (t.berth 0 0).midway) = true ∧
    ends (exec (.wait x0) (interrupted false 2)) (fun t => !(t.berth 0 0).waiting && (t.core 0).running == none) = true := by decide +kernel
theorem witness_pilotSelect : rivals.pilotRuns = true ∧ (rivals.core 0).haltDue = none ∧ rivals.choice 0 = some 2 ∧ rivals.effective 0 2 = some 7 ∧ rivals.coreRuns 0 = true ∧
    (rivals.core 0).pend = [] ∧ ends (exec (.pilotSelect 0) rivals) (fun t => (t.core 0).selected == some 2) = true ∧
    ends (exec (.berthSwitch 0) (onCore (fun k => { k with selected := some 2 }) rivals)) (fun t =>
      (t.core 0).running == some 2) = true ∧ (rivals.core 0).last ≠ 2 ∧ (rivals.berth 0 2).lbe = none ∧
    (rivals.berth 0 2).pocketFault = none ∧ (rivals.berth 0 2).epiFaults = [] ∧ (rivals.core 0).traceEn = false := by decide +kernel
def deliver : State := (piloted (fun k => { k with pend := [arrival 5] }) []).mapBerth 0 0 fun y => { y with ie := true }
theorem witness_eventEntry : (deliver.core 0).running = some 0 ∧ deliver.bestEntry 0 0 = some (arrival 5) ∧
    deliver.coreRuns 0 = true ∧ deliver.choice 0 = some 0 ∧ (rivals.core 0).running = some 0 ∧ rivals.choice 0 ≠ some 0 ∧
    ends (exec (.eventEntry 0) rivals) (fun t => t == rivals) = true ∧
    ((State.abandon ((deliver.setCore 0 { deliver.core 0 with pend := (deliver.core 0).pend.filter (· != arrival 5) }).mapBerth 0 0 fun y =>
      { y with waiting := false }) 0 0).readGangway 0 0 1).2 = some { handler := 0x4000, priv := 3, keepIe := false, trapMin := 0 } ∧
    ends (exec (.eventEntry 0) deliver) (fun t => (t.berth 0 0).pc == 0x4000 && (t.berth 0 0).prio == 9 && (t.core 0).pend == []) = true := by
  decide +kernel

/-- A head beat of a FORM: ACTION 2, and for FORM 2 a header of 64 bytes. -/
def beat (form : Nat) : Line := BitVec.ofNat 512 (form + 2 * 16 + (if form = 2 then 64 * 2 ^ 144 else 0))
def ingress (f : Pilot → Pilot) : State := let s := piloted id []; { s with pl := f s.pl }
theorem witness_ingress : (ingress id).meshRuns = true ∧ (ingress id).pilotRuns = true ∧ (ingress id).l2.holds = [] ∧ (ingress id).enabled .pilot = true ∧ (ingress id).pl.credits + (ingress id).pl.beats < 1024 ∧
    (ingress fun p => { p with credits := 1024 }).pl.credits + (ingress fun p => { p with credits := 1024 }).pl.beats = 1024 ∧
    ({ bad := false, beats := [beat 1] } : IngressBuf).complete = true ∧ ({ bad := false, beats := [beat 2] } : IngressBuf).complete = false := by
  decide +kernel
theorem witness_ingressDescriptor : (ingress id).bw.fStop = false ∧ (ingress id).pl.current = none ∧ headBad (beat 1) = false ∧
    headBad (beat 2) = false ∧ (beat 1).toNat % 16 = 1 ∧ (beat 2).toNat % 16 = 2 ∧
    ends (exec .ingressDescriptor (ingress fun p => { p with buffer := [{ bad := false, beats := [beat 1] }] })) (fun t =>
      t.pl.current.map (·.id) == some 0) = true ∧
    ends (exec .ingressDescriptor (ingress fun p => { p with buffer := [{ bad := true, beats := [beat 2] }] })) (fun t =>
      t.pl.current.map (·.id) == some 2) = true := by decide +kernel
/-- A head beat with a reserved FORM, and FORM 2 whose length says more than its beats. -/
theorem witness_ingressDescriptor_malformed : headBad (beat 3) = true ∧ (beat 3).toNat % 16 ≠ 2 ∧ headBad (beat 2 + 1 <<< 34) = true ∧
    (beat 2 + 1 <<< 34).toNat % 16 = 2 ∧
    ends (exec .ingressDescriptor (ingress fun p => { p with buffer := [{ bad := false, beats := [beat 3] }] })) (fun t =>
      t.pl.current.map (·.id) == some 2) = true := by decide +kernel
/-- The record of a FORM 2 descriptor takes five slots. -/
def inbox2 (put : Nat) : State := { ingress fun p => { p with current := some { id := 1, beats := [beat 2, 1, 2, 3, 4], written := false } } with
  mem := cellsPut [] 0x8000 put 255 8 }
theorem witness_inbox_long : (inbox2 11).portTarget 1 ((beat 2).toNat / 256 % 256) = some 0 ∧ (inbox2 11).engineWord 0x8000 = some 11 ∧
    11 + 5 - 0 ≤ 16 ∧ 16 < 12 + 5 - 0 ∧ evBerth (inbox2 11).pilotPlan 1 = 1 ∧
    (∀ k, k < 5 → (inbox2 11).mapped (0x8000 + 64 + 64 * ((11 + k) % 16)) = true) ∧
    ends (exec .inboxRecordWrite (inbox2 11)) (fun t => t.engineWord 0x8000 == some 16 && t.engineWord (0x8000 + 64 + 64 * 15) == some 4 &&
      t.pl.offers.length == 1) = true ∧
    ends (exec .inboxTakeReread (inbox2 12)) (fun t => t == inbox2 12) = true := by decide +kernel
def inbox (put : Nat) : State := { ingress fun p => { p with current := some { id := 0, beats := [beat 1], written := false } } with
  mem := cellsPut [] 0x8000 put 255 8 }
theorem witness_inbox : (inbox 5).pilotRuns = true ∧ (inbox 5).l2.holds = [] ∧ (inbox 5).pastStop = false ∧
    (inbox 5).portTarget 0 ((beat 1).toNat / 256 % 256) = some 0 ∧ evBerth (inbox 5).pilotPlan 0 = 1 ∧
    berthInbox (inbox 5).pilotPlan 0 1 = 0x8000 ∧ berthInboxSlots (inbox 5).pilotPlan 0 1 = 16 ∧
    (inbox 5).engineWord 0x8000 = some 5 ∧ (inbox 5).engineWord 0x8008 = some 0 ∧ (inbox 16).engineWord 0x8000 = some 16 ∧
    (inbox 5).mapped 0x8000 = true ∧ (inbox 5).mapped (0x8000 + 64 + 64 * 5) = true ∧
    ends (exec .inboxRecordWrite (inbox 5)) (fun t => t.engineWord 0x8000 == some 6 && t.pl.offers.length == 1) = true ∧
    ends (exec .inboxTakeReread (inbox 16)) (fun t => t == inbox 16) = true := by decide +kernel

/-- A table command: OP, PORT 3, a key of 2 bytes 0x1234, ACT 1 with data 9, and further bits. -/
def tableCommand (op more : Nat) : Line := BitVec.ofNat 512 (op + 3 * 2 ^ 8 + 2 * 2 ^ 24 + 2 ^ 32 + 9 * 2 ^ 64 + 0x1234 * 2 ^ 128 + more)
def tableEntry (port : Option Byte) : TableEntry := { port := port, key := 0x1234, klen := 2, act := 1, data := 9, entry := 0x55 }
/-- Slot 4 holds a command. -/
def table (sent : Bool) (c : Line) (l : List TableEntry) : State :=
  let s := piloted id []
  { s with tp := { s.tp with slots := s.tp.slots.set 4 { command := c, response := 0, go := true, sent := sent }, tables := l } }
theorem witness_table : (table false (tableCommand 1 0) []).meshRuns = true ∧ (table false (tableCommand 1 0) []).pilotRuns = true ∧
    ((table false (tableCommand 1 0) []).slot 4).go = true ∧ ((table false (tableCommand 1 0) []).slot 4).sent = false ∧
    ((table true (tableCommand 1 0) []).slot 4).sent = true ∧ (table true (tableCommand 1 0) []).tp.answers = [] ∧
    (tableCommand 1 0).toNat % 256 = 1 ∧ (tableCommand 2 0).toNat % 256 = 2 ∧ (tableCommand 3 (2 ^ 22)).toNat % 256 = 3 ∧
    tcBad (tableCommand 1 0) = false ∧ tcBad (tableCommand 2 0) = false ∧ tcBad (tableCommand 3 (2 ^ 22)) = false ∧
    tcBad (tableCommand 1 (2 ^ 22 + 2 ^ 23)) = true ∧ evValid (table true (tableCommand 1 0) []).pilotPlan 3 = true := by decide +kernel
theorem test_table :
    ends (exec (.tableCommandSend 4) (table false (tableCommand 1 0) [])) (fun t => t.pins.tpCmd && t.tp.cmdTag == 4) = true ∧
    ends (exec (.tableCommandSend 4) (table false (tableCommand 9 0) [])) (fun t => !(t.slot 4).go && (t.slot 4).response == 4) = true ∧
    ends (exec (.insert 4 0x55 true) (table true (tableCommand 1 0) [])) (fun t => t.tp.tables == [tableEntry (some 3)]) = true ∧
    ends (exec (.insert 4 0x55 true) (table true (tableCommand 1 0) [tableEntry (some 3)])) (fun t => t.tp.answers == [(4, 1)]) = true ∧
    ends (exec (.delete 4) (table true (tableCommand 2 0) [tableEntry (some 3)])) (fun t => t.tp.tables == []) = true ∧
    ends (exec (.lookup 4) (table true (tableCommand 3 (2 ^ 22)) [tableEntry none])) (fun t =>
      t.tp.answers == [(4, BitVec.ofNat 128 (0x55 * 2 ^ 32 + 2 ^ 56 + 9 * 2 ^ 64))]) = true ∧
    ends (exec (.lookup 4) (table true (tableCommand 3 0) [tableEntry none])) (fun t => t.tp.answers == [(4, 2)]) = true := by decide +kernel

/-- Port 4 with one request outstanding. -/
def portOf (write : Bool) (client : Client) : State := { base with
  ports := base.ports.set 4 [{ tag := 7, write := write, client := client, line := 64, len := false }] }
theorem witness_ports : base.quayRuns = true ∧ base.enabled .memory = true ∧ sliceOf 140 = 4 ∧ (base.engine 4).test = false ∧
    (portOf false .slice).missFull 4 = false ∧ (portOf false .slice).missing 140 = false ∧ (∀ r ∈ (portOf false .slice).ports[(4 : SliceId)], r.tag ≠ 8) ∧
    (((portOf false .slice).ports[(4 : SliceId)]).find? (·.tag == 7)).map (fun r => (r.write, r.client == .slice, r.len)) = some (false, true, false) ∧
    (((portOf true .dock).ports[(4 : SliceId)]).find? (·.tag == 7)).map (·.write) = some true ∧
    base.scratchLine 64 = false ∧ base.l2.find 64 = none ∧ (140 : BitVec 42).getLsbD 0 = false ∧
    ends (exec (.memoryRequest 4 true .dock 140 false 8 0x77 1) base) (fun t => t.mem == [(140 * 64, 0x77)]) = true ∧
    ends (exec (.memoryReadResponse 4 7 0x99 0) (portOf false .slice)) (fun t => (t.l2.find 64).map (·.data) == some 0x99 &&
      t.ports[(4 : SliceId)] == []) = true := by decide +kernel
/-- Data and errors of responses, and a response of the other kind. -/
theorem test_ports :
    ends (exec (.memoryRequest 4 false .slice 140 false 8 0 0) (portOf false .slice)) (fun t => t.ports[(4 : SliceId)].length == 2 &&
      t.pins.mp[(4 : SliceId)].rdValid && t.pins.mp[(4 : SliceId)].rdAddr == 140) = true ∧
    ends (exec (.memoryReadResponse 4 7 0x99 0) (portOf false .dock)) (fun t => t.mem == [(0x1000, 0x99)]) = true ∧
    ends (exec (.memoryReadResponse 4 7 0x99 2) (portOf false .dock)) (fun t => t.mem == [] && t.memBad == [(64, 0xFF)] &&
      t.bw.pendU.getLsbD 0x19) = true ∧
    ends (exec (.memoryReadResponse 4 7 0x99 1) (portOf false .scrub)) (fun t => t.bw.pendC.getLsbD 0x1B) = true ∧
    ends (exec (.memoryReadResponse 4 7 0x99 2) (portOf false .slice)) (fun t => (t.l2.find 64).map (·.poison) == some 0xFF) = true ∧
    ends (exec (.memoryWriteAck 4 7 0) (portOf false .slice)) (fun t => t.ports[(4 : SliceId)].length == 1 && t.bw.pendU.getLsbD 0x1A) = true ∧
    ends (exec (.memoryResponseLate 4 7) (portOf true .dock)) (fun t => t.bw.pendU.getLsbD 0x1A) = true := by decide +kernel

/-- Engine 4 changed. -/
def quayE (f : Engine → Engine) : State := base.setEngine 4 (f (base.engine 4))
def update (line : Nat) : LineUpdate := { line := line, region := 2, op := 9, elems := List.replicate 8 { bound := none, sum := 3 }, inv := true, sat := false }
def merging (line : Nat) (n : Int) : MergeEntry := { line := line, region := 2, ops := [9], sums := List.replicate 8 { bound := none, sum := n }, out := false, sent := [] }
theorem witness_accumulator : base.quayRuns = true ∧ (base.engine 4).test = false ∧ base.lineHeld 64 = false ∧ base.memOk ∧ (∀ m ∈ ((quayE fun e => { e with updates := [update 64] }).engine 4).merge, m.line ≠ 64) ∧
    ((quayE fun e => { e with updates := [update 64] }).engine 4).merge.length < 64 ∧
    ends (exec (.accumulatorUpdate 4) (quayE fun e => { e with updates := [update 64], merge := [merging 64 5] })) (fun t =>
      (t.engine 4).merge.map (·.sums) == [List.replicate 8 { bound := none, sum := 8 }] && t.xflag 4 2 == 2) = true ∧
    ends (exec (.accumulatorUpdate 4) (quayE fun e => { e with updates := [update 64], merge := List.replicate 64 (merging 128 5) })) (fun t =>
      (t.engine 4).updates.length == 1) = true ∧
    ends (exec (.mergeWrite 4 0) { quayE fun e => { e with merge := [merging 64 (-5)] } with mem := [(0x1008, 7)] }) (fun t =>
      (t.engineRead 64).1.toNat / 2 ^ 64 % 2 ^ 64 == 2 && (t.engineRead 64).1.toNat % 2 ^ 64 == 2 ^ 64 - 5 &&
      (t.engine 4).merge.map (fun m => (m.ops, m.out, m.sent)) == [([], true, [9])]) = true := by unfold State.memOk; decide +kernel
/-- A merge entry of a scratch line, and one whose line is poisoned. -/
theorem witness_mergeWrite_ends : withScratch.scratchLine (0x80000000 / 64) = true ∧
    ends (exec (.mergeWrite 4 0) (withScratch.setEngine 4 { withScratch.engine 4 with merge := [merging (0x80000000 / 64) 5] })) (fun t =>
      (t.engine 4).merge == []) = true ∧
    ends (exec (.mergeWrite 4 0) { quayE fun e => { e with merge := [merging 64 5] } with memBad := [(64, 1)] }) (fun t =>
      (t.engine 4).merge == [] && t.mem == []) = true := by decide +kernel
/-- 1.5 x 2^0 as binary16 rounds to 2, and 2.5 as bfloat16 to 2; the largest binary32 exceeds 64 bits. -/
theorem witness_elements : (0, fmtBF16) ∈ [(0, fmtBF16), (1, fmtB16), (2, fmtB32), (3, fmtA40)] ∧
    elementOf 1 0 0x3E00 = ({ bound := none, sum := 2 }, false, false) ∧ elementOf 0 0 0x4020 = ({ bound := none, sum := 2 }, false, false) ∧
    elementOf 2 0 0x7F7FFFFF = ({ bound := none, sum := 2 ^ 63 - 1 }, false, true) ∧
    elementOf 2 0 0 = ({ bound := none, sum := 0 }, false, false) := by decide +kernel

/-- A region of 4 slots of 64 bytes at 0x9000, and an append to it. -/
def ringBody : Blob := bodyOf 32 [(0, 1), (2, 6), (8, 0x9000), (16, 256)]
def ringed (o : RingOwner) : State :=
  let s := withSect secRegion ringBody base
  let op : ArrivingOp := { region := 0, entry := BitVec.ofNat 256 ringBody.bits, cause := 0, kind := .append, via := .loop, src := 0, tag := 0, notify := false, note := 0, len := 64, addr := 0x9000, data := { len := 64, bits := 0x55 } }
  { s with
    qy := { s.qy with rings := [(0, o)] }
    dk := { s.dk with appends := [(5, 0)], serving := [{ id := 5, op := op, left := 1, flags := 0, cause := 0, fin := .answer }] }
    mem := cellsPut [] 0x9008 1 255 8 }
def ringOwner (v : Nat) : RingOwner := { region := 0, entry := BitVec.ofNat 256 ringBody.bits, open_ := [], v := BitVec.ofNat 64 v, take := 1, full := 0, put := 0, overrun := false }
theorem witness_rings : (ringed (ringOwner 3)).quayRuns = true ∧ ringN (ringOwner 3).ent = 4 ∧ (ringed (ringOwner 3)).rangeHeld 0x9040 64 = false ∧
    ((ringed (ringOwner 3)).engine (Fin.ofNat 16 (sliceOf (0x9000 / 64)))).test = false ∧ (ringed (ringOwner 3)).lineHeld (0x9000 / 64) = false ∧ regBase (ringed (ringOwner 3)).regions 0 = 0x9000 ∧
    regValid (ringed (ringOwner 3)).regions 0 = true ∧ ((ringed (ringOwner 3)).servedOp 5).isSome = true ∧
    ((ringOwner 3).v - 1).toNat < 4 - 1 ∧ ((ringOwner 4).v - 1).toNat = 4 - 1 ∧ (ringed (ringOwner 4)).engineWord 0x9008 = some 1 ∧
    ends (exec .ringAppend (ringed (ringOwner 3))) (fun t => t.engineWord (0x9000 + (1 + 3 % 3) * 64) == some 0x55 &&
      (aget 0 t.qy.rings).map (fun o => (o.v, o.open_)) == some (4, [(3, 5)]) && t.dk.acks == [{ line := 0x9040 / 64, owner := .served 5 }]) = true ∧
    ends (exec .ringAppend (ringed (ringOwner 4))) (fun t => (aget 0 t.qy.rings).map (·.full) == some 1) = true ∧
    ends (exec (.ringPutPublish 0) (ringed (ringOwner 3))) (fun t => t.engineWord 0x9000 == some 3 && t.engineWord 0x9008 == some 1) = true ∧
    ends (exec (.ringPutPublish 0) (ringed { ringOwner 4 with open_ := [(3, 5)] })) (fun t => t.engineWord 0x9000 == some 3) = true ∧
    ends (exec (.ringPutPublish 0) { ringed (ringOwner 3) with qy := { base.qy with rings := [(4096, ringOwner 3)] }, dk := base.dk }) (fun t =>
      t.qy.rings == []) = true := by decide +kernel

/-- A launch record of VL lanes whose operand 0 is bfloat16 at 0x1000. -/
def launchRecordOf (vl fmt : Nat) : Blob := bodyOf 128 [(0, vl), (16, 0x1000 + fmt * 2 ^ 48)]
def launching (r : Blob) : State := { base with qy := { base.qy with waiting := [{ op := 5, entry := 0, next := 0, addr := 0x2000, data := r }] } }
theorem witness_launchRecord : (launching (launchRecordOf 64 1)).qy.launches.length < 64 ∧
    base.recordCause ((launchRecordOf 64 1).slice 0 128) (programOf base.programs 0) = 0 ∧
    base.recordCause ((launchRecordOf 64 0).slice 0 128) (programOf base.programs 0) = 2 ∧ (base.engine 0).lerrV = false ∧
    ends (exec .launchRecord (launching (launchRecordOf 64 1))) (fun t => t.qy.launches.length == 1 && t.qy.waiting == []) = true ∧
    ends (exec .launchRecord (launching (launchRecordOf 64 0))) (fun t => (t.engine 0).lerrC == 2) = true := by decide +kernel
def launch (vl : Nat) (prog : List (BitVec 64)) (done : BitVec 16) : Launch :=
  { id := 3, op := 5, entry := 0, record := BitVec.ofNat 1024 (launchRecordOf vl 1).bits, prog := prog, started := done, done := done }
def launched (l : Launch) (chunks : List Chunk) : State :=
  let s := quayE fun e => { e with chunks := chunks }
  { s with qy := { s.qy with launches := [l] } }
theorem witness_launchStart : ((launched (launch 64 [] 0) []).qy.launches.find? (fun l => !l.done.getLsbD 4)).isSome = true ∧
    (launch 64 [] 0).started.getLsbD 4 = false ∧ lrVl (launch 0 [] 0).bytes = 0 ∧
    ends (exec (.launchStart 4) (launched (launch 64 [] 0) [])) (fun t => (t.engine 4).chunks.map (·.index) == [0]) = true ∧
    ends (exec (.launchStart 4) (launched (launch 0 [] 0) [])) (fun t => (t.launch 3).map (·.done) == some 0x10) = true ∧
    (launched (launch 64 [] 0xFFFF) []).qy.launches.find? (fun l => l.done == 0xFFFF) = some (launch 64 [] 0xFFFF) := by decide +kernel
/-- A micro-op: OP, D, A, B, C, K, IMM. -/
def mo (op d a b c k imm : Nat) : BitVec 64 := BitVec.ofNat 64 (op * 2 ^ 58 + d * 2 ^ 54 + a * 2 ^ 50 + b * 2 ^ 46 + c * 2 ^ 42 + k * 2 ^ 39 + imm)
/-- A chunk whose v1 holds 1.0 and v2 2.0 in every lane, at a micro-op. -/
def micro (w : BitVec 64) : State := launched (launch 64 [w] 0) [{ launch := 3, index := 0, pc := 0, loop := none, v :=
  [List.replicate 32 0, List.replicate 32 0x3FE0000000, List.replicate 32 0x4000000000] ++ List.replicate 5 (List.replicate 32 0) }]
def lane0 (s : State) (d : Nat) : List Cell40 := (s.engine 4).chunks.map fun ch => (ch.v.getD d []).getD 31 0
/-- 1 + 2 = 3, 1 - 2 = -1, 2 x 2 = 4, 2 x 2 + 1 = 5. -/
theorem witness_microOps : (mo 3 3 1 2 0 0 0).toNat / 2 ^ 58 % 64 = 3 ∧ ((micro (mo 3 3 1 2 0 0 0)).launch 3).isSome = true ∧
    ((micro (mo 3 3 1 2 0 0 0)).engine 4).chunks.length = 1 ∧ ((micro 0).engine 4).cursor = none ∧
    ends (exec (.microOpIssue 4) (micro (mo 3 3 1 2 0 0 0))) (fun t => lane0 t 3 == [0x4010000000]) = true ∧
    ends (exec (.microOpIssue 4) (micro (mo 4 3 1 2 0 0 0))) (fun t => lane0 t 3 == [0xBFE0000000]) = true ∧
    ends (exec (.microOpIssue 4) (micro (mo 5 3 2 2 0 0 0))) (fun t => lane0 t 3 == [0x4020000000]) = true ∧
    ends (exec (.microOpIssue 4) (micro (mo 6 3 2 2 1 0 0))) (fun t => lane0 t 3 == [0x4028000000]) = true := by decide +kernel
/-- 2 / 1 = 2, max 2, -1, 1 < 2 selects C; a chunk whose line another holds stays; a store of ones as bfloat16. -/
theorem test_microForms :
    ends (exec (.microOpIssue 4) (micro (mo 0x0B 3 2 1 0 0 0))) (fun t => lane0 t 3 == [0x4000000000]) = true ∧
    ends (exec (.microOpIssue 4) (micro (mo 7 3 1 2 0 0 0))) (fun t => lane0 t 3 == [0x4000000000]) = true ∧
    ends (exec (.microOpIssue 4) (micro (mo 0x0A 3 1 0 0 0 0))) (fun t => lane0 t 3 == [0xBFE0000000]) = true ∧
    ends (exec (.microOpIssue 4) (micro (mo 0x10 3 1 2 2 0 0))) (fun t => lane0 t 3 == [0x4000000000]) = true ∧
    ends (exec (.microOpIssue 4) (micro (mo 2 0 1 0 0 0 0))) (fun t => (t.engineRead 64).1.toNat % 2 ^ 32 == 0x3F803F80) = true ∧
    ends (exec (.microOpIssue 4) (holding 64 (micro (mo 1 3 0 0 0 0 0)))) (fun t => t == holding 64 (micro (mo 1 3 0 0 0 0 0))) = true := by
  decide +kernel
theorem test_microControl :
    ends (exec (.microOpIssue 4) { micro (mo 1 3 0 0 0 0 0) with mem := cellsPut [] 0x103E 0x3F80 3 2 }) (fun t => lane0 t 3 == [0x3FE0000000]) = true ∧
    ends (exec (.microOpIssue 4) (micro (mo 0x20 0 2 0 0 0 7))) (fun t => (t.engine 4).chunks.map (·.loop) == [some (1, 3, 7)]) = true ∧
    ends (exec (.microOpIssue 4) (micro (mo 0x21 0 2 0 0 0 7))) (fun t => (t.engine 4).chunks.map (·.pc) == [1]) = true ∧
    ends (exec (.microOpIssue 4) (micro 0)) (fun t => (t.engine 4).chunks == [] && (t.launch 3).map (·.done) == some 0x10) = true := by decide +kernel
theorem test_quayTest : ends (exec (.quayKnownAnswerTest 4 false) (quayE fun e => { e with test := true })) (fun t =>
      !(t.engine 4).test && t.bw.pendF.getLsbD 0x1E) = true ∧
    ends (exec (.quayKnownAnswerTest 4 false) base) (fun t => t == base) = true ∧
    (dirtyL2.l2.find 64).any (·.dirty) = true ∧ (base.l2.find 4).any (·.dirty) = false ∧
    ends (exec (.scrubResponse 4 1) (quayE fun e => { e with scrubOut := some 4 })) (fun t => t.bw.pendC.getLsbD 0x1B &&
      (t.engine 4).scrubPos == 5) = true := by decide +kernel
theorem witness_scrub : base.enabled .memory = true ∧ (base.engine 4).scrubEn = true ∧ (base.engine 4).scrubOut = none ∧
    base.pastStop = false ∧ base.ck.supEpisode = false ∧ base.scrubLine 4 0 = some 4 ∧
    ((quayE fun e => { e with scrubOut := some 4 }).engine 4).scrubOut = some 4 ∧
    ((quayE fun e => { e with scrubEn := false }).engine 4).scrubEn = false := by decide +kernel

/-- A QUEUE_PLAN: queue 3 is valid with STOP, 16 slots at 0xA000 and error counter 6; watch 4 watches counter 7. -/
def queuePlan : Blob := bodyOf 98304 [(48, 3), (54, 6), (56, 0xA000), (65568, 1), (65570, 7)]
def docked (x : DQueue) (f : Dock → Dock) : State :=
  let s := withSect secQueue queuePlan base
  { s with dk := f { s.dk with queues := [(3, x)] } }
def queue (put take next state : Nat) : DQueue :=
  { put := BitVec.ofNat 32 put, take := BitVec.ofNat 32 take, next := BitVec.ofNat 32 next, qcount := 0, state := BitVec.ofNat 2 state, fetched := none, started := [], old := none }
def startedOf (desc : Nat) (out : Option (BitVec 8 × BitVec 3)) : Started := { n := 2, desc := BitVec.ofNat 512 desc, outcome := out }
theorem witness_dockStores : (docked (queue 2 2 2 0) id).coreRuns 0 = true ∧ ((docked (queue 2 2 2 0) id).core 0).running = some 0 ∧
    (docked (queue 2 2 2 0) id).hasSect secMap = true ∧ quValid ((docked (queue 2 2 2 0) id).queueEntry 3) 0 = true ∧
    quValid ((docked (queue 2 2 2 0) id).queueEntry 4) 0 = false ∧ ringSlots ((docked (queue 2 2 2 0) id).queueEntry 3) 0 = 16 ∧
    ((docked (queue 2 2 2 0) id).dq 3) = queue 2 2 2 0 ∧ ((18 : Word).setWidth 32 - (2 : BitVec 32)).toNat ≤ 16 ∧
    16 < ((19 : Word).setWidth 32 - (2 : BitVec 32)).toNat ∧ waValid (docked (queue 2 2 2 0) id).queuePlan 4 = true ∧
    ends (exec (.putStore 0 3 18) (docked (queue 2 2 2 0) id)) (fun t => (t.dq 3).put == 18 && (t.dq 3).state == 0) = true ∧
    ends (exec (.putStore 0 3 19) (docked (queue 2 2 2 0) id)) (fun t => (t.dq 3).state == 2 && t.ctr 6 == 1) = true ∧
    ends (exec (.queueResume 0 3 5) (docked { queue 4 2 4 1 with started := [startedOf 0 none] } id)) (fun t => (t.dq 3).state == 0 &&
      (t.dq 3).next == 3) = true ∧
    ends (exec (.queueResume 0 3 5) (docked (queue 2 2 2 0) id)) (fun t => (t.dq 3).put == 5) = true ∧
    ends (exec (.putStore 0 3 0x200000000) base) (fun t => (t.berth 0 0).lbe.isSome) = true ∧
    ends (exec (.counterStore 0 9 0x55) base) (fun t => t.ctr 9 == 0x55) = true := by decide +kernel
def watching (target : Nat) : State := { docked (queue 2 2 2 0) fun d => { d with
  watches := [(4, { arm := true, target := BitVec.ofNat 32 target })], ctrs := [(7, 5)] } with si :=
    { base.si with active := aput secQueue queuePlan (aput secPilot (bodyOf 65536 [(8256, 1)]) base.si.active) } }
theorem witness_watchFire : (watching 5).enabled .dock = true ∧ waValid (watching 5).queuePlan 4 = true ∧ ((watching 5).watch 4).arm = true ∧
    ((watching 5).ctr (waCtr (watching 5).queuePlan 4) - ((watching 5).watch 4).target).toNat < 2 ^ 31 ∧
    2 ^ 31 ≤ ((watching 6).ctr (waCtr (watching 6).queuePlan 4) - ((watching 6).watch 4).target).toNat ∧
    ends (exec (.watchFire 4) (watching 5)) (fun t => t.offered 0x104 (.dock 4)) = true ∧
    ends (exec (.watchFire 4) (watching 6)) (fun t => t == watching 6) = true := by decide +kernel

/-- A descriptor: OP, byte 1, LEN, LOCAL and REMOTE. -/
def desc (op flags len loc rem : Nat) : Nat := op + flags * 2 ^ 8 + len * 2 ^ 32 + loc * 2 ^ 64 + rem * 2 ^ 128
/-- Queue 3 with a descriptor at the next slot of its ring. -/
def fetching (d : Nat) : State := { docked (queue 3 2 2 0) id with mem := cellsPut [] (0xA000 + 2 * 64) d (2 ^ 64 - 1) 64 }
theorem witness_fetch : (fetching (desc 2 0 64 0x1000 0x3000)).dockStarts = true ∧ (fetching 0).lineHeld (0xA000 / 64 + 2) = false ∧
    ((fetching 0).dq 3).fetched = none ∧ ((fetching 0).dq 3).old = none ∧
    ((fetching 0).dq 3).state = 0 ∧ (((fetching 0).dq 3).put - ((fetching 0).dq 3).next).toNat = 1 ∧
    (fetching (desc 2 0 64 0x1000 0x3000)).engineBytes (0xA000 + 64 * 2) 64 =
      some ({ len := 64, bits := (BitVec.ofNat 512 (desc 2 0 64 0x1000 0x3000)).toNat }, false) ∧
    dsRefused false 0 (descBytes (BitVec.ofNat 512 (desc 2 0 64 0x1000 0x3000))) = 0 ∧
    ends (exec (.descriptorFetch 3) (fetching (desc 2 0 64 0x1000 0x3000))) (fun t => (t.dq 3).fetched.isSome) = true ∧
    ends (exec (.descriptorFetch 3) (fetching (desc 7 0 64 0x1000 0x3000))) (fun t => (t.dq 3).started.map (·.outcome) == [some (1, 0)]) = true ∧
    (docked (queue 2 2 2 0) id |>.dq 3).put = (docked (queue 2 2 2 0) id |>.dq 3).next := by decide +kernel
def ready (d : Nat) : State := docked { queue 3 2 2 0 with fetched := some (2, BitVec.ofNat 512 d) } id
theorem witness_descriptors : ((ready (desc 2 0 64 0x1000 0x3000)).dq 3).fetched = some (2, BitVec.ofNat 512 (desc 2 0 64 0x1000 0x3000)) ∧
    (ready (desc 2 0 64 0x1000 0x3000)).waitReached 3 (descBytes (BitVec.ofNat 512 (desc 2 0 64 0x1000 0x3000))) = true ∧
    (ready (desc 2 0x21 64 0x1000 0x3000 + 2 ^ 192)).waitReached 3 (descBytes (BitVec.ofNat 512 (desc 2 0x21 64 0x1000 0x3000 + 2 ^ 192))) = false ∧
    (ready 0).rangeCovers 0x1000 64 = true ∧ (ready 0).rangeCovers 0x200000 64 = false ∧ quBound ((ready 0).queueEntry 3) 0 = false ∧
    (ready 0).si.nodeId = 0 ∧ (ready 0).dk.ops = [] ∧ (ready 0).engineBytes 0x1000 64 = some ({ len := 64, bits := 0 }, false) ∧
    ends (exec (.nopDescriptor 3) (ready 0)) (fun t => (t.dq 3).started.map (·.outcome) == [some (0, 0)]) = true ∧
    ends (exec (.readDescriptor 3) (ready (desc 2 0 64 0x1000 0x3000))) (fun t => t.dk.arriving.map (fun a => (a.addr, a.len)) == [(0x3000, 64)]) = true ∧
    ends (exec (.writeDescriptor 3) (ready (desc 1 0 64 0x1000 0x3000))) (fun t => t.dk.arriving.map (·.kind) == [.write] && t.dk.ops.length == 1) = true ∧
    ends (exec (.writeDescriptor 3) (ready (desc 1 0 64 0x200000 0x3000))) (fun t => (t.dq 3).started.map (·.outcome) == [some (3, 0)]) = true := by
  decide +kernel
/-- Queue 4 is ready and stands after queue 3 in the rotation from queue 2, and before it from queue 3. -/
def rotating (last : Nat) : State :=
  let s := withSect secQueue (bodyOf 98304 [(48, 3), (54, 6), (56, 0xA000), (64, 3), (70, 6), (72, 0xC000)]) base
  let x := { queue 3 2 2 0 with fetched := some (2, 0) }
  { s with dk := { s.dk with queues := [(3, x), (4, x)], lastQ := last } }
theorem witness_rotation : (∀ y ∈ (rotating 2).dk.queues, (y.1 + 4095 - 2 % 4096) % 4096 < (3 + 4095 - 2 % 4096) % 4096 → (rotating 2).queueReady y.1 = false) ∧
    (rotating 3).queueReady 4 = true ∧ (4 + 4095 - 3 % 4096) % 4096 < (3 + 4095 - 3 % 4096) % 4096 ∧ (rotating 2).dk.late = [] ∧
    (rotating 2).rangeHeld 0x1000 64 = false ∧
    ends (exec (.nopDescriptor 3) (rotating 2)) (fun t => t.dk.lastQ == 3 && (t.dq 3).started.length == 1) = true ∧
    ends (exec (.nopDescriptor 3) (rotating 3)) (fun t => t == rotating 3) = true := by decide +kernel
def remote (kind : OpKind) (route : Route) : RemoteOp :=
  { id := 4, kind := kind, route := route, tag := 0, dest := 0, owner := .queue 3 2, local_ := 0x1000, len := 64, answer := none, stored := none }
def answerOf (isRead : Bool) (cause : BitVec 8) (data : Blob) : Answer :=
  { route := .loop, src := 0, tag := 0, isRead := isRead, cause := cause, flags := 0, data := data }
def waiting (op : RemoteOp) (a : List Answer) : State := docked { queue 4 2 3 0 with started := [startedOf 1 none] } fun d => { d with
  ops := [op], answers := a }
def data64 : Blob := { len := 64, bits := 0x77 }
theorem witness_answers : (waiting (remote .write .loop) [answerOf false 0 Blob.empty]).dockRuns = true ∧
    (waiting (remote .read .loop) []).rangeHeld 0x1000 64 = false ∧ (waiting (remote .read .loop) []).ackLines 0x1000 64 = [64] ∧ data64.len = 64 ∧
    (waiting (remote .write .loop) [answerOf false 0 Blob.empty]).answered (answerOf false 0 Blob.empty) = some (remote .write .loop) ∧
    (waiting (remote .read .loop) [answerOf true 0 data64]).answered (answerOf true 0 data64) = some (remote .read .loop) ∧
    (waiting (remote .read .loop) [answerOf true 6 Blob.empty]).answered (answerOf true 6 Blob.empty) = some (remote .read .loop) ∧
    (waiting (remote .read .loop) [answerOf false 0 Blob.empty]).answered (answerOf false 0 Blob.empty) = none ∧
    (waiting (remote .write .loop) [answerOf true 0 Blob.empty]).answered (answerOf true 0 Blob.empty) = none ∧
    base.role 5 ≠ 0 ∧ (remote .write .loop).answer = none ∧
    ends (exec .ack (waiting (remote .write .loop) [answerOf false 0 Blob.empty])) (fun t => (t.dq 3).started.map (·.outcome) == [some (0, 0)] && t.dk.ops == []) = true ∧
    ends (exec .readData (waiting (remote .read .loop) [answerOf true 0 data64])) (fun t => t.engineWord 0x1000 == some 0x77) = true ∧
    ends (exec (.operationTimeout 0) (waiting (remote .write .loop) [])) (fun t => (t.dq 3).started.map (·.outcome) == [some (0x0C, 0)]) = true := by
  decide +kernel
/-- Read data that has been stored ends with its acknowledgement; a lost route is recorded; the answer of an operation that ran out
of time frees its tag; LINK_TX_HOLD of a NODE link. -/
def storedRead : State := waiting { remote .read .loop with stored := some (0, 0) } []
def lateOp (l : List RemoteOp) (a : Answer) : State := docked (queue 4 2 3 0) fun d => { d with late := l, answers := [a] }
theorem witness_answers_ends : let s : State := { storedRead with dk := { storedRead.dk with acks := [{ line := 64, owner := .remote 4 }] } }
    (s.dk.ops.find? (·.id == 4)).map (·.stored) = some (some (0, 0)) ∧
    (s.dockAcked 64 false).dk.ops = [] ∧ (((s.dockAcked 64 true).dq 3).started.map (·.outcome)) = [some (0x0A, 0)] ∧
    (lateOp [remote .write .loop] (answerOf false 0 Blob.empty)).answered (answerOf false 0 Blob.empty) = none ∧
    base.txHold = true ∧ base.role 5 ≠ 0 ∧ (withSect secLink (bodyOf 1536 [(160, 1), (162, 7)]) base).role 5 = 1 ∧
    ends (exec .ack (lateOp [remote .write .loop] (answerOf false 0 Blob.empty))) (fun t => t.dk.late == [] && t.dk.answers == []) = true ∧
    ends (exec .ack (waiting (remote .write .loop) [answerOf false 0x0B Blob.empty])) (fun t => t.bw.pendU.getLsbD 0x22 &&
      (t.dq 3).started.map (·.outcome) == [some (0x0B, 0)]) = true ∧
    ends (exec (.operationTimeout 0) (waiting (remote .write .loop) [])) (fun t => t.dk.late.length == 1) = true := by decide +kernel
def finishing (d : Nat) (out : BitVec 8) : State := docked { queue 5 2 4 0 with started := [startedOf d (some (out, 0)), startedOf 0 none] } id
theorem witness_finish : ((finishing 1 0).dq 3).started = [startedOf 1 (some (0, 0)), startedOf 0 none] ∧ (startedOf 1 none).desc.getLsbD 11 = false ∧
    (startedOf 1 none).desc.getLsbD 9 = false ∧ (startedOf (1 + 2 ^ 9) none).desc.getLsbD 9 = true ∧ (5 : BitVec 8) ≠ 0 ∧
    ends (exec (.descriptorFinish 3) (finishing (1 + 2 ^ 9 + 8 * 2 ^ 240) 0)) (fun t => (t.dq 3).take == 3 && (t.dq 3).qcount == 1 && t.ctr 8 == 1) = true ∧
    ends (exec (.descriptorFinish 3) (finishing 1 5)) (fun t => (t.dq 3).take == 3 && (t.dq 3).qcount == 0 && (t.dq 3).state == 1 && t.ctr 6 == 1) = true := by
  decide +kernel

/-- A region of 256 bytes at 0x9000 with RD or WR, an attribute and nodes 0 to 5, and an arriving operation. -/
def arrivingAt (kind : OpKind) (a len rw attr : Nat) : State :=
  let s := withSect secRegion (bodyOf 32 [(0, 1 + 2 * attr + 16 * rw), (2, 6), (6, 5), (8, 0x9000), (16, 256)]) base
  let op : ArrivingOp := {
    region := 0, entry := 0, cause := 0, kind := kind, via := .loop, src := 0, tag := 9, notify := false, note := 0, len := len
    addr := BitVec.ofNat 48 a, data := { len := len, bits := 0x55 } }
  { s with dk := { s.dk with arriving := [s.checked op false] } }
theorem witness_arrivals_dock : (arrivingAt .write 0x9000 64 2 0).dockRuns = true ∧ (arrivingAt .write 0x9000 64 2 0).rangeHeld 0x9000 64 = false ∧
    (arrivingAt .write 0x9000 64 2 0).ackLines 0x9000 64 = [0x9000 / 64] ∧
    ((arrivingAt .write 0x9000 64 2 0).dk.arriving.map fun o => (o.cause, regAttr o.ent 0, regEntryEn o.ent 0)) = [(0, 0, false)] ∧ (arrivingAt .write 0x9000 64 2 0).enabled .dock = true ∧
    findRegion (arrivingAt .write 0x9000 64 2 0).regions 0x8000 = none ∧ findRegion (arrivingAt .write 0x9000 64 2 0).regions 0x9000 = some 0 ∧
    (let p := (arrivingAt .write 0x9000 64 2 0).regions
     regWr p 0 = true ∧ regRd p 0 = false ∧ regNodeLo p 0 ≤ 0 ∧ 0 ≤ regNodeHi p 0 ∧ regBase p 0 + regLen p 0 < 0x90C4 + 64 ∧
      regAttr p 0 = 0 ∧ regEntryEn p 0 = false) ∧ regAttr (arrivingAt .append 0x9000 64 2 2).regions 0 = 2 ∧
    64 ≤ 2 ^ regSlotLog2 (arrivingAt .append 0x9000 64 2 2).regions 0 ∧
    (arrivingAt .read 0x9000 64 1 0).engineBytes 0x9000 64 = some ({ len := 64, bits := 0 }, false) := by decide +kernel
/-- The whole-operation end of a WRITE that memory has acknowledged. -/
theorem test_arrivals_served : ends (exec .arrivingWrite (arrivingAt .write 0x9000 64 2 0)) (fun t =>
      t.dk.serving.map (fun x => (x.id, x.left)) == [(t.dk.nextId - 1, 1)] && t.dk.answers == [] &&
      (t.dockAcked (0x9000 / 64) false).dk.answers.map (·.cause) == [0] && (t.dockAcked (0x9000 / 64) true).dk.answers.map (·.cause) == [0x0A]) = true := by
  decide +kernel
theorem test_arrivals_dock : ((0x8000, 64, 2, 5) :: (0x9000, 64, 1, 6) :: (0x90C4, 64, 2, 7) :: []).all (fun (a, len, rw, cause) =>
      ends (exec .arrivingWrite (arrivingAt .write a len rw 0)) fun t => t.dk.answers.map (·.cause.toNat) == [cause]) = true ∧
    ends (exec .arrivingWrite (arrivingAt .write 0x9000 64 2 0)) (fun t => t.engineWord 0x9000 == some 0x55) = true ∧
    ends (exec .arrivingRead (arrivingAt .read 0x9000 64 1 0)) (fun t => t.dk.answers.map (·.data.len) == [64]) = true ∧
    ends (exec .arrivingAppend (arrivingAt .append 0x9000 64 2 2)) (fun t => t.dk.appends.map (·.2) == [0]) = true := by decide +kernel

/-- A HAWSER_PLAN: chain 3 has 3 positions on nodes 0, 7, 8 (first element 0), 50 A40 cells, start counter 5, done counter 6; link 5
leads on from position 0; chain 4 has this block at position 1. -/
def hawserBody (cells : Nat) : Blob := bodyOf 66000 [(192, 1 + 3 * 4), (194, 3), (198, 5), (200, cells), (204, 6), (256, 1 + 3 * 4), (258, 3), (260, 3), (262, 5),
  (264, cells), (268, 6), (65539, 5), (65544, 0x4000), (65552, 7), (65568, 8), (65584, 7), (65602 + 1, 5), (65608, 0x4000), (65616, 8)]
/-- A LINK_PLAN in which link 5 leads to node 7. -/
def linkBody : Blob := bodyOf 1536 [(160, 1), (162, 7)]
def hawsered (cells start : Nat) (x : HwChain) (frames : List HwFrame) : State :=
  let s := withSect secLink linkBody (withSect secHawser (hawserBody cells) base)
  { s with
    hw := { s.hw with chains := [(3, x), (4, x)], frames := frames }
    dk := { s.dk with ctrs := [(5, BitVec.ofNat 32 start)] }
    lk := s.lk.set 5 { Link.reset with lpUp := true, state := .up } }
def chainOf (armed : Bool) (ops : List (Nat × Bool × List Cell40)) : HwChain :=
  { writes := [], runs := 0, armed := armed, sat := false, err := false, frame := 0, operands := ops }
def ones48 : List Cell40 := List.replicate 48 0x3FE0000000
def frameOf (poison : Bool) : HwFrame := { chain := 4, frame := 0, pos := 0, poison := poison, via := none, cells := ones48 }
theorem witness_hawser : (hawsered 50 1 (chainOf false []) []).hawserRuns = true ∧
    (hawsered 50 1 (chainOf false []) []).ownPos 3 = some 0 ∧ (hawsered 50 1 (chainOf false []) []).ownPos 4 = some 1 ∧
    (hawsered 50 1 (chainOf false []) []).bw.fStop = false ∧ (hawsered 50 1 (chainOf false []) []).enabled .dock = true ∧
    chValid (hawsered 50 1 (chainOf false []) []).hawserPlan 3 = true ∧ chNcells (hawserBody 50) 3 = 50 ∧ chNcells (hawserBody 0) 3 = 0 ∧
    ((hawsered 50 1 (chainOf false []) []).ctr 5 - (0 + 1)).toNat < 2 ^ 31 ∧ 2 ^ 31 ≤ ((hawsered 50 0 (chainOf false []) []).ctr 5 - (0 + 1)).toNat ∧
    (hawsered 50 1 (chainOf false []) []).pastStop = false ∧
    ends (exec (.runArm 3) (hawsered 50 1 (chainOf false []) [])) (fun t => (t.chain 3).armed) = true ∧
    ends (exec (.runArm 3) (hawsered 0 1 (chainOf false []) [])) (fun t => (t.chain 3).runs == 1 && t.ctr 6 == 1) = true := by decide +kernel
theorem witness_operandRead : chBraid (hawserBody 50) 3 = false ∧ chInFmt (hawserBody 50) 3 = 3 ∧
    ((hawsered 50 1 (chainOf true []) []).engineBytes 0x4000 240).map (·.2) = some false ∧
    (hawsered 20000000 1 (chainOf true (List.replicate 15 (0, false, []))) []).engineBytes (0x4000 + 240 * 15) 240 ≠ none ∧
    ((hawsered 50 1 (chainOf true []) []).setChain 3 { chainOf true [] with frame := 0 }).ownPos 3 = some 0 ∧
    (hawsered (48 * 10000) 1 { chainOf true [] with frame := 9000 } []).engineBytes (0x4000 + 240 * 9000) 240 = none ∧
    ends (exec (.operandRead 3) { hawsered 50 1 (chainOf true []) [] with mem := [(0x4000, 0x77)] }) (fun t =>
      (t.chain 3).operands.map (fun o => (o.1, o.2.1, o.2.2.head?)) == [(0, false, some 0x77)]) = true ∧
    ends (exec (.operandRead 3) (hawsered (48 * 10000) 1 { chainOf true [] with frame := 9000 } [])) (fun t => (t.chain 3).err) = true := by decide +kernel
theorem witness_frames : aget 0 (chainOf true [(0, false, ones48)]).operands = some (false, ones48) ∧
    1 + 1 < chNpos (hawserBody 50) 4 ∧ (frameOf true).via = none ∧
    ends (exec (.frameLaunch 3) (hawsered 50 1 (chainOf true [(0, false, ones48)]) [])) (fun t => (t.chain 3).frame == 1 && (t.link 5).txq.length == 1) = true ∧
    ends (exec (.hawserFrame 0) (hawsered 50 1 (chainOf true [(0, false, ones48)]) [frameOf false])) (fun t => t.hw.frames == [] &&
      (t.link 5).txq.map (fun f => f.payload.toNat % 2 ^ 40) == [0x4000000000]) = true ∧
    ends (exec (.hawserFrame 0) (hawsered 50 1 (chainOf true [(0, false, ones48)]) [frameOf true])) (fun t =>
      (t.link 5).txq.map (fun f => f.payload.toNat % 2 ^ 40) == [0x3FE0000000]) = true := by decide +kernel
/-- The last of two positions. -/
theorem witness_frames_last : let s := withSect secHawser (bodyOf 66000 [(256, 1), (258, 2), (262, 5), (264, 50), (268, 6), (65536, 7)]) (hawsered 50 1 (chainOf true [(0, false, ones48)]) [frameOf true])
    s.ownPos 4 = some 1 ∧ chNpos s.hawserPlan 4 ≤ 1 + 1 := by decide +kernel
/-- A plan in which this block stands last of two positions, with one frame of A40 cells and its result at 0x5000 in a region that it
may write, and is a braid over strand 3 whose result lies at 0x6000. -/
def lastPos (strandRuns : Nat) (frames : List HwFrame) : State :=
  let s := withSect secHawser (bodyOf 66000 [(208, 0x6000), (256, 3), (258, 2), (262, 5), (264, 48), (268, 6), (272, 0x5000), (65536, 7), (65556, 3)])
    (withSect secRegion (bodyOf 32 [(0, 1 + 16 * 2), (8, 0x5000), (16, 0x1000)]) (hawsered 50 1 (chainOf true [(0, false, ones48)]) frames))
  { s with hw := { s.hw with chains := [(3, { chainOf false [] with runs := BitVec.ofNat 32 strandRuns }), (4, chainOf true (if frames = [] then [] else [(0, false, ones48)]))] } }
theorem witness_frames_result : let s := lastPos 1 [frameOf false]
    s.ownPos 4 = some 1 ∧ chNpos s.hawserPlan 4 = 2 ∧ chResFmt s.hawserPlan 4 = 0 ∧ s.resultHeld 4 0 = false ∧ findRegion s.regions 0x5000 = some 0 ∧
    regWr s.regions 0 = true ∧ s.si.nodeId = 0 ∧ regNodeLo s.regions 0 = 0 ∧ 0x5000 + 5 * 48 ≤ regBase s.regions 0 + regLen s.regions 0 ∧
    regAttr s.regions 0 = 0 ∧ regEntryEn s.regions 0 = false ∧
    ends (exec (.hawserFrame 0) s) (fun t => t.engineWord 0x5000 == some 0x4000000000 && (t.chain 4).writes == [0] && (t.chain 4).runs == 0) = true := by
  decide +kernel
/-- A braid reads its strand's result once the strand has run. -/
theorem witness_braid : chBraid (lastPos 1 []).hawserPlan 4 = true ∧ elStrand (lastPos 1 []).hawserPlan 1 = 3 ∧
    ends (exec (.operandRead 4) { lastPos 1 [] with mem := [(0x6000, 0x77)] }) (fun t =>
      (t.chain 4).operands.map (fun o => (o.1, o.2.1, o.2.2.head?)) == [(0, false, some 0x77)]) = true ∧
    ends (exec (.operandRead 4) (lastPos 0 [])) (fun t => t == lastPos 0 []) = true := by decide +kernel
/-- The acknowledgement of the last result completes the run; a position whose start counter is not reached takes no frame. -/
theorem witness_frames_end : let s := lastPos 1 []
    let w := s.setChain 4 { chainOf true [] with frame := 1, writes := [0] }
    (w.chainWritten 4 0 0).ctr 6 = 1 ∧ ((w.chainWritten 4 0 0).chain 4).runs = 1 ∧
    ends (exec (.hawserFrame 0) { lastPos 1 [frameOf false] with dk := base.dk }) (fun t => t.hw.frames.length == 1) = true := by decide +kernel

/-- Link 5 with a changed port, between nodes 0 and 7. -/
def linked (k : Link) : State := let s := withSect secLink linkBody base; { s with lk := s.lk.set 5 k }
def upLink : Link := { Link.reset with lpUp := true, state := .up, slot := 1, lastT := [9] }
theorem witness_linkBringUp : Link.reset.lpUp = false ∧ base.enabled .link = true ∧ (linked upLink).linkRuns 5 = true ∧ (linked upLink).role 5 = 1 ∧
    linkPeer (linked upLink).linkPlan 5 = (7 : BitVec 15).toNat ∧ linkPeer (linked upLink).linkPlan 5 ≠ (8 : BitVec 15).toNat ∧
    (linked upLink).si.nodeId.toNat < 7 ∧
    ends (exec (.lpnUpRise 5) (linked Link.reset)) (fun t => (t.link 5).state == .bringUp) = true ∧
    ends (exec (.lpnUpFall 5) (linked upLink)) (fun t => (t.link 5).state == .retired && t.bw.attn.getLsbD 5) = true ∧
    ends (exec (.lpnUpFall 5) (linked { upLink with state := .bringUp })) (fun t => (t.link 5).state == .down) = true ∧
    ends (exec (.initReceive 5 7 1) (linked { upLink with state := .bringUp })) (fun t => (t.link 5).state == .up) = true ∧
    ends (exec (.markerReceive 5 1000 900 950 1003) (linked { upLink with state := .bringUp, initRx := true })) (fun t =>
      (t.link 5).rtt == 53 && (t.link 5).lastT.head? == some 27 && (t.link 5).state == .up) = true ∧
    ({ (linked upLink) with ck := { base.ck with source := .link 5 } } : State).ck.source ≠ .refLocal := by decide +kernel
/-- A data flit on VC0, and a hawser frame of chain 9 on VC2. -/
def txFlit : TxFlit := { head := BitVec.ofNat 64 (2 ^ 4 + 7 * 2 ^ 5 + 2 ^ 60), payload := 0x99 }
def hawserFlit : TxFlit := { head := BitVec.ofNat 64 (2 + 9 * 2 ^ 4 + 2 ^ 60), payload := 0x99 }
theorem witness_flitSlot : upLink.slStop = false ∧ upLink.slot ≠ 0 ∧ upLink.nakDue = false ∧ upLink.ctlq = [] ∧ upLink.replay = [] ∧
    upLink.owed = [0, 0, 0, 0, 0, 0, 0, 0, 0, 0] ∧ upLink.retry.length < 64 ∧ upLink.slState = smAwake upLink.machine ∧ flVc txFlit.head = 0 ∧
    0 < upLink.credit.getD (flRank txFlit.head) 0 ∧ upLink.replaySq = 0 ∧ upLink.replayN < 15 ∧
    ends (exec (.flitSlot 5 true 0) (linked { upLink with txq := [txFlit] })) (fun t => (t.link 5).retry.length == 1 && (t.link 5).credit.head? == some 31) = true ∧
    ends (exec (.nakReceive 5 4) (linked { upLink with retry := [(3, txFlit), (4, txFlit)] })) (fun t => (t.link 5).replay.map (·.1) == [4]) = true ∧
    ends (exec (.nakReceive 5 0) (linked { upLink with replayN := 15 })) (fun t => (t.link 5).state == .retired) = true := by decide +kernel
/-- A marker; a flit that the receiver is not ready for stays on the signals; a flit raises the counter it was given. -/
theorem witness_flitSlot_hold : (linked upLink).linkRuns 5 = true ∧ upLink.rx = [] ∧ upLink.hold = false ∧ upLink.state = .up ∧ 0 < upLink.credit.getD 9 0 ∧
    (let k := { upLink with slot := 0, lastTx := 5, lastRx := 6 }
     ends (exec (.flitSlot 5 true 9) (linked k)) (fun t => (t.link 5).slot == 1 && (t.link 5).retry.map (fun e => e.2.head.toNat / 2 ^ 60) == [3] &&
      (t.link 5).retry.map (fun e => e.2.payload.toNat) == [9 + 5 * 2 ^ 64 + 6 * 2 ^ 128])) = true ∧
    ends (exec (.flitSlot 5 false 0) (linked { upLink with txq := [txFlit] })) (fun t => (t.link 5).hold && (t.link 5).retry.length == 1) = true ∧
    ends (exec (.flitSlot 5 false 0) (linked { upLink with hold := true, nakDue := true })) (fun t => (t.link 5).nakDue && (t.link 5).hold) = true ∧
    ends (exec (.flitSlot 5 true 0) (linked { upLink with replay := [(3, txFlit)] })) (fun t => (t.link 5).replay == [] && (t.link 5).slot == 2) = true ∧
    ends (exec (.flitSlot 5 true 0) (linked { upLink with txq := [{ txFlit with note := some 8 }] })) (fun t => t.ctr 8 == 1) = true := by decide +kernel
/-- A READ of 64 bytes at 0x9000 from node 7 for this node. -/
def readFlit : BitVec 2048 := encodeFlit { head := BitVec.ofNat 64 (2 ^ 4 + 7 * 2 ^ 20 + 9 * 2 ^ 35 + 2 ^ 60), payload := BitVec.ofNat 1920 (2 + 64 * 2 ^ 32 + 0x9000 * 2 ^ 64) } 0 0
def fullDock : State := { linked upLink with dk := { base.dk with arriving := [{
  region := 0, entry := 0, cause := 0, kind := .read, via := .link 5, src := 7, tag := 1, notify := false, note := 0, len := 64
  addr := 0x9000, data := Blob.empty }] } }
set_option maxRecDepth 100000 in
theorem witness_flitReceive_dock : rxGood readFlit = true ∧ readFlit.toNat / 2 ^ 60 % 16 = 1 ∧ readFlit.toNat % 4 = 0 ∧ readFlit.getLsbD 4 = true ∧
    readFlit.toNat / 2 ^ 64 % 256 = 2 ∧ BitVec.ofNat 15 (readFlit.toNat / 2 ^ 5) = base.si.nodeId ∧
    fullDock.dockFull 5 = true ∧ (linked upLink).dockFull 5 = false ∧
    ends (exec (.flitReceive 5 true readFlit 0) fullDock) (fun t => (t.link 5).rx == [readFlit] && (t.link 5).owed == upLink.owed) = true ∧
    ends (exec (.flitReceive 5 true readFlit 0) (linked upLink)) (fun t => t.dk.arriving.map (fun a => (a.src, a.tag, a.len, a.addr, a.cause)) ==
      [(7, 9, 64, 0x9000, 5)] && (t.link 5).owed.head? == some 1) = true := by decide +kernel
def received (seq : Nat) : BitVec 2048 := encodeFlit hawserFlit (BitVec.ofNat 16 seq) 0
def idleFlit : BitVec 2048 := encodeFlit { head := ctlHead 0, payload := 0 } 0 0
set_option maxRecDepth 100000 in
theorem witness_flitReceive : rxGood (received 0) = true ∧ rxGood (received 0 ^^^ 1) = false ∧ rxGood idleFlit = true ∧ idleFlit.toNat / 2 ^ 60 % 16 = 0 ∧
    (received 0).toNat / 2 ^ 60 % 16 = 1 ∧ (received 0).toNat % 4 = 2 ∧ BitVec.ofNat 16 ((received 0).toNat / 2 ^ 2016) = upLink.rxSeq ∧
    rxGood (received 1) = true ∧ BitVec.ofNat 16 ((received 1).toNat / 2 ^ 2016) ≠ upLink.rxSeq ∧ smEntry upLink.machine upLink.slState 10 = 0 ∧
    ends (exec (.flitReceive 5 true (received 0) 0) (linked upLink)) (fun t => t.hw.frames.map (·.chain) == [9] && (t.link 5).rxSeq == 1) = true ∧
    ends (exec (.flitReceive 5 false (received 0) 0) (linked upLink)) (fun t => (t.link 5).nakDue && (t.link 5).crcFail == 1) = true ∧
    ends (exec (.flitReceive 5 true (received 1) 0) (linked upLink)) (fun t => (t.link 5).nakDue && (t.link 5).crcFail == 1) = true := by decide +kernel
/-- Sleep control at SEQ 0: AGREE while ASKED, WAKEACK while WAKING (state 3), and WAKE in SLACK. -/
def control (ty : Nat) : BitVec 2048 := encodeFlit { head := ctlHead ty, payload := 0 } 0 0
def asleep (st : BitVec 4) : State := linked { upLink with slState := st }
set_option maxRecDepth 100000 in
theorem witness_sleepFlits : rxGood (control 6) = true ∧ (control 6).toNat / 2 ^ 60 % 16 = 6 ∧
    BitVec.ofNat 4 (smEntry upLink.machine 1 3) ≠ smAwake upLink.machine ∧ smEntry upLink.machine 1 3 / 16 % 16 ≠ 4 ∧
    smEntry upLink.machine 3 4 = 0 ∧ upLink.wakes = 0 ∧
    ends (exec (.flitReceive 5 true (control 6) 0) (asleep 1)) (fun t => (t.link 5).slState == 2 && (t.link 5).slStop) = true ∧
    ends (exec (.flitReceive 5 true (control 9) 0) (asleep 3)) (fun t => (t.link 5).slState == 0 && !(t.link 5).slStop) = true ∧
    ends (exec (.flitReceive 5 true (control 8) 0) (asleep 2)) (fun t => (t.link 5).slState == 0 && (t.link 5).ctlq == [9]) = true := by
  decide +kernel
/-- The default machine in its first two states. -/
theorem witness_sleepMachine : smEnable upLink.machine = true ∧ (linked upLink).linkIdle 5 = true ∧ (linked { upLink with txq := [txFlit] }).linkIdle 5 = false ∧
    smEntry upLink.machine 0 0 ≠ 0 ∧ smEntry upLink.machine 0 3 = 0 ∧ BitVec.ofNat 4 (smEntry upLink.machine 0 0) ≠ smAwake upLink.machine ∧
    upLink.slTimer = 0 ∧ upLink.slState ≠ smSlack upLink.machine ∧ smSlack upLink.machine = 2 ∧
    smEnable (bodyOf 160 []) = false ∧
    ends (exec (.idle 5) (linked upLink)) (fun t => (t.link 5).slState == 1 && (t.link 5).ctlq == [5]) = true ∧
    ends (exec (.calDue 5) (linked { upLink with slState := 2 })) (fun t => (t.link 5).slState == 3 && (t.link 5).ctlq == [8]) = true := by decide +kernel

/-- A request of id 3 for each register that a statement writes meets nothing that turns it away. -/
theorem witness_hostOpen : ∀ p ∈ [(0, HReg.siEnable), (0, .siCommit), (0, .siHarbour), (32, .staging 8), (1, .bwStatus), (1, .bwAttn), (1, .bwOutctl),
    (1, .bwKeep), (1, .logctl), (1, .inject), (2, .ckCtl), (2, .ckGate), (3, .doorbell), (3, .tsave), (4, .maint), (4, .l2Atest), (16, .dbgCtl 0),
    (16, .dbgAtest 0), (16, .dbgG 0 3), (16, .dbgP 0), (16, .dbgPc 0), (16, .dbgCr 0 .epi)], base.HostOpen 3 p.1 p.2 := by
  unfold State.HostOpen State.HostFree; decide +kernel
/-- Id 3 has a request outstanding. -/
def busy : State := base.transferred 3 1
theorem witness_hostPort : ¬ busy.HostFree 3 ∧ base.HostFree 3 ∧ ((0x010004 : BitVec 24).toNat % 8 ≠ 0 ∨ (0xFF : Byte) ≠ 0xFF) ∧
    regAt 0x010050 ≠ none ∧ regAt 0x010800 = none ∧ regAt 0x010008 = some .bwAttn ∧ windowOf 0x010008 3 = 1 ∧ HReg.berthCore .bwAttn = none ∧
    (1 : Word) &&& HReg.bwAttn.reserved ≠ 0 ∧ base.windowDamaged 1 = false ∧ busy.rootRuns = true ∧
    (busy.answer 3 (.done 5)).host.outstanding.find? (fun x => x.id == 3) = some { id := 3, window := 1, reply := some (.done 5) } ∧
    busy.host.outstanding.find? (fun x => x.id == 3) = some { id := 3, window := 1, reply := none } ∧
    ends (exec (.hostReply 3) (busy.answer 3 (.done 5))) (fun t => t.host.outstanding == [] && t.host.rsp.rdata == 5 && t.host.rsp.id == 3) = true ∧
    ends (exec (.hostRequest 3 false 0x010010 0xFF 0) base) (fun t => t.host.outstanding.map (·.reply.isSome) == [true]) = true := by
  unfold State.HostFree; decide +kernel
/-- Writes of registers of kinds RW, W1C and R. -/
theorem witness_registerWrites : base.HostOpen 3 4 .l1ctl ∧ base.HostOpen 3 5 (.qyScrub 4) ∧ base.HostOpen 3 1 .logstat ∧ base.HostOpen 3 4 .tide ∧
    (0x20001 : Word) &&& HReg.l1ctl.reserved = 0 ∧ (16 : Word) &&& (HReg.qyScrub 4).reserved = 0 ∧
    ends (exec (.registerWrite 3 0x040000 0x20001) base) (fun t => t.regValue .l1ctl == 0x20001) = true ∧
    ends (exec (.registerWrite 3 0x040010 0) base) (fun t => t.l2 == base.l2) = true ∧
    (∃ a, regAt a = some (.qyScrub 4) ∧ windowOf a 3 = 5 ∧ a % 8 = 0 ∧
      ends (exec (.registerWrite 3 (BitVec.ofNat 24 a) (16 + 2 ^ 32)) base) (fun t => (t.engine 4).interval == 16) = true ∧
      ends (exec (.registerWrite 3 (BitVec.ofNat 24 a) 15) base) (fun t => t.host.outstanding.map (·.reply) == [some (.refused 0x0006)]) = true) := by
  refine ⟨?_, ?_, ?_, ?_, ?_, ?_, ?_, ?_, 0x054008, ?_, ?_, ?_, ?_, ?_⟩ <;> first | decide +kernel | (unfold State.HostOpen State.HostFree; decide +kernel)
def job (sect reason : Nat) : CommitJob :=
  { sect := sect, reason := reason, body := { body := bodyOf 48 [(0, 1)], isPartial := false, first := 0 }, nodeId := 9, serial := 77 }
def committing (j : CommitJob) (enable : BitVec 32) : State := base.mapSi fun i => { i with commit := some j, enable := enable }
theorem witness_commits : sectReserved 3 = false ∧ sectReserved 0xFF = true ∧ (committing (job secMap 0) 0).live = true ∧
    (job secMap 0).sect ≠ secManifest ∧ (8 : BitVec 24).toNat % 8 = 0 ∧
    ends (exec .commitDone (committing (job secMap 0) 0)) (fun t => (aget secMap t.si.pend).isSome && t.si.csState == 2) = true ∧
    ends (exec .commitDone (committing (job secManifest 0) 0)) (fun t => t.si.nodeId == 9 && t.si.serial == 77) = true ∧
    ends (exec .commitDone (committing (job secManifest 0) 1)) (fun t => t.si.csReason == 0x010A && t.si.nodeId == 0) = true ∧
    ends (exec .commitDone (committing (job secMap 0x0101) 0)) (fun t => t.si.csState == 3 && t.bw.attn.getLsbD 8) = true := by decide +kernel
/-- Some units enabled, all others not. -/
def units (e : BitVec 32) : State := base.mapSi fun i => { i with enable := e }
def asks (v : Word) (s : State) : List EnUnit := allUnits.filter fun u => bitAt v u.bit && (!s.enabled u || (!u.isCore && !(s.pendingOf u).isEmpty))
def drops (v : Word) (s : State) : List EnUnit := allUnits.filter fun u => !bitAt v u.bit && s.enabled u
def closing (s : State) : State := s.mapSi fun i => { i with harbour := .drain }
theorem witness_unitRequest : (units 0x201).HostOpen 3 0 .siEnable ∧ (0x203 : Word) &&& HReg.siEnable.reserved = 0 ∧
    asks 0x201 (units 0x201) = [] ∧ drops 0x201 (units 0x201) = [] ∧ 1 < (asks 0x207 (units 0x201)).length + (drops 0x207 (units 0x201)).length ∧
    asks 0x203 (units 0x201) = [.memory] ∧ drops 0x203 (units 0x201) = [] ∧ (units 0x201).si.commit = none ∧ (units 0x201).si.harbour.closing = false ∧
    (units 0x201).prereqs .memory = true ∧ asks 0x209 (units 0x201) = [.quay] ∧ (units 0x201).prereqs .quay = false ∧
    (closing (units 0x201)).si.harbour.closing = true ∧
    drops 0x201 (units 0x203) = [.memory] ∧ asks 0x201 (units 0x203) = [] ∧ drops 0x200 (units 0x201) = [.clock] ∧
    (units 0x203).hasDependent .memory = false ∧ (units 0x203).inFlight .memory = false ∧ (units 0x207).hasDependent .memory = true ∧
    drops 0x205 (units 0x207) = [.memory] ∧ ({ units 0x203 with ports := base.ports.set 0 [{ tag := 0, write := false, client := .dock, line := 0, len := false }] } : State).inFlight .memory = true := by
  unfold State.HostOpen State.HostFree; decide +kernel
theorem test_unitRequest : ends (exec (.unitRequest 3 0x203) (units 0x201)) (fun t => t.si.check == some (.memory, 3)) = true ∧
    ends (exec (.unitRelease 3 0x201) (units 0x203)) (fun t => !t.enabled .memory) = true := by decide +kernel
def checking (u : EnUnit) (e : BitVec 32) : State := (units e).mapSi fun i => { i with check := some (u, 3) }
theorem witness_checkDone : (checking .memory 0x201).live = true ∧ (checking .memory 0x201).si.check = some (.memory, 3) ∧
    (checking .memory 0x201).host.waiting = [] ∧ ((checking .memory 0x201).mapSi fun i => { i with check := none }).checkReason .memory = 0 ∧
    ({ checking .memory 0x201 with si := { (checking .memory 0x201).si with check := none, active := [] } } : State).checkReason .memory ≠ 0 ∧
    ends (exec .consistencyCheckDone (checking .memory 0x201)) (fun t => t.enabled .memory) = true := by decide +kernel

def testing : State := { base with testMode := true }
/-- A late bus fault that waits for the collector. -/
def waitingFault : QueuedFault := { ev := plainFault 0x12 0, time := 5, injected := false }
theorem witness_breakwater : (2 : Word) &&& HReg.bwAttn.reserved = 0 ∧ (0x1FFFFF : Word) &&& HReg.ckGate.reserved = 0 ∧
    (∀ i, i < 21 → base.gateCode 0x1FFFFF i = 0) ∧ base.gateCode 0x1FFFFE 0 = 2 ∧ (∀ j, j < 0 → base.gateCode 0x1FFFFE j = 0) ∧
    testing.HostOpen 3 1 .inject ∧ base.testMode = false ∧ (0x28 : Nat) < (0x29 : BitVec 6).toNat ∧ testing.bw.unacked = [] ∧ faultClass 0x19 = 1 ∧
    testing.bw.queue = [] ∧ ends (exec (.inject 3 0x19 2) { testing with bw := { testing.bw with queue := [waitingFault] } }) (fun t =>
      t.bw.queue == [waitingFault, { ev := plainFault 0x19 2, time := 0, injected := true }] && t.bw.pendU == 0) = true ∧
    ends (exec (.inject 3 0x19 2) testing) (fun t => t.bw.pendU.getLsbD 0x19) = true ∧
    ends (exec (.safeClear 3) { base with bw := { base.bw with safe := true } }) (fun t => !t.bw.safe) = true := by
  unfold State.HostOpen State.HostFree; decide +kernel
theorem witness_pilotWrites : (∀ c : CoreId, (0 : BitVec 16).getLsbD c.val = true → (base.tile c).queue ≠ []) ∧
    (∀ c : CoreId, (1 : BitVec 16).getLsbD c.val = true → ((owned (.tclrt 3)).tile c).queue ≠ []) ∧
    (base.tile 0).queue = [] ∧ (base.tile 0).drain = none ∧ (base.tile 0).save = none ∧ evValid plan 5 = true ∧ evValid plan 9 = false ∧
    ({ testing with si := { testing.si with enable := 0 } } : State).enabled .l2 = false ∧ base.testMode = false ∧ testing.testMode = true ∧
    base.meshRuns = true ∧ base.ck.supEpisode = false ∧ (base.core 0).saving = false ∧ base.pocketHeld 0 (base.tile 0).owner = false ∧
    testing.enabled (.core 0) = true ∧ (core0 fun k => { k with atestBusy := true }).live = true ∧
    ends (exec (.coreArrayTest 3 0) { testing with si := { testing.si with enable := 0 } }) (fun t => (t.core 0).atestBusy) = true ∧
    ends (exec (.arrayTestDone (some 0) true) (core0 fun k => { k with atestBusy := true })) (fun t => (t.core 0).atestFail && !(t.core 0).atestBusy) = true ∧
    ends (exec (.cleanAll 3) dirtyL2) (fun t => t.mem == [(0x1000, 0x99)] && t.l2.maintBusy) = true := by decide +kernel
/-- A clean line and a dirty one: the dirty one reaches memory, and both stay. -/
theorem witness_cleanAll : Memory.wf dirtyL2.mem = true ∧ Memory.wf dirtyL2.l2.scratch = true ∧ dirtyL2.l2.find 64 = some dirtyLine ∧ dirtyL2.l2.order = [64] ∧
    dirtyLine.dirty = true ∧ dirtyLine.poison = 0 ∧ dirtyL2.cleanAll.l2.find 64 = some { dirtyLine with dirty := false } := by decide +kernel
/-- Events are offered with the terms of their plan; a disabled core and a disabled L2 keep nothing through an array test. -/
theorem witness_offersAndTests :
    (((piloted id []).offerEvent 5 .latch).pl.offers == [offer 5]) = true ∧ (((piloted id []).offerEvent 9 .latch).pl.offers == []) = true ∧
    (let k := { base.core 0 with atestBusy := true, l1d := { L1.empty with lines := [{ line := 64, way := 0, data := 0x99 }] }, lineBuf := [⟨4, 1⟩] }
     let s := (units 0x201).setCore 0 k
     s.live = true ∧ s.enabled (.core 0) = false ∧ ends (exec (.arrayTestDone (some 0) false) s) (fun t =>
       (t.core 0).l1d == L1.empty && (t.core 0).lineBuf == [] && !(t.core 0).atestBusy && t.core 1 == s.core 1)) = true ∧
    (let s := { dirtyL2 with l2 := { dirtyL2.l2 with atestBusy := true }, si := (units 0x201).si }
     s.enabled .l2 = false ∧ ends (exec (.arrayTestDone none true) s) (fun t => t.l2.lines == [] && t.l2.atestFail && t.l2.tested) = true) := by decide +kernel
theorem witness_tileSave : (owned (.tclrt 3)).HostOpen 3 3 .tsave ∧ base.HostOpen 3 3 .tsave ∧ testing.HostOpen 3 16 (.dbgAtest 0) ∧
    testing.HostOpen 3 4 .l2Atest := by unfold State.HostOpen State.HostFree; decide +kernel
def haltedCore : State := core0 fun k => { k with halted := true, reason := 1 }
/-- The halted core with ADD g3, g1, g2 at its PC: STEP executes it. -/
def stepping : State := { haltedCore with mem := cellsPut [] 0x100 0x00061100 15 4 }
theorem witness_step : (stepping.core 0).halted = true ∧
    (let free := stepping.setCore 0 { stepping.core 0 with halted := false }
     free.takeWaiting 0 = free ∧ free.runner 0 = some 0 ∧ (free.fetchWord 0 0x100).2 = .word 0x00061100 ∧ (0x00061100 : BitVec 32).toNat / 2 ^ 22 % 64 ≠ 0x24 ∧
     ends (exec (.add x0 3 1 2) (free.fetchWord 0 0x100).1) (fun v => !(v.core 0).halted && (v.core 0).stalled == none && !v.headSent 0) = true) ∧
    ends (exec (.step 3 0) stepping) (fun t => (t.core 0).halted && (t.core 0).reason == 3 && (t.berth 0 0).reg 3 == 0x1008 && (t.berth 0 0).pc == 0x104) = true ∧
    (base.mapBerth 0 0 fun y => { y with customer := some 3 }).headSent 0 = true ∧
    ends (exec (.halt 3 0) (base.mapBerth 0 0 fun y => { y with customer := some 3 })) (fun t => !(t.core 0).halted && (t.core 0).haltDue == some 1) = true := by
  decide +kernel
theorem witness_debugger : haltedCore.HostOpen 3 16 (.dbgG 0 3) ∧ haltedCore.HostOpen 3 16 (.dbgCr 0 .epi) ∧ base.HostOpen 3 16 (.dbgG 0 3) ∧
    regAt (dbgAddr 0 0x118) = some (.dbgG 0 3) ∧ HReg.berthCore (.dbgG 0 3) = some 0 ∧ base.windowDamaged 16 = false ∧
    (9 : Word) &&& (HReg.dbgG 0 3).reserved = 0 ∧ (haltedCore.core 0).halted = true ∧ (base.core 0).halted = false ∧
    base.ck.gates.getLsbD 20 = true ∧ bitsNat 0x100118 62 24 = 0 ∧ regAt 0x100118 = some (.dbgG 0 3) ∧ haltedCore.locked (windowOf 0x100118 0) = false ∧
    haltedCore.berthClosed (.dbgG 0 3) = false ∧ bitsNat 0x1000000 62 24 ≠ 0 ∧ (0x100118 : Word).getLsbD 63 = false ∧
    ends (exec (.halt 3 0) base) (fun t => (t.core 0).halted && (t.core 0).reason == 1) = true ∧
    ends (exec (.berthRegisterAccess 3 0 true 0x118 9) haltedCore) (fun t => (t.berth 0 0).reg 3 == 9) = true ∧
    ends (exec (.berthRegisterAccess 3 0 true 0x118 9) base) (fun t => (t.berth 0 0).reg 3 == 0x2001) = true ∧
    ends (exec (.debugRequest 0x100118 0) haltedCore) (fun t => t.dbg.beats != []) = true ∧
    ends (exec .traceSend { base with dbg := { base.dbg with trace := [5, 6] } }) (fun t => t.dbg.sent == 5 && t.dbg.trace == [6]) = true := by
  unfold State.HostOpen State.HostFree; decide +kernel

def atState (h : Harbour) (f : Si → Si) : State := base.mapSi fun i => f { i with harbour := h }
theorem witness_harbour : (5 : BitVec 10) ≠ 0 ∧ (5 : BitVec 10).toNat ≤ 1000 ∧ 1000 < (1001 : BitVec 10).toNat ∧
    (∀ c, ((atState .closed id).core c).stuck = false) ∧ (atState .notice id).live = true ∧
    (atState .notice id).openCores ≠ [] ∧ (atState .notice id).time.toNat - (atState .notice id).si.goTime.toNat < 1000 * (atState .notice id).si.notice.toNat ∧
    (atState .notice fun i => { i with enable := 0x3FF }).openCores = [] ∧
    (atState .drain id).dockOpen = false ∧ (atState .drain id).quayOpen = false ∧ (atState .drain id).hawserOpen = false ∧ (atState .drain id).tilesOpen = false ∧
    (∀ c, ((atState .drain id).tile c).owner = none) ∧ (∀ c, ((atState .swept id).core c).saving = false) ∧
    (onCore (fun k => { k with sent := [{ kind := .pocket, berth := 0, addr := 0x1000, err := false, port := true }] }) (atState .swept id)).core 0 ≠ (atState .swept id).core 0 ∧
    ends (exec .harbourClosed (onCore (fun k => { k with sent := [{ kind := .pocket, berth := 0, addr := 0x1000, err := false, port := true }] }) (atState .swept id))) (fun t => t.si.harbour == .swept) = true ∧
    ends (exec (.harbourGo 3 5) base) (fun t => t.si.harbour == .notice && t.si.notice == 5) = true ∧
    ends (exec (.harbourReopen 3 5) (atState .closed id)) (fun t => t.si.harbour == .open) = true ∧
    ends (exec .noticeEnd (atState .notice fun i => { i with enable := 0x3FF })) (fun t => t.si.harbour == .drain) = true ∧
    ends (exec .drainEnd (atState .drain id)) (fun t => t.si.harbour == .swept) = true ∧
    ends (exec .harbourClosed (atState .swept id)) (fun t => t.si.harbour == .closed && t.bw.attn.getLsbD 9) = true := by decide +kernel
/-- A queue descriptor of the cut is still in progress at the end of the drain limit. -/
theorem witness_drain_open : let s := { docked { queue 3 2 3 0 with started := [startedOf 0 none] } id with si :=
        { (atState .drain fun i => { i with cut := { Cut.empty with descs := [(3, 2)] } }).si with active := aput secQueue queuePlan base.si.active } }
    s.dockOpen = true ∧ s.time.toNat - s.si.stopTime.toNat < 0x100000 ∧
      ends (exec .drainEnd { s with time := 0x200000 }) (fun t => t.si.incomplete.getLsbD 1) = true := by decide +kernel
def unlocked : State := { base with rootLocked := false }
theorem witness_resets : base.porst = false ∧ base.supHold = false ∧ State.reset.porst = true ∧ unlocked.ck.localUp = true ∧ unlocked.supWarn = false ∧
    ({ unlocked with supWarn := true } : State).supWarn = true ∧ true ≠ base.testMode ∧
    ends (exec .wrstNAssert dirtyL2) (fun t => t.l2.lines == [] && t.si.enable == 0x201 && t.rootLocked) = true ∧
    ends (exec .porstNAssert base) (fun t => t.porst && !t.rootLocked && t.si.enable == 0) = true ∧
    ends (exec .rootLock unlocked) (fun t => t.rootLocked) = true ∧
    ends (exec (.testModeChange true) base) (fun t => t.testMode && t.bw != base.bw) = true := by decide +kernel
/-- A CLOCK_PLAN whose candidates are links 5 and 6 (REF_MODE LOCAL where asked), a source, and the references that are present. -/
def clocked (loc : Nat) (source : RefSource) (present : BitVec 48) (up : Bool) : State :=
  let s := withSect secClock (bodyOf 40 (((List.range 16).map fun i => (i, 3)) ++ [(24, loc), (25, 5), (26, 6), (27, 63), (28, 63), (32, 100), (34, 200)])) base
  { s with ck := { s.ck with source := source, present := present, localUp := up } }
/-- WRST_N runs a core on the divider of the plan, and a warning that is high starts an episode at WRST_N and at the lock. -/
theorem witness_resets_clock : let s := { clocked 0 .refLocal 0 true with supWarn := true }
    s.porst = false ∧ s.supHold = false ∧ coreDiv s.clockPlan 0 = 3 ∧
    ends (exec .wrstNAssert (s.mapCk fun k => { k with throttle := 6, divs := Vector.replicate 16 6 })) (fun t =>
      t.ck.supEpisode && t.ck.divs[(0 : CoreId)] == 3 && t.ck.throttle == State.reset.ck.throttle) = true ∧
    ends (exec .rootLock { s with rootLocked := false }) (fun t => t.rootLocked && t.ck.supEpisode) = true := by decide +kernel
theorem witness_references : (clocked 0 (.link 5) 0x60 true).rootRuns = true ∧
    ((clocked 0 (.link 5) 0x60 true).mapCk fun k => { k with present := setBit k.present 5 false, bad := setBit k.bad 5 true }).altRef = some 6 ∧
    ((clocked 0 (.link 5) 0x20 true).mapCk fun k => { k with present := setBit k.present 5 false, bad := setBit k.bad 5 true }).altRef = none ∧
    ((clocked 0 (.link 5) 0x20 false).mapCk fun k => { k with present := setBit k.present 5 false, bad := setBit k.bad 5 true }).altRef = none ∧
    (clocked 0 .holdover 0 false).ck.bad.getLsbD 6 = false ∧ (candidates (clocked 0 .holdover 0 false).clockPlan).contains 6 = true ∧
    refLocalMode (clocked 1 (.link 5) 0x20 true).clockPlan = true ∧ (clocked 0 .refLocal 0x60 true).clusterMode = true ∧
    (clocked 1 .refLocal 0x60 true).clusterMode = false ∧
    ((clocked 0 .refLocal 0 true).mapCk fun k => { k with present := 0x60 }).altRef = some 5 ∧ (clocked 0 .refLocal 0 true).altRef = none ∧
    ends (exec (.referenceLoss 0x60) (clocked 0 (.link 5) 0x60 true)) (fun t => t.ck.source == .link 6 && t.bw.attn.getLsbD 0xA) = true ∧
    ends (exec (.referenceLoss 0x20) (clocked 0 (.link 5) 0x20 true)) (fun t => t.ck.source == .refLocal && t.bw.attn.getLsbD 0xB) = true ∧
    ends (exec .lossOfEverySource base) (fun t => t.ck.stopped) = true ∧
    ends (exec (.referenceJoin 0x60) (clocked 0 .refLocal 0 true)) (fun t => t.ck.source == .link 5) = true := by decide +kernel
/-- REF_LOCAL lost and present again; a source that returns in holdover; the REF_LOCAL mode. -/
theorem witness_refLocal : (clocked 0 (.link 5) 0x60 true).ck.source ≠ .refLocal ∧ (clocked 0 .refLocal 0x60 true).ck.source = .refLocal ∧
    (clocked 0 .refLocal 0x60 true).ck.localUp = true ∧
    ends (exec .refLocalAbsent (clocked 0 (.link 5) 0x60 true)) (fun t => t.ck.source == .link 5 && t.ck.aonTime && t.bw.pendU != base.bw.pendU) = true ∧
    ends (exec .refLocalAbsent (clocked 0 .refLocal 0x60 true)) (fun t => t.ck.source == .link 5 && !t.ck.localUp) = true ∧
    ends (exec .refLocalAbsent (clocked 0 .refLocal 0 true)) (fun t => t.ck.source == .holdover && t.ck.stopped) = true ∧
    ends (exec .refLocalPresent (clocked 0 .holdover 0 false)) (fun t => t.ck.source == .refLocal && t.ck.timeStep) = true ∧
    ends (exec (.sourceReturn (some 6)) (clocked 0 .holdover 0 false)) (fun t => t.ck.source == .link 6) = true ∧
    ends (exec .refLocalPresent (clocked 1 (.link 5) 0x20 false)) (fun t => t.ck.source == .refLocal && t.ck.localUp) = true := by decide +kernel
/-- The seven cases of the drift monitor with WARN_PPM 100, in tenths of a ppm. -/
theorem witness_drift : driftCase 1000 none (some 5) = 1 ∧ driftCase 1000 none (some 1001) = 2 ∧ driftCase 1000 (some 1000) (some (-1000)) = 3 ∧
    driftCase 1000 (some 0) (some 1001) = 4 ∧ driftCase 1000 (some 1500) (some 1600) = 5 ∧ driftCase 1000 (some 1500) (some 0) = 6 ∧
    driftCase 1000 (some 1500) (some (-1500)) = 7 ∧ 10 * warnPpm (clocked 0 (.link 5) 0x60 true).clockPlan = 1000 ∧
    (clocked 0 (.link 5) 0x60 true).altRef = some 6 ∧
    ends (exec (.driftWindowEnd (some 1500) (some 0)) (clocked 0 (.link 5) 0x60 true)) (fun t => t.ck.bad.getLsbD 6 && t.bw.attn.getLsbD 0xA) = true := by
  decide +kernel
/-- A THROTTLE_TABLE of two entries: from 400 divider 4, from 600 divider 6; the throttle stands at 6. -/
def throttled : State := let s := withSect secThrottle (bodyOf 72 [(0, 2), (1, 10), (8, 400), (10, 4), (12, 600), (14, 6)]) base
  s.mapCk fun k => { k with throttle := 6, below := 3 }
theorem witness_throttle : throttled.rootRuns = true ∧
    (let p := throttled.sect secThrottle
     ((List.range (thEntries p)).filter fun i => thThresh p i ≤ 500).foldl (fun d i => max d (thDiv p i)) 3 = 4 ∧
      ((List.range (thEntries p)).find? fun i => thDiv p i == 6) = some 1 ∧ thThresh p 1 = 600 ∧ 500 + thHyst p < 600 ∧ 600 ≤ 595 + thHyst p ∧
      ((List.range (thEntries p)).filter fun i => thThresh p i ≤ 595).foldl (fun d i => max d (thDiv p i)) 3 = 4) ∧
    ends (exec (.throttleEvaluation 500) throttled) (fun t => t.ck.throttle == 4) = true ∧
    ends (exec (.throttleEvaluation 595) throttled) (fun t => t.ck.throttle == 6 && t.ck.below == 0) = true ∧
    ends (exec .dividerChangeSequence throttled) (fun t => t.ck.divs[(0 : CoreId)] == 6) = true ∧
    base.ck.supEpisode = false ∧ (base.mapCk fun k => { k with supEpisode := true }).ck.supEpisode = true := by decide +kernel
/-- A supply warning cleans the L2, and a slice's write in the episode goes through to memory and leaves the line clean. -/
theorem witness_supply : (dirtyL2.live = true ∧ ends (exec .supWarnRise dirtyL2) (fun t => t.mem == [(0x1000, 0x99)] && t.ck.supEpisode &&
      t.bw.attn.getLsbD 0xC && (t.l2.find 64).map (·.dirty) == some false) = true) ∧
    (let s := ({ heldLine base with rootLocked := true } : State).mapCk fun k => { k with supEpisode := true }
     s.ck.supEpisode = true ∧ s.scratchLine 64 = false ∧ (s.l2.find 64).isSome = true ∧
     (s.sliceWrite 64 0x55 1 none).mem = [(0x1000, 0x55)] ∧ ((s.sliceWrite 64 0x55 1 none).l2.find 64).map (fun x => (x.data, x.dirty)) = some (0x55, false)) ∧
    ends (exec .supplyEpisodeEnd (base.mapCk fun k => { k with supEpisode := true, supCount := true })) (fun t => !t.ck.supEpisode) = true := by
  decide +kernel
def stopping (n : Nat) : State := base.mapBw fun w => { w with discCnt := BitVec.ofNat 21 n }
theorem witness_stopInputs : base.rootRuns = true ∧ base.discLimit = 500000 ∧ base.discLimit < 2 ^ 21 ∧ (stopping 499999).bw.discCnt.toNat + 1 = base.discLimit ∧
    (stopping 5).bw.discCnt.toNat + 1 ≠ base.discLimit ∧ (stopping 499990).bw.discCnt.toNat < base.discLimit ∧
    base.discLimit ≤ (stopping 499990).bw.discCnt.toNat + 20 ∧ base.bw.startupOk = false ∧
    (base.mapBw fun w => { w with startupOk := true }).bw.startupOk = true ∧ base.ck.stopped = false ∧ base.enabled (.core 0) = true ∧
    ends (exec (.stopDemandChange true false 8) base) (fun t => t.bw.stopA && t.bw.stopB && t.bw.safe) = true ∧
    ends (exec (.stopDemandChange true false 7) base) (fun t => !t.bw.stopA && !t.bw.stopB) = true ∧
    ends (exec (.stopDemandChange true true 20) (stopping 499990)) (fun t => t.bw.stopFault) = true := by decide +kernel
/-- A SAFETY_PLAN with STEST 1 and KEEP 1, and a TIME; a period that began at 25000. -/
def safetyAt (time : Nat) (f : Breakwater → Breakwater) : State :=
  let s := withSect secSafety (bodyOf 64 [(0, 1), (1, 1), (2, 1), (4, 0x100)]) base
  { s with time := BitVec.ofNat 64 time, bw := f s.bw }
theorem witness_selfTests : (safetyAt 50000 id).enabled .safety = true ∧ (safetyAt 50000 id).time.toNat % (25000 * planStest ((safetyAt 50000 id).sect secSafety)) = 0 ∧
    (safetyAt 50001 id).time.toNat % (25000 * planStest ((safetyAt 50001 id).sect secSafety)) ≠ 0 ∧ (safetyAt 50000 id).bw.periodAt = none ∧
    (let due (t : Nat) := (safetyAt t fun w => { w with periodAt := some 25000 }).testsDue
     ((due 26563).tile 1).katDue = true ∧ ((due 26562).tile 1).katDue = false ∧ ((due 26564).tile 1).katDue = false ∧ ((due 25000).tile 0).katDue = true ∧
     ((due 25782).engine 0).test = true ∧ ((due 25781).engine 0).test = false) ∧
    ends (exec (.selfTestPeriodStart true) (safetyAt 50000 id)) (fun t => t.bw.periodAt == some 50000 && (t.tile 0).katDue) = true ∧
    ends (exec (.selfTestPeriodStart false) (safetyAt 50000 id)) (fun t => t.bw.pendF.getLsbD 4 || t.bw.pendU.getLsbD 4) = true ∧
    (let s := tileC fun t => { t with katDue := true }
     s.tileRuns 0 = true ∧ (s.tile 0).katDue = true ∧ (s.tile 0).arrayBusy = false ∧
     (tileC fun t => { t with katDue := true, queue := [{ entry (.tmma 1 2 3 1 true 0 []) with started := true }] }).core 0 ≠ s.core 0 ∧
     ((tileC fun t => { t with queue := [{ entry (.tmma 1 2 3 1 true 0 []) with started := true }] }).tile 0).arrayBusy = true ∧
     ends (exec (.tileKnownAnswerTest 0 false) s) (fun t => !(t.tile 0).katDue && t.bw.queue == [] && t.bw.unacked.map (·.src) == [0x0F]) = true) := by decide +kernel
/-- The keepalive's window of 20,000 ticks, with an output released. -/
theorem witness_keepalive :
    (let s := safetyAt 30000 fun w => { w with startupOk := true, safe := false, release := 0x100, armed := 0x100, keepAt := 10000 }
     s.anyReleased = true ∧ (planKeep (s.sect secSafety) + 1) * 10000 = 20000 ∧
      ends (exec .keepaliveExpiry s) (fun t => t.bw.keepExp) = true ∧ ends (exec .keepaliveExpiry { s with time := 29999 }) (fun t => !t.bw.keepExp) = true) ∧
    base.anyReleased = false ∧ base.bw.startupFailed = false ∧
    ends (exec (.startupSelfTest false) base) (fun t => t.bw.startupFailed) = true ∧
    ends (exec (.startupSelfTest true) (base.mapBw fun w => { w with startupFailed := true })) (fun t => !t.bw.startupOk) = true := by decide +kernel
def event (src : BitVec 6) : FaultEvent := { src := src, inst := 2, access := 0, master := 0, addr := 0, covered := false }
def unackedOf (src : BitVec 6) (cls : BitVec 2) : Unacked := { src := src, inst := 2, cls := cls }
def queued (src : BitVec 6) : QueuedFault := { ev := event src, time := 0, injected := false }
theorem witness_faults : base.bw.queue = [] ∧ (base.mapBw fun w => { w with queue := [queued 0x19] }).bw.queue = [queued 0x19] ∧
    (event 0x06).src = 0x06 ∧ (event 0x19).src.toNat < (event 0x1A).src.toNat ∧ (event 0x19).src.toNat < 41 ∧ base.bw.caps[(1 : Fin 3)].valid = false ∧
    (base.mapBw fun w => { w with unacked := [unackedOf 0x19 1] }).bw.unacked = [] ++ unackedOf 0x19 1 :: [] ∧ (unackedOf 0x19 1).cls ≠ 2 ∧
    ends (exec (.faultRecord [event 0x19]) base) (fun t => t.bw.pendU.getLsbD 0x19 && t.bw.unacked == [unackedOf 0x19 1]) = true ∧
    ends (exec (.faultRecord [event 0x19]) (base.mapBw fun w => { w with unacked := [unackedOf 0x19 1] })) (fun t =>
      t.bw.pendF.getLsbD 0x19 && t.bw.safe && t.bw.fStop) = true ∧
    ends (exec (.faultAcknowledge 0x19 2) (base.mapBw fun w => { w with unacked := [unackedOf 0x19 1] })) (fun t => t.bw.unacked == []) = true := by
  decide +kernel
/-- A full queue loses a fault: LOSTQ counts it and its pending bit shows it. -/
theorem witness_lostFault : let s := base.mapBw fun w => { w with queue := List.replicate 256 (queued 0x19) }
    256 ≤ s.bw.queue.length ∧ s.bw.unacked = [] ∧ (s.queueFault (queued 0x1A)).bw.lostq = 1 ∧
      (s.queueFault (queued 0x1A)).bw.queue.length = 256 ∧ ((s.queueFault (queued 0x1A)).bw.pendOf (faultClass 0x1A)).getLsbD 0x1A = true ∧
      ends (exec (.faultRecord [event 0x06, event 0x07]) base) (fun t => t.bw.queue.map (·.ev.src) == [0x07] && t.bw.pendF.getLsbD 6) = true := by decide +kernel
/-- The log ring at 0x4000, 64 slots, with one entry to write. -/
def logging (page put : Nat) : State := base.mapBw fun w => { w with
  logEn := true, ringBase := BitVec.ofNat 36 page, logPut := BitVec.ofNat 64 put
  logBuf := [{ time := 7, event := false, code := 0x19, cls := 1, esc := false, ev := event 0x19 }] }
theorem witness_log_offer : (logging 4 3).bw.logEn = true ∧
    (let s := withSect secPilot (bodyOf 65536 [(4208, 1), (4209, 9), (4210, 1)]) (logging 4 3)
     ends (exec .logRecordWrite s) (fun t => t.bw.logSeq == s.bw.logSeq + 1 && t.pl.offers.map (fun o => (o.id, o.core)) == [(7, 0)]) = true) := by
  decide +kernel
theorem witness_log : (logging 4 3).rootRuns = true ∧ ((logging 4 3).bw.logPut + 1 - (logging 4 3).bw.logTake).toNat ≤ 64 ∧
    64 < ((logging 4 64).bw.logPut + 1 - (logging 4 64).bw.logTake).toNat ∧ (logging 4 3).mappedAll (0x4000 + 64 + 32 * 3) 32 = true ∧
    (logging 4 3).rangeHeld 0x40A0 32 = false ∧ (logging 4 3).lineHeld 0x100 = false ∧ (logging 4 3).mapped 0x4000 = true ∧ (logging 0x400 3).mapped 0x400000 = false ∧ (logging 4 3).engineWord 0x4008 = some 0 ∧
    ends (exec .logRecordWrite (logging 4 3)) (fun t => t.engineWord 0x4000 == some 4 && t.engineWord (0x4000 + 64 + 96) == some 7 && t.bw.logBuf == []) = true ∧
    ends (exec .logRecordWrite (logging 0x400 3)) (fun t => t.bw.logErr && !t.bw.logEn) = true := by decide +kernel
theorem witness_idleTick : base.pending = [] ∧ base.rootRuns = true ∧ State.reset.rootRuns = false ∧
    (∀ c, (base.core c).stalled = none ∧ (base.core c).haltDue = none) ∧ (∀ n, (base.link n).rx = []) ∧ base.ck.reselect = false ∧
    base.bw.periodAt = none ∧ base.enabled (.core 0) = true ∧ base.ck.stopped = false ∧ base.ck.divs[(0 : CoreId)] ≠ 0 ∧
    ends (step { base with pins := { base.pins with hpRsp := true } }) (fun t => !t.pins.hpRsp && t.bw.keepAt == 1) = true ∧
    ends (step base) (fun t => t.time == 1 && (t.core 0).cyc == 32) = true ∧
    ends (step { base with pending := [.wait x0, .brk x0] }) (fun t => t.pending == [.brk x0]) = true := by decide +kernel
theorem witness_registers : base.runner x0.core = some 0 ∧ (5 : Reg) ≠ 0 ∧ (base.core x0.core).stalled = none ∧ (base.berth x0.core 0).midway = false ∧
    ends (exec (.pnot x0 0 3) base) (fun t => t == (base.issued x0 0).raise 0 0 1 0) = true ∧
    ends (exec .porstNAssert base) (fun t => (t.berth 0 0).reg 3 == 0) = true ∧
    ends (exec .wrstNAssert base) (fun t => (t.berth 0 0).reg 3 == 0) = true := by decide +kernel
/-- The memory of the reset state is in canonical form, and one that lists a zero is not. -/
theorem witness_memOk : Memory.wf State.reset.mem = true ∧ Memory.wf State.reset.l2.scratch = true ∧ Memory.wf [(5, 0)] = false ∧
    Memory.wf [(5, 1), (5, 2)] = false ∧ Memory.wf [(5, 1), (9, 2)] = true := by decide +kernel
theorem witness_encode : (Instr.addi x0 3 4 0xFF8).issue = some x0 ∧ encodeGregon (.addi x0 3 4 0xFF8) = some 0x00464FF8 ∧
    (Instr.wait x0).issue = some x0 := by decide +kernel

-- Well-formedness: for each check a command that it refuses ----------------------------------------------------------------

theorem wf_staging : (Instr.stagingWrite 3 8 0).wf = true ∧ (Instr.stagingWrite 3 4 0).wf = false ∧ (Instr.stagingWrite 3 0x800000 0).wf = false := by
  decide +kernel
theorem wf_registers : (Instr.registerWrite 3 0x10008 0).wf = true ∧ (Instr.registerWrite 3 0x1000C 0).wf = false ∧
    (Instr.readClear 3 0x10001).wf = false ∧ (Instr.berthRegisterAccess 3 0 true 0x104 0).wf = false := by decide +kernel
theorem wf_stopDemand : (Instr.stopDemandChange true true 0).wf = false ∧ (Instr.stopDemandChange true true 1).wf = true := by decide +kernel
theorem wf_memoryRequest : (Instr.memoryRequest 0 true .slice 4 true 0 0 (2 ^ 64)).wf = true ∧ (Instr.memoryRequest 0 true .slice 5 true 0 0 1).wf = false ∧
    (Instr.memoryRequest 0 true .dock 4 true 0 0 1).wf = false ∧
    (Instr.memoryRequest 0 true .dock 4 false 0 0 (BitVec.ofNat 128 (2 ^ 64))).wf = false := by decide +kernel
theorem wf_faults : (Instr.faultRecord [event 0x28]).wf = true ∧ (Instr.faultRecord [event 0x28, event 0x29]).wf = false ∧
    (Instr.faultAcknowledge 0x29 0).wf = false := by decide +kernel

-- Decoding: a word of each kind of format, written out from Tables 1 to 3 of "Gregon: registers and instructions" and Table 2
-- of "Tile unit" ------------------------------------------------------------------------------------------------------------

theorem test_decode_formats :
    decodeGregon 0 0x014A61C0 0 = some (.slli x0 5 6 7) ∧ decodeGregon 0 0x02422182 0 = some (.rem x0 1 2 3) ∧
    decodeGregon 0 0x0290C800 0 = some (.cmp x0 2 3 4 .eq) ∧ decodeGregon 0 0x05FFFFFF 0 = none ∧
    decodeGregon 0 0x0A10C848 0 = some (.tld x0 2 3 4 9 0) ∧ decodeGregon 0 0x0A50C848 0 = some (.tst x0 2 3 4 9) := by decide +kernel
theorem test_decode_none : decodeTableWord 32 0x20464FF8 = none := by decide +kernel


end Sys2Proof.Tests
end

-- The host port's requests and replies -----------------------------------------------------------------------------------

section
/-! PROOF. O42: what a request of the host meets, what the registers read as and what their writes change, and how a reply leaves. -/

namespace Sys2Proof.Machine

-- Commands -----------------------------------------------------------------------------------------------------------------

theorem exec_hostRequest_eq (id : HostId) (write : Bool) (a : BitVec 24) (be : BitVec 8) (v : Word) (s : State) :
    exec (.hostRequest id write a be v) s = .next (s.hostAccess id write a.toNat be v) := rfl

theorem exec_registerWrite_eq (id : HostId) (a : BitVec 24) (v : Word) (s : State) :
    exec (.registerWrite id a v) s = .next (s.hostAccess id true a.toNat 0xFF v) := rfl

theorem exec_readClear_eq (id : HostId) (a : BitVec 24) (s : State) :
    exec (.readClear id a) s = .next (s.hostAccess id false a.toNat 0xFF 0) := rfl

theorem exec_hostReply_eq (id : HostId) (s : State) : exec (.hostReply id) s = execHostReply id s := rfl

-- A state that differs in the host port only ---------------------------------------------------------------------------------

@[simp] theorem State.transferred_locked (s : State) (id : HostId) (w x : Nat) : (s.transferred id w).locked x = s.locked x := rfl
@[simp] theorem State.transferred_occupied (s : State) (id : HostId) (w x : Nat) (r : HReg) :
    (s.transferred id w).occupied x r = s.occupied x r := rfl
@[simp] theorem State.transferred_windowDamaged (s : State) (id : HostId) (w x : Nat) :
    (s.transferred id w).windowDamaged x = s.windowDamaged x := rfl

/-- No register shows the requests that are outstanding. -/
@[simp] theorem State.transferred_regValue (s : State) (id : HostId) (w : Nat) (r : HReg) :
    (s.transferred id w).regValue r = s.regValue r := by
  cases r <;> rfl

-- Transfer (R29, R30, R33) -----------------------------------------------------------------------------------------------------

theorem State.hostAccess_of_not_free {s : State} {id : HostId} (h : ¬ s.HostFree id) (write : Bool) (a : Nat) (be : BitVec 8)
    (v : Word) : s.hostAccess id write a be v = s := by
  have hstop : (!s.rootRuns || s.host.outstanding.any (·.id == id)) = true := by
    cases hr : s.rootRuns <;> simp_all [State.HostFree]
  exact if_pos hstop

theorem State.hostAccess_of_free {s : State} {id : HostId} (h : s.HostFree id) (write : Bool) (a : Nat) (be : BitVec 8)
    (v : Word) : s.hostAccess id write a be v =
      if a % 8 ≠ 0 ∨ be ≠ 0xFF then (s.transferred id (windowOf a id)).answer id .width
      else if windowOf a id = 0 ∧ s.si.check.isSome then
        { s.transferred id (windowOf a id) with host := { (s.transferred id (windowOf a id)).host with
            waiting := s.host.waiting ++ [{ id := id, write := write, addr := BitVec.ofNat 24 a, wdata := v }] } }
      else (s.transferred id (windowOf a id)).hostServe id write a v := by
  obtain ⟨hroot, hid⟩ := h
  have hgo : (!s.rootRuns || s.host.outstanding.any (·.id == id)) = false := by rw [hroot, hid]; rfl
  unfold State.hostAccess
  rw [hgo]
  rfl

theorem State.hostAccess_width {s : State} {id : HostId} {a : Nat} {be : BitVec 8} (h : s.HostFree id)
    (hbad : a % 8 ≠ 0 ∨ be ≠ 0xFF) (write : Bool) (v : Word) :
    s.hostAccess id write a be v = (s.transferred id (windowOf a id)).answer id .width := by
  rw [State.hostAccess_of_free h, if_pos hbad]

/-- A whole aligned register that no check occupies is accessed at once, and the request gets the access's reply. -/
theorem State.hostAccess_of_access {s t : State} {id : HostId} {write : Bool} {a : Nat} {v : Word} {rep : Reply}
    (h : s.HostFree id) (ha : a % 8 = 0) (hcheck : windowOf a id = 0 → s.si.check = none)
    (hacc : (s.transferred id (windowOf a id)).access id write a v = (t, some rep)) :
    s.hostAccess id write a 0xFF v = t.answer id rep := by
  have hwide : ¬ (a % 8 ≠ 0 ∨ (0xFF : BitVec 8) ≠ 0xFF) := by simp [ha]
  have hfree : ¬ (windowOf a id = 0 ∧ s.si.check.isSome = true) := by
    rintro ⟨hw, hs⟩
    simp [hcheck hw] at hs
  rw [State.hostAccess_of_free h, if_neg hwide, if_neg hfree]
  simp [State.hostServe, hacc]

-- One access (R9, R11, R30, R45) -----------------------------------------------------------------------------------------------

theorem State.access_noaddr {a : Nat} (h : regAt a = none) (s : State) (id : HostId) (write : Bool) (v : Word) :
    s.access id write a v = (s, some .noaddr) := by
  simp [State.access, h, turnAway]

theorem State.berthClosed_of_berthCore_none {r : HReg} (h : r.berthCore = none) (s : State) : s.berthClosed r = false := by
  simp [State.berthClosed, h]

section
variable {s : State} {id : HostId} {a : Nat} {r : HReg}

theorem State.access_reserved (hr : regAt a = some r) (hl : s.locked (windowOf a id) = false)
    (ho : s.occupied (windowOf a id) r = false) (hb : r.berthCore = none) (hi : r ≠ .inject) {v : Word} (hv : v &&& r.reserved ≠ 0) :
    s.access id true a v = (s, some (.refused 0x0001)) := by
  have hbad : (r != .inject && v &&& r.reserved != 0) = true :=
    Bool.and_eq_true_iff.mpr ⟨bne_iff_ne.mpr hi, bne_iff_ne.mpr hv⟩
  simp only [State.access, hr, hl, ho, State.berthClosed_of_berthCore_none hb, hbad]
  rfl

theorem State.access_write (hr : regAt a = some r) (hl : s.locked (windowOf a id) = false)
    (ho : s.occupied (windowOf a id) r = false) (hb : r.berthCore = none) {v : Word} (hv : v &&& r.reserved = 0) :
    s.access id true a v = s.writeReg id r v := by
  simp [State.access, hr, hl, ho, State.berthClosed_of_berthCore_none hb, hv]

theorem State.access_read (hr : regAt a = some r) (hl : s.locked (windowOf a id) = false)
    (hd : s.windowDamaged (windowOf a id) = false) (hb : r.berthCore = none) (v : Word) :
    s.access id false a v = (s.afterRead r, some (.done (s.regValue r))) := by
  simp [State.access, hr, hl, hd, State.berthClosed_of_berthCore_none hb]

-- The host's accesses to an open register ----------------------------------------------------------------------------------------

theorem State.HostOpen.hostAccess_reserved (ho : s.HostOpen id (windowOf a id) r) (ha : a % 8 = 0) (hr : regAt a = some r)
    (hb : r.berthCore = none) (hi : r ≠ .inject) {v : Word} (hv : v &&& r.reserved ≠ 0) :
    s.hostAccess id true a 0xFF v = (s.transferred id (windowOf a id)).answer id (.refused 0x0001) := by
  obtain ⟨hfree, hocc, hcheck, hlock⟩ := ho
  exact State.hostAccess_of_access hfree ha hcheck (State.access_reserved hr (by simpa) (by simpa) hb hi hv)

theorem State.HostOpen.hostAccess_read (ho : s.HostOpen id (windowOf a id) r) (ha : a % 8 = 0) (hr : regAt a = some r)
    (hb : r.berthCore = none) (hd : s.windowDamaged (windowOf a id) = false) :
    s.hostAccess id false a 0xFF 0 =
      ((s.transferred id (windowOf a id)).afterRead r).answer id (.done (s.regValue r)) := by
  obtain ⟨hfree, -, hcheck, hlock⟩ := ho
  have hacc := State.access_read (s := s.transferred id (windowOf a id)) (id := id) hr (by simpa) (by simpa) hb 0
  rw [State.hostAccess_of_access hfree ha hcheck hacc, State.transferred_regValue]

theorem State.HostOpen.hostAccess_write (ho : s.HostOpen id (windowOf a id) r) (ha : a % 8 = 0) (hr : regAt a = some r)
    (hb : r.berthCore = none) {v : Word} (hv : v &&& r.reserved = 0) {t : State} {rep : Reply}
    (hw : (s.transferred id (windowOf a id)).writeReg id r v = (t, some rep)) :
    s.hostAccess id true a 0xFF v = t.answer id rep := by
  obtain ⟨hfree, hocc, hcheck, hlock⟩ := ho
  have hacc := State.access_write (s := s.transferred id (windowOf a id)) (id := id) hr (by simpa) (by simpa) hb hv
  exact State.hostAccess_of_access hfree ha hcheck (hacc.trans hw)

end

-- What a write changes (R9 and the register tables) ------------------------------------------------------------------------------

/-- The registers that have no writable field. -/
def HReg.readOnly : HReg → Bool
  | .siCommitStatus | .siHarbourStatus | .capAddr _ | .capTime _ | .mark0 | .mark1 | .ckDrift | .tide | .pfskip _ | .poison _
  | .dkStatus | .lkStatus _ | .lkCal _ | .lkErr _ | .dbgStat _ => true
  | _ => false

theorem HReg.readOnly_of_mem {r : HReg}
    (h : r ∈ [.siCommitStatus, .siHarbourStatus, .mark0, .mark1, .ckDrift, .tide, .dkStatus]) : r.readOnly = true :=
  (by decide : ∀ r ∈ [HReg.siCommitStatus, .siHarbourStatus, .mark0, .mark1, .ckDrift, .tide, .dkStatus], r.readOnly = true) r h

theorem HReg.berthCore_of_readOnly {r : HReg} (h : r.readOnly = true) : r.berthCore = none := by
  cases r with
  | dbgG | dbgP | dbgPc | dbgCr => exact absurd h Bool.false_ne_true
  | _ => rfl

theorem State.writeReg_readOnly {r : HReg} (h : r.readOnly = true) (s : State) (id : HostId) (v : Word) :
    s.writeReg id r v = took s := by
  cases r with
  | siCommitStatus | siHarbourStatus | capAddr | capTime | mark0 | mark1 | ckDrift | tide | pfskip | poison | dkStatus | lkStatus
  | lkCal | lkErr | dbgStat => rfl
  | _ => exact absurd h Bool.false_ne_true

/-- A write that clears TIME_STEP where its bit `c` is 1. -/
theorem State.mapCk_clear_timeStep (s : State) (c : Bool) : (if c = true then s.mapCk fun k => { k with timeStep := false } else s) =
    s.mapCk fun k => { k with timeStep := k.timeStep && !c } := by
  cases c <;> simp [State.mapCk]

/-- A write that clears ERR of BW_LOGSTAT where its bit `c` is 1. -/
theorem State.mapBw_clear_logErr (s : State) (c : Bool) : (if c = true then s.mapBw fun w => { w with logErr := false } else s) =
    s.mapBw fun w => { w with logErr := w.logErr && !c } := by
  cases c <;> simp [State.mapBw]

theorem State.writeReg_ckStatus (s : State) (id : HostId) (v : Word) : s.writeReg id .ckStatus v =
    took (s.mapCk fun k => { k with timeStep := k.timeStep && !v.getLsbD 40 }) :=
  congrArg took (State.mapCk_clear_timeStep s (v.getLsbD 40))

theorem State.writeReg_logstat (s : State) (id : HostId) (v : Word) : s.writeReg id .logstat v =
    took (s.mapBw fun w => { w with logErr := w.logErr && !v.getLsbD 40 }) :=
  congrArg took (State.mapBw_clear_logErr s (v.getLsbD 40))

theorem State.writeReg_bwPend_F {s : State} (h : s.bw.doubleF = false) (id : HostId) (v : Word) : s.writeReg id (.bwPend 2) v =
    took (s.mapBw fun w => { w with pendF := w.pendF &&& ~~~(v.setWidth 41 &&& w.freed) }) := by
  simp [State.writeReg, Breakwater.clearPend, State.mapBw, h]

theorem State.writeReg_capInfo {k : Fin 3} (hk : k ≠ 2) {v : Word} (hv : v.getLsbD 63 = true) (s : State) (id : HostId) :
    s.writeReg id (.capInfo k) v = took (s.mapBw fun w => { w with caps := w.caps.set k Capture.empty }) := by
  have hk' : k.val ≠ 2 := fun h => hk (Fin.ext h)
  simp [State.writeReg, bitAt, hv, Breakwater.clearCap, hk']

theorem State.writeReg_qyScrub {v : Word} (hv : 16 ≤ v.toNat % 65536) (s : State) (id : HostId) (n : SliceId) :
    s.writeReg id (.qyScrub n) v =
      took (s.setEngine n { s.engine n with interval := v.setWidth 16, scrubEn := v.getLsbD 32 }) :=
  if_neg (Nat.not_lt.mpr hv)

theorem State.writeReg_qyScrub_refused {v : Word} (hv : v.toNat % 65536 < 16) (s : State) (id : HostId) (n : SliceId) :
    s.writeReg id (.qyScrub n) v = turnAway s (.refused 0x0006) :=
  if_pos hv

-- Words whose reserved bits are zero -----------------------------------------------------------------------------------------------

theorem bitsMask_getLsbD {hi lo : Nat} (hhi : hi < 64) (hlo : lo ≤ hi) (i : Nat) :
    (bitsMask hi lo).getLsbD i = (decide (lo ≤ i) && decide (i ≤ hi)) := by
  have hmask : 2 ^ (hi + 1) - 2 ^ lo = 2 ^ lo * (2 ^ (hi + 1 - lo) - 1) := by
    rw [Nat.mul_sub, ← Nat.pow_add, Nat.mul_one, Nat.add_sub_of_le (by omega)]
  rw [bitsMask, BitVec.getLsbD_ofNat, hmask, Nat.testBit_two_pow_mul, Nat.testBit_two_pow_sub_one]
  by_cases h1 : lo ≤ i <;> by_cases h2 : i ≤ hi <;> simp [h1, h2] <;> omega

/-- A field that a mask keeps clear is zero. -/
theorem field_eq_zero_of_and_bitsMask {v : Word} {hi lo n : Nat} (hn : hi + 1 = lo + (n + 1)) (hhi : hi < 64)
    (h : v &&& bitsMask hi lo = 0) : v.toNat / 2 ^ lo % 2 ^ (n + 1) = 0 := by
  apply Nat.eq_of_testBit_eq
  intro i
  have hbit : (v &&& bitsMask hi lo).getLsbD (i + lo) = false := by rw [h]; exact BitVec.getLsbD_zero
  rw [BitVec.getLsbD_and, bitsMask_getLsbD hhi (by omega)] at hbit
  rw [Nat.testBit_mod_two_pow, Nat.testBit_div_two_pow, BitVec.testBit_toNat, Nat.zero_testBit]
  by_cases hi' : i < n + 1
  · have h1 : lo ≤ i + lo := by omega
    have h2 : i + lo ≤ hi := by omega
    rw [decide_eq_true hi', Bool.true_and]
    simpa [h1, h2] using hbit
  · rw [decide_eq_false hi', Bool.false_and]

theorem fields_pair_toNat (x y j : Nat) : (fields [(x, 0), (y, j)]).toNat = (x + y * 2 ^ j) % 2 ^ 64 := by
  simp [fields]

-- Registers of kind RW read back, and the others keep their values --------------------------------------------------------------------

theorem State.regValue_l1ctl_changed {v : Word} (hv : v &&& HReg.reserved .l1ctl = 0) (s : State) :
    ({ s with l2 := { s.l2 with ien := v.setWidth 16, den := BitVec.ofNat 16 (v.toNat / 65536) } } : State).regValue .l1ctl = v := by
  have hhigh : v.toNat / 2 ^ 32 % 2 ^ 32 = 0 := field_eq_zero_of_and_bitsMask rfl (by decide) hv
  apply BitVec.eq_of_toNat_eq
  simp only [State.regValue, fields_pair_toNat, BitVec.toNat_setWidth, BitVec.toNat_ofNat]
  omega

theorem State.regValue_of_l1ctl_changed {r : HReg} (h : r ≠ .l1ctl) (s : State) (ien den : BitVec 16) :
    ({ s with l2 := { s.l2 with ien := ien, den := den } } : State).regValue r = s.regValue r := by
  cases r with
  | l1ctl => exact absurd rfl h
  | _ => rfl

theorem State.engine_setEngine_ne (s : State) (e : Engine) {n m : SliceId} (h : m ≠ n) :
    (s.setEngine n e).engine m = s.engine m := by
  simp [State.engine, State.setEngine, Vector.getElem_set_ne, Fin.val_ne_of_ne h.symm]

@[simp] theorem State.setEngine_launches (s : State) (n : SliceId) (e : Engine) :
    (s.setEngine n e).qy.launches = s.qy.launches := rfl

theorem State.regValue_qyScrub_changed {n : SliceId} {v : Word} (hv : v &&& HReg.reserved (.qyScrub n) = 0) (s : State) :
    (s.setEngine n { s.engine n with interval := v.setWidth 16, scrubEn := v.getLsbD 32 }).regValue (.qyScrub n) = v := by
  obtain ⟨hv1, hv2⟩ := BitVec.or_eq_zero_iff.mp (BitVec.and_or_distrib_left.symm.trans hv)
  have hhigh : v.toNat / 2 ^ 33 % 2 ^ 31 = 0 := field_eq_zero_of_and_bitsMask rfl (by decide) hv1
  have hmid : v.toNat / 2 ^ 16 % 2 ^ 16 = 0 := field_eq_zero_of_and_bitsMask rfl (by decide) hv2
  have hen : b2n (v.getLsbD 32) = v.toNat / 2 ^ 32 % 2 := by
    rw [← Nat.toNat_testBit, BitVec.testBit_toNat]
    cases v.getLsbD 32 <;> rfl
  apply BitVec.eq_of_toNat_eq
  simp only [State.regValue, State.engine_setEngine, fields_pair_toNat, hen, BitVec.toNat_setWidth]
  omega

theorem State.regValue_of_qyScrub_changed {n : SliceId} {r : HReg} (h : r ≠ .qyScrub n) (s : State) (interval : BitVec 16) (en : Bool) :
    (s.setEngine n { s.engine n with interval := interval, scrubEn := en }).regValue r = s.regValue r := by
  cases r with
  | qyScrub m =>
    have hm : m ≠ n := fun e => h (e ▸ rfl)
    simp [State.regValue, State.engine_setEngine_ne, hm]
  | qyStatus m =>
    by_cases hm : m = n
    · subst hm
      simp [State.regValue, State.qyStatus]
    · simp [State.regValue, State.qyStatus, State.engine_setEngine_ne, hm]
  | qyLerr m =>
    by_cases hm : m = n
    · subst hm
      simp [State.regValue]
    · simp [State.regValue, State.engine_setEngine_ne, hm]
  | _ => rfl

/-- A staging write replaces the 64 bits from `8 * off` and no other. -/
theorem Si.testBit_stage (i : Si) (off : Nat) (v : Word) (j : Nat) : (i.stage off v).staging.testBit j =
    if 8 * off ≤ j ∧ j < 8 * off + 64 then v.getLsbD (j - 8 * off) else i.staging.testBit j := by
  have hsplit : (i.stage off v).staging =
      2 ^ (8 * off) * (2 ^ 64 * (i.staging >>> (8 * off + 64)) + v.toNat) + i.staging % 2 ^ (8 * off) := by
    simp only [Si.stage, Nat.pow_add, Nat.mul_add]
    ac_rfl
  rw [hsplit, Nat.testBit_two_pow_mul_add _ (Nat.mod_lt _ (Nat.two_pow_pos _)), Nat.testBit_two_pow_mul_add _ v.isLt,
    Nat.testBit_mod_two_pow, Nat.testBit_shiftRight, BitVec.testBit_toNat]
  by_cases h1 : j < 8 * off
  · simp [h1, Nat.not_le.mpr h1]
  · by_cases h2 : j < 8 * off + 64
    · have h3 : j - 8 * off < 64 := by omega
      simp [h1, h2, h3, Nat.not_lt.mp h1]
    · have h3 : ¬ j - 8 * off < 64 := by omega
      have h4 : 8 * off + 64 + (j - 8 * off - 64) = j := by omega
      simp [h1, h2, h3, h4]

theorem State.getLsbD_regValue_staging (s : State) (off j : Nat) :
    (s.regValue (.staging off)).getLsbD j = (decide (j < 64) && s.si.staging.testBit (8 * off + j)) := by
  simp only [State.regValue, Si.staged, BitVec.getLsbD_ofNat, Nat.testBit_mod_two_pow, Nat.testBit_shiftRight, Nat.add_zero]
  cases decide (j < 64) <;> rfl

theorem State.regValue_staging_staged (s : State) (off : Nat) (v : Word) :
    (s.mapSi fun i => i.stage off v).regValue (.staging off) = v := by
  apply BitVec.eq_of_getLsbD_eq
  intro j hj
  rw [State.getLsbD_regValue_staging, State.mapSi_si, Si.testBit_stage, if_pos ⟨by omega, by omega⟩, Nat.add_sub_cancel_left,
    decide_eq_true hj, Bool.true_and]

theorem State.regValue_of_staging_changed {r : HReg} (h : ∀ o, r ≠ .staging o) (s : State) (staging : Nat) :
    ({ s with si := { s.si with staging := staging } } : State).regValue r = s.regValue r := by
  cases r with
  | staging o => exact absurd rfl (h o)
  | _ => rfl

theorem State.regValue_of_staged {off : Nat} {r : HReg} (h : r ≠ .staging off)
    (hoff : ∀ o, r = .staging o → o % 8 = off % 8) (s : State) (v : Word) :
    (s.mapSi fun i => i.stage off v).regValue r = s.regValue r := by
  by_cases hs : ∃ o, r = .staging o
  · obtain ⟨o, rfl⟩ := hs
    have hne : o ≠ off := fun e => h (e ▸ rfl)
    have hmod := hoff o rfl
    apply BitVec.eq_of_getLsbD_eq
    intro j hj
    have hout : ¬ (8 * off ≤ 8 * o + j ∧ 8 * o + j < 8 * off + 64) := by omega
    rw [State.getLsbD_regValue_staging, State.getLsbD_regValue_staging, State.mapSi_si, Si.testBit_stage, if_neg hout]
  · exact State.regValue_of_staging_changed (fun o ho => hs ⟨o, ho⟩) s (s.si.stage off v).staging

/-- The chart store is the only part of the map that holds the staging area (Table 14 of "Block boundary and ports"). -/
theorem regAt_staging {a off : Nat} (h : regAt a = some (.staging off)) : 0x400000 ≤ a ∧ off = a - 0x400000 := by
  by_cases ha : 0x400000 ≤ a
  · simp only [regAt, ha, if_true] at h
    split at h
    · have hoff := HReg.staging.inj (Option.some.inj h)
      omega
    · exact absurd h (Option.some_ne_none _).symm
  · simp only [regAt, ha, if_false, dbgRegAt, bwRegAt, l2RegAt, qyRegAt, lkRegAt] at h
    repeat' split at h
    all_goals simp only [Option.some.injEq, Option.map_eq_some_iff, reduceCtorEq, and_false, exists_false] at h

theorem staging_aligned {a off : Nat} (ha : a % 8 = 0) (h : regAt a = some (.staging off)) : off % 8 = 0 := by
  have hplace := regAt_staging h
  omega

-- Replies (R31, R32, R65) ------------------------------------------------------------------------------------------------------

theorem replyReady_of_first {id : HostId} {q : HostReq} {r : Reply} (hq : q.reply = some r) :
    ∀ (l : List HostReq) (seen : List Nat), l.find? (fun x => x.id == id) = some q →
      (∀ x ∈ l.takeWhile (fun x => x.id != id), x.window ≠ q.window) → q.window ∉ seen → replyReady id l seen = some (q, r)
  | [], _, hfind, _, _ => by simp at hfind
  | x :: l, seen, hfind, hahead, hseen => by
    by_cases hx : x.id = id
    · obtain rfl : x = q := by simpa [hx] using hfind
      simp [replyReady, hx, hseen, hq]
    · have hfind' : l.find? (fun x => x.id == id) = some q := by simpa [hx] using hfind
      have hhead : x.window ≠ q.window ∧ ∀ y ∈ l.takeWhile (fun x => x.id != id), y.window ≠ q.window := by
        simpa [hx] using hahead
      have hseen' : q.window ∉ x.window :: seen := by simp [hhead.1.symm, hseen]
      simpa [replyReady, hx] using replyReady_of_first hq l (x.window :: seen) hfind' hhead.2 hseen'

theorem replyReady_of_undecided {id : HostId} {q : HostReq} (hq : q.reply = none) :
    ∀ (l : List HostReq) (seen : List Nat), l.find? (fun x => x.id == id) = some q → replyReady id l seen = none
  | [], _, _ => rfl
  | x :: l, seen, hfind => by
    by_cases hx : x.id = id
    · obtain rfl : x = q := by simpa [hx] using hfind
      simp [replyReady, hx, hq]
    · have hfind' : l.find? (fun x => x.id == id) = some q := by simpa [hx] using hfind
      simpa [replyReady, hx] using replyReady_of_undecided hq l (x.window :: seen) hfind'

theorem execHostReply_of_ready {id : HostId} {s : State} {q : HostReq} {r : Reply}
    (h : replyReady id s.host.outstanding [] = some (q, r)) (hroot : s.rootRuns = true) : ∃ t : State,
      execHostReply id s = .next t ∧ q ∉ t.host.outstanding ∧ t.host.rsp.id = id ∧ t.pins.hpRsp = true ∧
      t.host.rsp.data = r.data ∧ t.host.rsp.rdata = r.rdata ∧
      t.host.rsp.status = BitVec.ofNat 8 (16 * s.topCause + r.outcome.toNat) := by
  refine ⟨_, by simp only [execHostReply, h, hroot]; rfl, ?_, rfl, rfl, rfl, rfl, rfl⟩
  simp

theorem execHostReply_of_not_ready {id : HostId} {s : State} (h : replyReady id s.host.outstanding [] = none) :
    execHostReply id s = .next s := by
  simp [execHostReply, h]

-- Reads that clear (R9) ------------------------------------------------------------------------------------------------------

theorem State.link_setLink_ne (s : State) (k : Link) {n m : LinkId} (h : m ≠ n) : (s.setLink n k).link m = s.link m := by
  simp [State.link, State.setLink, Vector.getElem_set_ne, Fin.val_ne_of_ne h.symm]

theorem State.afterRead_of_no_clearing {r : HReg} (h1 : r ≠ .bwStatus) (h2 : r ≠ .logstat) (h3 : ∀ n, r ≠ .pfskip n)
    (h4 : ∀ n, r ≠ .lkErr n) (s : State) : s.afterRead r = s := by
  cases r with
  | bwStatus => exact absurd rfl h1
  | logstat => exact absurd rfl h2
  | pfskip n => exact absurd rfl (h3 n)
  | lkErr n => exact absurd rfl (h4 n)
  | _ => rfl

theorem readsThatClear (s : State) : (s.afterRead .bwStatus).bw.lostq = 0 ∧ (s.afterRead .logstat).bw.logLost = 0 ∧
    (∀ n, (s.afterRead (.pfskip n)).l2.skips[n] = 0) ∧
    (∀ n, ((s.afterRead (.lkErr n)).link n).replays = 0 ∧ ((s.afterRead (.lkErr n)).link n).crcFail = 0) ∧
    (∀ n m, m ≠ n → (s.afterRead (.lkErr n)).link m = s.link m) ∧
    (∀ r, r ≠ .bwStatus → r ≠ .logstat → (∀ n, r ≠ .pfskip n) → (∀ n, r ≠ .lkErr n) → s.afterRead r = s) := by
  refine ⟨rfl, rfl, fun n => ?_, fun n => ?_, fun n m h => State.link_setLink_ne s _ h,
    fun r h1 h2 h3 h4 => State.afterRead_of_no_clearing h1 h2 h3 h4 s⟩
  · simp [State.afterRead]
  · simp [State.afterRead]

/-- Settles O42: every request runs through `hostAccess` and `access`, a reply through `replyReady`. -/
theorem hostPort : Obligations.HostPort := by
  unfold Obligations.HostPort
  refine ⟨⟨?notFree, ?width, ?noaddr, ?reserved, fun _ _ _ _ => rfl, ?read, ?write, ?reply, ?undecided⟩, readsThatClear⟩
  case notFree =>
    intro id write a be v s h
    rw [exec_hostRequest_eq, State.hostAccess_of_not_free h]
  case width =>
    intro id write a be v s h hbad
    rw [exec_hostRequest_eq, State.hostAccess_width h hbad]
  case noaddr =>
    intro id write a v s h ha hr hcheck
    rw [exec_hostRequest_eq, State.hostAccess_of_access h ha hcheck (State.access_noaddr hr ..)]
  case reserved =>
    intro id a v r s ha hr ho hb hi hv
    rw [exec_registerWrite_eq, ho.hostAccess_reserved ha hr hb hi hv]
  case read =>
    intro id a r s ha hr ho hb hd
    rw [exec_readClear_eq, exec_hostRequest_eq, ho.hostAccess_read ha hr hb hd]
    exact ⟨rfl, rfl⟩
  case reply =>
    intro id s q r hfind hq hahead hroot
    rw [exec_hostReply_eq]
    exact execHostReply_of_ready (replyReady_of_first hq _ [] hfind (by simpa using hahead) (by simp)) hroot
  case undecided =>
    intro id s q hfind hq
    rw [exec_hostReply_eq, execHostReply_of_not_ready (replyReady_of_undecided hq _ [] hfind)]
  case write =>
    intro id a v r s ha hr ho hv t writes readsBack
    have hwrites (f : State → State) (hb : r.berthCore = none) (hw : t.writeReg id r v = took (f t)) : writes f := by
      have hdone := ho.hostAccess_write ha hr hb hv hw
      exact ⟨congrArg Host.Outcome.next hdone, congrArg Host.Outcome.next hdone⟩
    clear_value writes
    refine ⟨?readOnly, ?l1ctl, ?scrub, ?scrubRefused, ?staging, ?qyStatus, ?qyLerr, ?hwChain, ?ckStatus, ?logstat, ?pendC, ?pendU,
      ?pendF, ?capInfo⟩
    case readOnly =>
      intro h
      have hro : r.readOnly = true := by
        rcases h with h | ⟨k, rfl | rfl⟩ | ⟨n, rfl | rfl⟩ | ⟨n, rfl | rfl | rfl⟩ | ⟨n, rfl⟩
        · exact HReg.readOnly_of_mem h
        all_goals rfl
      exact hwrites _ (HReg.berthCore_of_readOnly hro) (State.writeReg_readOnly hro ..)
    case l1ctl =>
      rintro rfl
      exact ⟨hwrites _ rfl rfl, State.regValue_l1ctl_changed hv s, fun _ _ _ _ hne => State.regValue_of_l1ctl_changed hne s ..⟩
    case scrub =>
      rintro n rfl hmin
      exact ⟨hwrites _ rfl (State.writeReg_qyScrub hmin ..), State.regValue_qyScrub_changed hv s,
        fun _ _ _ _ hne => State.regValue_of_qyScrub_changed hne s ..⟩
    case scrubRefused =>
      rintro n rfl hmin
      rw [exec_registerWrite_eq, ho.hostAccess_write ha hr rfl hv (State.writeReg_qyScrub_refused hmin ..)]
    case staging =>
      rintro off rfl
      refine ⟨hwrites _ rfl rfl, State.regValue_staging_staged s off v, fun b r' hb hr' hne => ?_⟩
      refine State.regValue_of_staged hne (fun o ho' => ?_) s v
      rw [staging_aligned hb (ho' ▸ hr'), staging_aligned ha hr]
    case qyStatus => rintro n rfl; exact hwrites _ rfl rfl
    case qyLerr => rintro n rfl; exact hwrites _ rfl rfl
    case hwChain => rintro i rfl; exact hwrites _ rfl rfl
    case ckStatus => rintro rfl; exact hwrites _ rfl (State.writeReg_ckStatus ..)
    case logstat => rintro rfl; exact hwrites _ rfl (State.writeReg_logstat ..)
    case pendC => rintro rfl; exact hwrites _ rfl rfl
    case pendU => rintro rfl; exact hwrites _ rfl rfl
    case pendF => rintro rfl hd; exact hwrites _ rfl (State.writeReg_bwPend_F (s := t) hd ..)
    case capInfo => rintro k rfl hk hbit; exact hwrites _ rfl (State.writeReg_capInfo hk hbit ..)

end Sys2Proof.Machine
end

-- Division, and the registers g0 and p0 ----------------------------------------------------------------------------------

section
/-! PROOF. O2: the eight division forms retire with the quotient or remainder of R74. O56: g0 and p0, the forms that name p0
as their destination, and the registers after the two resets. -/

namespace Sys2Proof.Machine
open Sys2Proof.Laws

-- Commands -----------------------------------------------------------------------------------------------------------------

section
variable (x : Issue) (rd ra rb : Reg) (s : State)

theorem exec_div_eq : exec (.div x rd ra rb) s = .next (s.aluRR (.div x rd ra rb) x rd ra rb divSigned) := rfl
theorem exec_divu_eq : exec (.divu x rd ra rb) s = .next (s.aluRR (.divu x rd ra rb) x rd ra rb divUnsigned) := rfl
theorem exec_rem_eq : exec (.rem x rd ra rb) s = .next (s.aluRR (.rem x rd ra rb) x rd ra rb remSigned) := rfl
theorem exec_remu_eq : exec (.remu x rd ra rb) s = .next (s.aluRR (.remu x rd ra rb) x rd ra rb remUnsigned) := rfl
theorem exec_divw_eq : exec (.divw x rd ra rb) s =
    .next (s.aluRR (.divw x rd ra rb) x rd ra rb fun a b => wResult (divSigned (low32 a) (low32 b))) := rfl
theorem exec_divuw_eq : exec (.divuw x rd ra rb) s =
    .next (s.aluRR (.divuw x rd ra rb) x rd ra rb fun a b => wResult (divUnsigned (low32 a) (low32 b))) := rfl
theorem exec_remw_eq : exec (.remw x rd ra rb) s =
    .next (s.aluRR (.remw x rd ra rb) x rd ra rb fun a b => wResult (remSigned (low32 a) (low32 b))) := rfl
theorem exec_remuw_eq : exec (.remuw x rd ra rb) s =
    .next (s.aluRR (.remuw x rd ra rb) x rd ra rb fun a b => wResult (remUnsigned (low32 a) (low32 b))) := rfl

end

-- Quotients and remainders (R74) -------------------------------------------------------------------------------------------

/-- The overflow, of the most negative dividend by -1, wraps in both. -/
theorem divSigned_eq_sdiv {w : Nat} (a b : BitVec w) :
    divSigned a b = if b = 0 then BitVec.allOnes w else a.sdiv b := by
  have hquot : BitVec.ofInt w (a.toInt.tdiv b.toInt) = a.sdiv b :=
    BitVec.eq_of_toInt_eq (by rw [BitVec.toInt_ofInt, BitVec.toInt_sdiv])
  rw [divSigned, hquot]

theorem remSigned_eq_srem {w : Nat} (a b : BitVec w) : remSigned a b = if b = 0 then a else a.srem b := by
  rw [remSigned, ← BitVec.toInt_srem, BitVec.ofInt_toInt]

theorem divUnsigned_eq_ofNat {w : Nat} (a b : BitVec w) :
    divUnsigned a b = if b = 0 then BitVec.allOnes w else BitVec.ofNat w (a.toNat / b.toNat) := by
  rw [divUnsigned, BitVec.udiv_def]

theorem remUnsigned_eq_ofNat {w : Nat} (a b : BitVec w) :
    remUnsigned a b = if b = 0 then a else BitVec.ofNat w (a.toNat % b.toNat) := by
  rw [remUnsigned, BitVec.umod_def]

/-- All ones stay all ones when a W form extends them. -/
theorem wResult_allOnes : wResult (BitVec.allOnes 32) = BitVec.allOnes 64 := by decide

theorem wResult_divSigned (a b : Word) : wResult (divSigned (low32 a) (low32 b)) =
    if b.setWidth 32 = 0 then BitVec.allOnes 64 else ((a.setWidth 32).sdiv (b.setWidth 32)).signExtend 64 := by
  rw [divSigned_eq_sdiv, apply_ite wResult, wResult_allOnes]
  rfl

theorem wResult_divUnsigned (a b : Word) : wResult (divUnsigned (low32 a) (low32 b)) =
    if b.setWidth 32 = 0 then BitVec.allOnes 64 else (a.setWidth 32 / b.setWidth 32).signExtend 64 := by
  rw [divUnsigned, apply_ite wResult, wResult_allOnes]
  rfl

theorem wResult_remSigned (a b : Word) : wResult (remSigned (low32 a) (low32 b)) =
    if b.setWidth 32 = 0 then (a.setWidth 32).signExtend 64
    else ((a.setWidth 32).srem (b.setWidth 32)).signExtend 64 := by
  rw [remSigned_eq_srem, apply_ite wResult]
  rfl

theorem wResult_remUnsigned (a b : Word) : wResult (remUnsigned (low32 a) (low32 b)) =
    if b.setWidth 32 = 0 then (a.setWidth 32).signExtend 64 else (a.setWidth 32 % b.setWidth 32).signExtend 64 := by
  rw [remUnsigned, apply_ite wResult]
  rfl

theorem retires_of_aluRR {i : Instr} {x : Issue} {rd ra rb : Reg} {f : Word → Word → Word}
    (h : ∀ s, exec i s = .next (s.aluRR i x rd ra rb f)) :
    Retires i x fun y => y.setReg rd (f (y.reg ra) (y.reg rb)) :=
  retires_of_regInstruction h

/-- Settles O2: every form runs through `aluRR`, and its function is the quotient or remainder of R74. -/
theorem division : Obligations.Division := by
  unfold Obligations.Division
  intro x rd ra rb
  refine ⟨?div, ?divu, ?rem, ?remu, ?divw, ?divuw, ?remw, ?remuw⟩
  case div => simpa only [divSigned_eq_sdiv] using retires_of_aluRR (exec_div_eq x rd ra rb)
  case divu => simpa only [divUnsigned_eq_ofNat] using retires_of_aluRR (exec_divu_eq x rd ra rb)
  case rem => simpa only [remSigned_eq_srem] using retires_of_aluRR (exec_rem_eq x rd ra rb)
  case remu => simpa only [remUnsigned_eq_ofNat] using retires_of_aluRR (exec_remu_eq x rd ra rb)
  case divw => simpa only [wResult_divSigned] using retires_of_aluRR (exec_divw_eq x rd ra rb)
  case divuw => simpa only [wResult_divUnsigned] using retires_of_aluRR (exec_divuw_eq x rd ra rb)
  case remw => simpa only [wResult_remSigned] using retires_of_aluRR (exec_remw_eq x rd ra rb)
  case remuw => simpa only [wResult_remUnsigned] using retires_of_aluRR (exec_remuw_eq x rd ra rb)

-- Illegal forms (R71, R80) -------------------------------------------------------------------------------------------------

section
variable {s : State} {x : Issue} {b : BerthId} {i : Instr}

/-- An illegal form raises vector 1 in the state that has counted it, however it counts. -/
theorem instructionBy_illegal (hrun : s.runner x.core = some b) (hfree : (s.core x.core).stalled = none) (k : Nat)
    (count : Berth → Berth) (asks : State → CoreId → BerthId → State) (body : State → CoreId → BerthId → Option State) :
    s.instructionBy i x false k count asks body = (s.mapBerth x.core b count).raise x.core b 1 0 := by
  simp [State.instructionBy, mustWait_false hrun hfree, hrun]

theorem predWrite_illegal (hrun : s.runner x.core = some b) (hfree : (s.core x.core).stalled = none)
    (hbad : s.legal i = false) (pd : PReg) (f : Berth → Bool) :
    s.predWrite i x pd f = (s.issued x b).raise x.core b 1 0 := by
  rw [State.predWrite, State.regInstruction, hbad, instruction_illegal hrun hfree]

theorem Berth.countOnce_of_not_midway {y : Berth} (h : y.midway = false) : y.countOnce = y.countMode := by
  simp [Berth.countOnce, h]

/-- A string instruction that does not stand at a boundary within it counts like any other (R82). -/
theorem string_illegal (hrun : s.runner x.core = some b) (hfree : (s.core x.core).stalled = none)
    (hfresh : (s.berth x.core b).midway = false) (hbad : s.legal i = false) (rb : Reg) (limit : Option Nat)
    (elem : CoreId → BerthId → State → State × Progress) :
    s.string i x rb limit elem = (s.issued x b).raise x.core b 1 0 := by
  rw [State.string, hbad, instructionBy_illegal hrun hfree, State.mapBerth, Berth.countOnce_of_not_midway hfresh]
  rfl

theorem State.legal_scmp_p0 (rd ra rb : Reg) (size : Size) : s.legal (.scmp x rd ra rb size 0) = false :=
  Bool.and_false _

theorem State.legal_sscan_p0 (rd ra rb : Reg) (size : Size) : s.legal (.sscan x rd ra rb size 0) = false :=
  Bool.and_false _

theorem exec_p0_destination (hrun : s.runner x.core = some b) (hfree : (s.core x.core).stalled = none)
    (hfresh : (s.berth x.core b).midway = false) (pa pb : PReg) (rd ra rb : Reg) (imm : BitVec 10) (size : Size) (c : Cond) :
    ∀ i ∈ [Instr.cmp x 0 ra rb c, .cmpi x 0 ra imm c, .pand x 0 pa pb, .por x 0 pa pb, .pxor x 0 pa pb, .pandn x 0 pa pb,
      .pnot x 0 pa, .scmp x rd ra rb size 0, .sscan x rd ra rb size 0],
      exec i s = .next ((s.issued x b).raise x.core b 1 0) := by
  have hpred {i : Instr} (hbad : s.legal i = false) (f : Berth → Bool) :
      Host.Outcome.next (s.predWrite i x 0 f) = (.next ((s.issued x b).raise x.core b 1 0) : Host.Outcome State Fault Refusal) :=
    congrArg _ (predWrite_illegal hrun hfree hbad 0 f)
  simp only [List.forall_mem_cons, List.not_mem_nil, false_imp_iff, implies_true, and_true]
  refine ⟨hpred rfl _, hpred rfl _, hpred rfl _, hpred rfl _, hpred rfl _, hpred rfl _, hpred rfl _, ?scmp, ?sscan⟩
  case scmp =>
    exact congrArg Host.Outcome.next (string_illegal hrun hfree hfresh (State.legal_scmp_p0 rd ra rb size) _ _ _)
  case sscan =>
    exact congrArg Host.Outcome.next (string_illegal hrun hfree hfresh (State.legal_sscan_p0 rd ra rb size) _ _ _)

end

-- The registers after a reset (R57, R71) -----------------------------------------------------------------------------------

@[simp] theorem Berth.pred_zero (y : Berth) : y.pred 0 = true := rfl

theorem Berth.reset_reg (r : Reg) : Berth.reset.reg r = 0 := by
  simp [Berth.reg, Berth.reset]

theorem Berth.reset_pred : ∀ n : PReg, Berth.reset.pred n = (n == 0) := by decide

theorem State.reset_berth (c : CoreId) (b : BerthId) : State.reset.berth c b = Berth.reset := by
  simp [State.berth, State.core, Core.berth, State.reset, Core.reset]

theorem State.berth_of_cores {s t : State} (h : t.cores = s.cores) (c : CoreId) (b : BerthId) : t.berth c b = s.berth c b := by
  simp only [State.berth, State.core, h]

theorem State.cleanAll_of_order_nil {s : State} (h : s.l2.order = []) : s.cleanAll = s := by
  rw [State.cleanAll, h]
  rfl

/-- An episode that starts where no line is dirty cleans none, so that no fault of memory reaches a core. -/
theorem State.startEpisode_cores {s : State} (h : s.l2.order = []) : s.startEpisode.cores = s.cores := by
  unfold State.startEpisode
  extract_lets t
  rw [State.cleanAll_of_order_nil (s := t) h, ite_self]
  rfl

theorem exec_porstNAssert_cores {s t : State} (h : exec .porstNAssert s = .next t) : t.cores = State.reset.cores := by
  obtain rfl := Host.Outcome.next.inj h
  rfl

theorem exec_wrstNAssert_cores {s t : State} (hporst : s.porst = false) (hsup : s.supHold = false)
    (h : exec .wrstNAssert s = .next t) : t.cores = State.reset.cores := by
  have hexec : execWrstNAssert s = .next t := h
  simp only [execWrstNAssert, hporst, hsup, Bool.or_self, Bool.false_eq_true, if_false] at hexec
  obtain rfl := Host.Outcome.next.inj hexec
  split
  · exact State.startEpisode_cores rfl
  · rfl

/-- Settles O56: the forms with p0 as their destination are illegal, and both resets put every core at its reset value. -/
theorem registersAfterReset : Obligations.RegistersAfterReset := by
  unfold Obligations.RegistersAfterReset
  refine ⟨fun y r v => ⟨y.reg_zero, y.setReg_zero v, y.pred_zero, fun hr => ?_⟩, ?p0, ?reset⟩
  · rw [Berth.reg_setReg, if_pos ⟨rfl, hr⟩]
  case p0 =>
    intro x pa pb rd ra rb imm size c s b hrun hfree hfresh
    exact exec_p0_destination hrun hfree hfresh pa pb rd ra rb imm size c
  case reset =>
    intro s t hreset c b
    have hcores : t.cores = State.reset.cores := by
      obtain h | ⟨hporst, hsup, h⟩ := hreset
      · exact exec_porstNAssert_cores h
      · exact exec_wrstNAssert_cores hporst hsup h
    rw [State.berth_of_cores hcores, State.reset_berth]
    exact ⟨Berth.reset_reg, Berth.reset_pred⟩

end Sys2Proof.Machine
end

-- Fault records and the fault log -----------------------------------------------------------------------------------------

section
/-! PROOF. O53: how arrivals join the collector's queue, what the record of a fault changes in the breakwater, and how the log
writes its oldest entry. -/

namespace Sys2Proof.Machine
open Sys2Proof.Laws

-- The pending registers (R325) --------------------------------------------------------------------------------------------

theorem getLsbD_setBit_true {w : Nat} (v : BitVec w) (i j : Nat) :
    (setBit v i true).getLsbD j = (v.getLsbD j || decide (j = i ∧ i < w)) := by
  rw [setBit, if_pos rfl, BitVec.getLsbD_or, BitVec.getLsbD_shiftLeft, BitVec.getLsbD_one]
  congr 1
  rw [Bool.eq_iff_iff]
  simp only [Bool.and_eq_true, Bool.not_eq_true', decide_eq_true_eq, decide_eq_false_iff_not]
  omega

theorem Breakwater.setPend_eq (b : Breakwater) (cls src : Nat) : b.setPend cls src = { b with
    pendC := if cls = 0 then setBit b.pendC src true else b.pendC
    pendU := if cls = 1 then setBit b.pendU src true else b.pendU
    pendF := if cls = 0 ∨ cls = 1 then b.pendF else setBit b.pendF src true
    freed := if cls = 0 ∨ cls = 1 then b.freed else setBit b.freed src false } := by
  unfold Breakwater.setPend
  split
  · next h => simp [h]
  · split
    · next h => simp [h]
    · next h0 h1 => simp [h0, h1]

theorem Breakwater.pendOf_setPend_same (b : Breakwater) {k : Nat} (hk : k < 3) (src : Nat) :
    (b.setPend k src).pendOf k = setBit (b.pendOf k) src true := by
  obtain rfl | rfl | rfl : k = 0 ∨ k = 1 ∨ k = 2 := by omega
  all_goals rfl

theorem Breakwater.pendOf_setPend_ne (b : Breakwater) {k cls : Nat} (hk : k < 3) (hcls : cls < 3) (hne : k ≠ cls) (src : Nat) :
    (b.setPend cls src).pendOf k = b.pendOf k := by
  obtain rfl | rfl | rfl : k = 0 ∨ k = 1 ∨ k = 2 := by omega
  · simp [Breakwater.setPend_eq, Breakwater.pendOf, hne.symm]
  · simp [Breakwater.setPend_eq, Breakwater.pendOf, hne.symm]
  · have hlow : cls = 0 ∨ cls = 1 := by omega
    simp [Breakwater.setPend_eq, Breakwater.pendOf, hlow]

-- Classes (R323) ----------------------------------------------------------------------------------------------------------

/-- Whether R323 records a fault one class higher: its unit has an unacknowledged fault of its class. -/
def Breakwater.escalates (b : Breakwater) (e : FaultEvent) : Bool :=
  !b.merges e && (b.unacked.any fun u => faultKey u.src u.inst == faultKey e.src e.inst && u.cls.toNat == faultClass e.src.toNat) &&
    decide (faultClass e.src.toNat < 2)

theorem Breakwater.classify_eq (b : Breakwater) (e : FaultEvent) :
    b.classify e = (faultClass e.src.toNat + b2n (b.escalates e), b.escalates e) := by
  have hmerged : (e.covered && !(b.unacked.filter fun u => faultKey u.src u.inst == faultKey e.src e.inst).isEmpty) =
      b.merges e := by
    rw [Breakwater.merges, Bool.eq_iff_iff]
    simp
  unfold Breakwater.classify
  dsimp only
  rw [hmerged, List.any_filter]
  by_cases hm : b.merges e = true
  · simp [Breakwater.escalates, hm, b2n]
  · by_cases hlow : faultClass e.src.toNat < 2
    · cases hsame : b.unacked.any fun u => faultKey u.src u.inst == faultKey e.src e.inst && u.cls.toNat == faultClass e.src.toNat
      all_goals simp [Breakwater.escalates, hm, hlow, hsame, b2n]
    · simp [Breakwater.escalates, hm, hlow, b2n]

theorem faultClass_lt (src : Nat) : faultClass src < 3 := by
  unfold faultClass
  split
  · omega
  · split <;> omega

theorem Breakwater.classify_lt (b : Breakwater) (e : FaultEvent) : (b.classify e).1 < 3 := by
  have hlt := faultClass_lt e.src.toNat
  rw [Breakwater.classify_eq]
  cases hup : b.escalates e
  · exact hlt
  · have hlow : faultClass e.src.toNat < 2 := by
      simp only [Breakwater.escalates, Bool.and_eq_true, decide_eq_true_eq] at hup
      exact hup.2
    simp only [b2n, if_true]
    omega

theorem Breakwater.classify_of_no_unacked {b : Breakwater} (h : b.unacked = []) (e : FaultEvent) :
    (b.classify e).1 = faultClass e.src.toNat := by
  simp [Breakwater.classify_eq, Breakwater.escalates, h, b2n]

-- What each part of a record changes (R325, R326, R330, R338, R345) -------------------------------------------------------

/-- What a capture becomes when a fault of its class is accepted: a valid one counts it, a free one shows it. -/
def Capture.take (c : Capture) (esc : Bool) (e : FaultEvent) (time : Word) : Capture :=
  if c.valid then { c with count := satInc c.count }
  else { valid := true, esc := esc, count := 0, ev := shownEvent e, time := time }

/-- Whether a fault of a class forces the safe state. -/
def fatalFault (cls src : Nat) : Bool := cls == 2 || (cls == 1 && faultSafety src)

section
variable (b : Breakwater)

theorem Breakwater.capture_eq (cls : Nat) (esc : Bool) (e : FaultEvent) (time : Word) : (b.capture cls esc e time).1 = { b with
    caps := b.caps.set (Fin.ofNat 3 cls) (b.caps[Fin.ofNat 3 cls].take esc e time)
    capFreed := if b.caps[Fin.ofNat 3 cls].valid = false ∧ cls = 2 then false else b.capFreed } := by
  unfold Breakwater.capture Capture.take
  dsimp only
  split
  · next h => simp only [h, Bool.true_eq_false, false_and, if_false]
  · next h => simp only [h, true_and]

theorem Breakwater.log_eq (e : LogEntry) : b.log e = { b with
    logBuf := if b.logBuf.length < 64 then b.logBuf ++ [e] else b.logBuf
    logLost := if b.logBuf.length < 64 then b.logLost else satInc b.logLost } := by
  unfold Breakwater.log
  split <;> rfl

theorem Breakwater.counted_eq (key : Nat × Nat) (cls : Nat) :
    (if key.1 = 0 then b else { b with counts := bumpCount cls key.1 key.2 b.counts }) =
      { b with counts := if key.1 = 0 then b.counts else bumpCount cls key.1 key.2 b.counts } := by
  split <;> rfl

theorem Breakwater.secured_eq (cls src : Nat) :
    (if cls = 2 ∨ (cls = 1 ∧ faultSafety src = true) then b.enterSafe else b) = { b with
      safe := b.safe || fatalFault cls src
      release := if fatalFault cls src then 0 else b.release
      armed := if fatalFault cls src then 0 else b.armed } := by
  have hfatal : (cls = 2 ∨ (cls = 1 ∧ faultSafety src = true)) ↔ fatalFault cls src = true := by simp [fatalFault]
  simp only [hfatal]
  cases fatalFault cls src
  · simp
  · simp [Breakwater.enterSafe]

end

-- The record of a fault (R321, R325, R326, R338, R340) --------------------------------------------------------------------

/-- What the record of a fault makes of the breakwater before its unit is marked. -/
def Breakwater.recorded (b : Breakwater) (q : QueuedFault) (lost : Bool) : Breakwater :=
  let e := q.ev
  let src := e.src.toNat
  let cls := (b.classify e).1
  let esc := (b.classify e).2
  let key := faultKey e.src e.inst
  let caps := b.caps.set (Fin.ofNat 3 cls) (b.caps[Fin.ofNat 3 cls].take esc e q.time)
  let entry : LogEntry :=
    { time := q.time, event := false, code := BitVec.ofNat 8 src, cls := BitVec.ofNat 2 cls, esc := esc, ev := shownEvent e }
  let p := b.setPend cls src
  { b with
    pendC := p.pendC, pendU := p.pendU, pendF := p.pendF, freed := p.freed
    lostq := if lost then satInc b.lostq else b.lostq
    caps := if lost then b.caps else caps
    capFreed := if lost then b.capFreed
      else if b.caps[Fin.ofNat 3 cls].valid = false ∧ cls = 2 then false else b.capFreed
    unacked := if (b.merges e || (q.injected && cls < 2)) = true then b.unacked
      else b.unacked ++ [{ src := e.src, inst := e.inst, cls := BitVec.ofNat 2 cls }]
    doubleF := b.doubleF || (cls == 2 && b.unacked.any fun u => u.cls == 2)
    fStop := b.fStop || cls == 2
    counts := if key.1 = 0 then b.counts else bumpCount cls key.1 key.2 b.counts
    logBuf := if lost then b.logBuf else if b.logBuf.length < 64 then b.logBuf ++ [entry] else b.logBuf
    logLost := if lost then b.logLost else if b.logBuf.length < 64 then b.logLost else satInc b.logLost
    safe := b.safe || fatalFault cls src
    release := if fatalFault cls src then 0 else b.release
    armed := if fatalFault cls src then 0 else b.armed }

/-- A breakwater without its marks. -/
def Breakwater.unmarked (b : Breakwater) : Breakwater :=
  { b with markCore := 0, markSlice := 0, markPort := 0, markLink := 0 }

@[simp] theorem Breakwater.unmarked_mark (b : Breakwater) (unit inst : Nat) : (b.mark unit inst).unmarked = b.unmarked := by
  simp only [Breakwater.mark, apply_ite Breakwater.unmarked]
  simp only [Breakwater.unmarked, ite_self]

@[simp] theorem State.offerEvent_bw (s : State) (id : Nat) (src : OfferSrc) : (s.offerEvent id src).bw = s.bw := by
  unfold State.offerEvent
  dsimp only
  split <;> rfl

@[simp] theorem State.markCounted_unmarked (s : State) (unit inst : Nat) :
    (s.markCounted unit inst).bw.unmarked = s.bw.unmarked := by
  unfold State.markCounted
  dsimp only
  split
  · exact Breakwater.unmarked_mark ..
  · rfl

theorem State.recordFault_unmarked (s : State) (q : QueuedFault) (lost : Bool) :
    (s.recordFault q lost).bw.unmarked = (s.bw.recorded q lost).unmarked := by
  have htail (t : State) (key : Nat × Nat) (fresh : Bool) :
      (if fresh then (if key.1 = 0 then t else t.markCounted key.1 key.2).offerEvent 0x005 .latch
        else if key.1 = 0 then t else t.markCounted key.1 key.2).bw.unmarked = t.bw.unmarked := by
    rw [apply_ite State.bw, State.offerEvent_bw, ite_self]
    split
    · rfl
    · exact State.markCounted_unmarked ..
  unfold State.recordFault
  dsimp only
  refine (htail ..).trans (congrArg Breakwater.unmarked ?_)
  rw [Breakwater.secured_eq, Breakwater.counted_eq]
  cases lost
  · simp only [Bool.false_eq_true, if_false, Breakwater.log_eq, Breakwater.capture_eq, Breakwater.setPend_eq, Breakwater.recorded]
  · simp only [if_true, Breakwater.setPend_eq, Breakwater.recorded]

/-- A projection that no mark changes reads the record. -/
theorem State.recordFault_proj {α : Type} {f : Breakwater → α} (hf : ∀ b, f b.unmarked = f b) (s : State) (q : QueuedFault)
    (lost : Bool) : f (s.recordFault q lost).bw = f (s.bw.recorded q lost) := by
  rw [← hf, State.recordFault_unmarked, hf]

section
variable {s : State} {q : QueuedFault} {lost : Bool}

theorem State.recordFault_pendOf_same {k : Nat} (hk : k = (s.bw.classify q.ev).1) :
    (s.recordFault q lost).bw.pendOf k = setBit (s.bw.pendOf k) q.ev.src.toNat true := by
  rw [State.recordFault_proj (f := fun b => b.pendOf k) (fun _ => rfl)]
  exact hk ▸ s.bw.pendOf_setPend_same (s.bw.classify_lt q.ev) _

theorem State.recordFault_pendOf_ne {k : Nat} (hk : k < 3) (hne : k ≠ (s.bw.classify q.ev).1) :
    (s.recordFault q lost).bw.pendOf k = s.bw.pendOf k := by
  rw [State.recordFault_proj (f := fun b => b.pendOf k) (fun _ => rfl)]
  exact s.bw.pendOf_setPend_ne hk (s.bw.classify_lt q.ev) hne _

theorem State.recordFault_pending (hsrc : q.ev.src.toNat < 41) :
    ((s.recordFault q lost).bw.pendOf (s.bw.classify q.ev).1).getLsbD q.ev.src.toNat = true := by
  simp [State.recordFault_pendOf_same rfl, getLsbD_setBit_true, hsrc]

/-- A record sets one bit of the pending registers. -/
theorem State.recordFault_pending_ne {k i : Nat} (hk : k < 3) (hne : k ≠ (s.bw.classify q.ev).1 ∨ i ≠ q.ev.src.toNat) :
    ((s.recordFault q lost).bw.pendOf k).getLsbD i = (s.bw.pendOf k).getLsbD i := by
  by_cases hcls : k = (s.bw.classify q.ev).1
  · have hi := hne.resolve_left (not_not_intro hcls)
    simp [State.recordFault_pendOf_same hcls, getLsbD_setBit_true, hi]
  · rw [State.recordFault_pendOf_ne hk hcls]

/-- A fault that finds the queue full leaves the queue, the captures and the log as they are (log entry 101). -/
theorem State.recordFault_lost (s : State) (q : QueuedFault) :
    (s.recordFault q true).bw.queue = s.bw.queue ∧ (s.recordFault q true).bw.lostq = satInc s.bw.lostq ∧
      (s.recordFault q true).bw.caps = s.bw.caps ∧ (s.recordFault q true).bw.logBuf = s.bw.logBuf :=
  ⟨State.recordFault_proj (f := Breakwater.queue) (fun _ => rfl) s q true,
    State.recordFault_proj (f := Breakwater.lostq) (fun _ => rfl) s q true,
    State.recordFault_proj (f := Breakwater.caps) (fun _ => rfl) s q true,
    State.recordFault_proj (f := Breakwater.logBuf) (fun _ => rfl) s q true⟩

end

section
variable (s : State) (q : QueuedFault)

theorem State.acceptFault_safe :
    (s.acceptFault q).bw.safe = (s.bw.safe || fatalFault (s.bw.classify q.ev).1 q.ev.src.toNat) :=
  State.recordFault_proj (f := Breakwater.safe) (fun _ => rfl) s q false

theorem State.acceptFault_release : (s.acceptFault q).bw.release =
    if fatalFault (s.bw.classify q.ev).1 q.ev.src.toNat then 0 else s.bw.release :=
  State.recordFault_proj (f := Breakwater.release) (fun _ => rfl) s q false

theorem State.acceptFault_fStop : (s.acceptFault q).bw.fStop = (s.bw.fStop || (s.bw.classify q.ev).1 == 2) :=
  State.recordFault_proj (f := Breakwater.fStop) (fun _ => rfl) s q false

theorem State.acceptFault_doubleF : (s.acceptFault q).bw.doubleF =
    (s.bw.doubleF || ((s.bw.classify q.ev).1 == 2 && s.bw.unacked.any fun u => u.cls == 2)) :=
  State.recordFault_proj (f := Breakwater.doubleF) (fun _ => rfl) s q false

theorem State.acceptFault_unacked : (s.acceptFault q).bw.unacked =
    if (s.bw.merges q.ev || (q.injected && decide ((s.bw.classify q.ev).1 < 2))) = true then s.bw.unacked
    else s.bw.unacked ++ [{ src := q.ev.src, inst := q.ev.inst, cls := BitVec.ofNat 2 (s.bw.classify q.ev).1 }] :=
  State.recordFault_proj (f := Breakwater.unacked) (fun _ => rfl) s q false

theorem State.acceptFault_counts : (s.acceptFault q).bw.counts =
    if (faultKey q.ev.src q.ev.inst).1 = 0 then s.bw.counts
    else bumpCount (s.bw.classify q.ev).1 (faultKey q.ev.src q.ev.inst).1 (faultKey q.ev.src q.ev.inst).2 s.bw.counts :=
  State.recordFault_proj (f := Breakwater.counts) (fun _ => rfl) s q false

end

-- The captures (R326) -----------------------------------------------------------------------------------------------------

theorem Capture.take_free {c : Capture} (h : c.valid = false) (esc : Bool) (e : FaultEvent) (time : Word) :
    c.take esc e time = { valid := true, esc := esc, count := 0, ev := shownEvent e, time := time } := by
  simp [Capture.take, h]

theorem Capture.take_held {c : Capture} (h : c.valid = true) (esc : Bool) (e : FaultEvent) (time : Word) :
    c.take esc e time = { c with count := satInc c.count } := by
  simp [Capture.take, h]

theorem State.acceptFault_caps_same (s : State) (q : QueuedFault) {k : Fin 3} (hk : k.val = (s.bw.classify q.ev).1) :
    (s.acceptFault q).bw.caps[k] = s.bw.caps[k].take (s.bw.classify q.ev).2 q.ev q.time := by
  have hcaps := State.recordFault_proj (f := fun b => b.caps[k]) (fun _ => rfl) s q false
  have hmod : Fin.ofNat 3 (s.bw.classify q.ev).1 = k := by rw [← hk]; exact Fin.ofNat_val_eq_self k
  rw [State.acceptFault, hcaps]
  simp only [Breakwater.recorded, hmod, Bool.false_eq_true, if_false]
  exact Vector.getElem_set_self _

theorem State.acceptFault_caps_ne (s : State) (q : QueuedFault) {k : Fin 3} (hk : k.val ≠ (s.bw.classify q.ev).1) :
    (s.acceptFault q).bw.caps[k] = s.bw.caps[k] := by
  have hcaps := State.recordFault_proj (f := fun b => b.caps[k]) (fun _ => rfl) s q false
  have hmod : (s.bw.classify q.ev).1 % 3 ≠ k.val := by
    rw [Nat.mod_eq_of_lt (s.bw.classify_lt q.ev)]
    exact hk.symm
  rw [State.acceptFault, hcaps]
  simp [Breakwater.recorded, hmod]

-- Detection (R321, R330) --------------------------------------------------------------------------------------------------

/-- A reaction acts on other units than the breakwater, and does not read it. -/
theorem State.faultReaction_mapBw (s : State) (f : Breakwater → Breakwater) (e : FaultEvent) :
    (s.mapBw f).faultReaction e = (s.faultReaction e).mapBw f := by
  simp only [State.faultReaction, apply_ite fun t => State.mapBw t f]
  rfl

theorem State.faultReaction_bw_time (s : State) (e : FaultEvent) :
    (s.faultReaction e).bw = s.bw ∧ (s.faultReaction e).time = s.time := by
  unfold State.faultReaction
  dsimp only
  split
  · split <;> exact ⟨rfl, rfl⟩
  · split
    · exact ⟨rfl, rfl⟩
    · split <;> exact ⟨rfl, rfl⟩

/-- What a detection makes of the breakwater. -/
def Breakwater.sensed (b : Breakwater) (e : FaultEvent) : Breakwater := if forcesSafe e.src.toNat then b.enterSafe else b

theorem State.sense_eq (s : State) (e : FaultEvent) : s.sense e = (s.faultReaction e).mapBw fun b => b.sensed e := by
  rw [← State.faultReaction_mapBw]
  unfold State.sense
  cases h : forcesSafe e.src.toNat
  · simp [State.mapBw, Breakwater.sensed, h]
  · simp [State.mapBw, Breakwater.sensed, h]

@[simp] theorem State.sense_bw (s : State) (e : FaultEvent) : (s.sense e).bw = s.bw.sensed e := by
  rw [State.sense_eq, State.mapBw_bw, (s.faultReaction_bw_time e).1]

@[simp] theorem State.sense_time (s : State) (e : FaultEvent) : (s.sense e).time = s.time := by
  rw [State.sense_eq, State.mapBw_time, (s.faultReaction_bw_time e).2]

@[simp] theorem Breakwater.sensed_queue (b : Breakwater) (e : FaultEvent) : (b.sensed e).queue = b.queue := by
  unfold Breakwater.sensed
  split <;> rfl

theorem Breakwater.sensed_safe (b : Breakwater) (e : FaultEvent) :
    (b.sensed e).safe = (b.safe || forcesSafe e.src.toNat) ∧ (forcesSafe e.src.toNat = true → (b.sensed e).release = 0) := by
  unfold Breakwater.sensed
  cases forcesSafe e.src.toNat
  · simp
  · simp [Breakwater.enterSafe]

-- The collector's queue (R325) --------------------------------------------------------------------------------------------

/-- A state with another queue of the collector. -/
def State.withQueue (s : State) (l : List QueuedFault) : State := s.mapBw fun b => { b with queue := l }

@[simp] theorem State.withQueue_queue (s : State) (l : List QueuedFault) : (s.withQueue l).bw.queue = l := rfl
@[simp] theorem State.withQueue_time (s : State) (l : List QueuedFault) : (s.withQueue l).time = s.time := rfl
@[simp] theorem State.withQueue_withQueue (s : State) (l m : List QueuedFault) : (s.withQueue l).withQueue m = s.withQueue m := rfl

theorem State.withQueue_self {s : State} {l : List QueuedFault} (h : s.bw.queue = l) : s.withQueue l = s := by
  subst h
  rfl

theorem State.sense_withQueue (s : State) (l : List QueuedFault) (e : FaultEvent) :
    (s.withQueue l).sense e = (s.sense e).withQueue l := by
  have hsensed (b : Breakwater) : { b with queue := l }.sensed e = { b.sensed e with queue := l } := by
    unfold Breakwater.sensed
    split <;> rfl
  rw [State.sense_eq, State.sense_eq, State.withQueue, State.faultReaction_mapBw, State.withQueue]
  exact congrArg (fun b => { s.faultReaction e with bw := b }) (hsensed _)

theorem State.queueFault_of_room {s : State} (h : s.bw.queue.length < 256) (q : QueuedFault) :
    s.queueFault q = s.withQueue (s.bw.queue ++ [q]) := if_pos h

theorem State.queueFault_of_full {s : State} (h : 256 ≤ s.bw.queue.length) (q : QueuedFault) :
    s.queueFault q = s.recordFault q true := if_neg (Nat.not_lt.mpr h)

/-- A fault that is detected and finds room waits behind those before it. -/
theorem State.queueFault_sense {s : State} (h : s.bw.queue.length < 256) (e : FaultEvent) :
    (s.sense e).queueFault (s.faultNow e) = (s.sense e).withQueue (s.bw.queue ++ [s.faultNow e]) := by
  rw [State.queueFault_of_room (by simpa using h), State.sense_bw, Breakwater.sensed_queue]

-- Arrivals (R325) ---------------------------------------------------------------------------------------------------------

theorem exec_faultRecord_eq (arrivals : List FaultEvent) (s : State) :
    exec (.faultRecord arrivals) s = execFaultRecord arrivals s := rfl

theorem exec_faultAcknowledge_eq (src : BitVec 6) (inst : BitVec 8) (s : State) : exec (.faultAcknowledge src inst) s =
    .next (s.mapBw fun b => { b with unacked := dropUnacked src inst b.unacked }) := rfl

theorem exec_faultRecord_held {s : State} (h : s.porst = true ∨ s.supHold = true) (arrivals : List FaultEvent) :
    exec (.faultRecord arrivals) s = .next s := by
  have hheld : (s.porst || s.supHold) = true := Bool.or_eq_true_iff.mpr h
  rw [exec_faultRecord_eq, execFaultRecord, if_pos hheld]

/-- The faults of one cycle are detected and join the queue. -/
def State.senseAll (s : State) (l : List FaultEvent) : State := l.foldl (fun s e => (s.sense e).queueFault (s.faultNow e)) s

/-- A fault whose handling action changes nothing. -/
def NoHandling (e : FaultEvent) : Prop := ∀ u : State, u.handlingAction e = u

theorem foldl_handlingAction_plain : ∀ (l : List FaultEvent) (s : State), (∀ e ∈ l, NoHandling e) →
    l.foldl State.handlingAction s = s
  | [], _, _ => rfl
  | e :: l, s, h => by
    obtain ⟨he, hl⟩ := List.forall_mem_cons.mp h
    rw [List.foldl_cons, he s, foldl_handlingAction_plain l s hl]

section
variable {s : State} (hporst : s.porst = false) (hsup : s.supHold = false)
include hporst hsup

theorem exec_faultRecord_running (arrivals : List FaultEvent) (hplain : ∀ e ∈ arrivals.foldr insertFault [], NoHandling e) :
    exec (.faultRecord arrivals) s = match (s.senseAll (arrivals.foldr insertFault [])).bw.queue with
      | q :: rest => .next (((s.senseAll (arrivals.foldr insertFault [])).withQueue rest).acceptFault q)
      | [] => .next (s.senseAll (arrivals.foldr insertFault [])) := by
  have hgo : ¬ (s.porst || s.supHold) = true := by simp [hporst, hsup]
  rw [exec_faultRecord_eq, execFaultRecord, if_neg hgo]
  dsimp only
  rw [foldl_handlingAction_plain _ _ hplain]
  rfl

/-- The collector accepts the fault at the front of the queue. -/
theorem exec_faultRecord_accepts {arrivals : List FaultEvent} (hplain : ∀ e ∈ arrivals.foldr insertFault [], NoHandling e)
    {t : State} {q : QueuedFault} {rest : List QueuedFault}
    (hsense : s.senseAll (arrivals.foldr insertFault []) = t.withQueue (q :: rest)) :
    exec (.faultRecord arrivals) s = .next ((t.withQueue rest).acceptFault q) := by
  rw [exec_faultRecord_running hporst hsup arrivals hplain, hsense]
  rfl

theorem exec_faultRecord_none (hqueue : s.bw.queue = []) : exec (.faultRecord []) s = .next s := by
  rw [exec_faultRecord_running hporst hsup [] (by simp)]
  simp [State.senseAll, hqueue]

theorem exec_faultRecord_next {q : QueuedFault} {rest : List QueuedFault} (hqueue : s.bw.queue = q :: rest) :
    exec (.faultRecord []) s = .next ((s.withQueue rest).acceptFault q) :=
  exec_faultRecord_accepts hporst hsup (by simp) (State.withQueue_self hqueue).symm

theorem exec_faultRecord_single {e : FaultEvent} (he : NoHandling e) (hroom : s.bw.queue.length < 256) {q : QueuedFault}
    {rest : List QueuedFault} (hfront : s.bw.queue ++ [s.faultNow e] = q :: rest) :
    exec (.faultRecord [e]) s = .next (((s.sense e).withQueue rest).acceptFault q) := by
  refine exec_faultRecord_accepts hporst hsup (by simpa [insertFault] using he) ?_
  rw [← hfront]
  exact State.queueFault_sense hroom e

/-- Of two faults in one cycle the one of the lower source is accepted first. -/
theorem exec_faultRecord_pair {e f : FaultEvent} (he : NoHandling e) (hf : NoHandling f) (hqueue : s.bw.queue = [])
    (hlt : e.src.toNat < f.src.toNat) : exec (.faultRecord [f, e]) s =
      .next ((((s.sense e).sense f).withQueue [s.faultNow f]).acceptFault (s.faultNow e)) := by
  have hsort : [f, e].foldr insertFault [] = [e, f] := by simp [insertFault, hlt]
  refine exec_faultRecord_accepts hporst hsup (by simpa [hsort] using ⟨he, hf⟩) ?_
  have hfirst : s.senseAll [e] = (s.sense e).withQueue [s.faultNow e] := by
    have hjoin := State.queueFault_sense (s := s) (by simp [hqueue]) e
    simpa [State.senseAll, hqueue] using hjoin
  calc s.senseAll ([f, e].foldr insertFault [])
      = ((s.senseAll [e]).sense f).queueFault ((s.senseAll [e]).faultNow f) := by rw [hsort]; rfl
    _ = ((s.sense e).sense f).withQueue [s.faultNow e, s.faultNow f] := by
        rw [hfirst, State.queueFault_sense (by simp), State.sense_withQueue]
        simp [State.faultNow]

end

theorem State.handlingAction_of_src {e : FaultEvent} (h : e.src = 0x06 ∨ e.src = 0x07 ∨ e.src = 0x08 ∨ e.src = 0x0A)
    (s : State) : s.handlingAction e = s := by
  obtain h | h | h | h := h
  all_goals simp [State.handlingAction, State.parityAction, h]

-- Acknowledgement (R323) --------------------------------------------------------------------------------------------------

section
variable {src : BitVec 6} {inst : BitVec 8}

theorem dropUnacked_append {u : Unacked} (hsrc : u.src = src) (hinst : u.inst = inst) (hcls : u.cls ≠ 2) (after : List Unacked) :
    ∀ before : List Unacked, (∀ w ∈ before, ¬ (w.src = src ∧ w.inst = inst ∧ w.cls ≠ 2)) →
      dropUnacked src inst (before ++ u :: after) = before ++ after
  | [], _ => if_pos ⟨hsrc, hinst, hcls⟩
  | w :: before, h => by
    obtain ⟨hw, hbefore⟩ := List.forall_mem_cons.mp h
    rw [List.cons_append, dropUnacked, if_neg hw, dropUnacked_append hsrc hinst hcls after before hbefore, List.cons_append]

theorem dropUnacked_of_none : ∀ l : List Unacked, (∀ w ∈ l, ¬ (w.src = src ∧ w.inst = inst ∧ w.cls ≠ 2)) →
    dropUnacked src inst l = l
  | [], _ => rfl
  | w :: l, h => by
    obtain ⟨hw, hl⟩ := List.forall_mem_cons.mp h
    rw [dropUnacked, if_neg hw, dropUnacked_of_none l hl]

end

-- The settings of the log through a write to local memory -----------------------------------------------------------------

/-- What the record of a fault leaves of the log: EN, WERR, PUT and SEQ. -/
def Breakwater.logRegs (b : Breakwater) : Bool × Bool × Word × BitVec 32 := (b.logEn, b.logErr, b.logPut, b.logSeq)

theorem State.recordFault_logRegs (s : State) (q : QueuedFault) (lost : Bool) : (s.recordFault q lost).bw.logRegs = s.bw.logRegs :=
  State.recordFault_proj (f := Breakwater.logRegs) (fun _ => rfl) s q lost

theorem State.queueFault_logRegs (s : State) (q : QueuedFault) : (s.queueFault q).bw.logRegs = s.bw.logRegs := by
  unfold State.queueFault
  split
  · rfl
  · exact s.recordFault_logRegs q true

theorem State.arriveFault_logRegs (s : State) (q : QueuedFault) : (s.arriveFault q).bw.logRegs = s.bw.logRegs := by
  unfold State.arriveFault
  split
  · exact s.recordFault_logRegs q false
  · exact s.queueFault_logRegs q

theorem State.sense_logRegs (s : State) (e : FaultEvent) : (s.sense e).bw.logRegs = s.bw.logRegs := by
  rw [State.sense_bw, Breakwater.sensed]
  split <;> rfl

theorem State.detect_logRegs (s : State) (e : FaultEvent) : (s.detect e).bw.logRegs = s.bw.logRegs :=
  ((s.sense e).arriveFault_logRegs _).trans (s.sense_logRegs e)

/-- A fold over a core at a time leaves the breakwater alone. -/
theorem coreFold_bw (f : CoreId → Core → Core) : ∀ (l : List CoreId) (s : State),
    (l.foldl (fun s c => s.setCore c (f c (s.core c))) s).bw = s.bw
  | [], _ => rfl
  | c :: l, s => coreFold_bw f l (s.setCore c (f c (s.core c)))

@[simp] theorem State.mapCores_bw (s : State) (f : CoreId → Core → Core) : (s.mapCores f).bw = s.bw := coreFold_bw f _ s

@[simp] theorem State.dropL1d_bw (s : State) (line : Nat) (spare : Option CoreId) : (s.dropL1d line spare).bw = s.bw :=
  State.mapCores_bw ..

theorem State.listPoison_logRegs (s : State) (line : Nat) (g : BitVec 8) : (s.listPoison line g).bw.logRegs = s.bw.logRegs := by
  unfold State.listPoison
  split
  · rfl
  · split
    · rfl
    · exact s.detect_logRegs _

/-- A line that leaves the L2 or is cleaned is written back if it is dirty. -/
theorem State.writtenBack_logRegs (s : State) (c : Bool) (x : L2Line) (line : Nat) (g : BitVec 8) :
    ((if c then s.writeBack x else s).listPoison line g).bw.logRegs = s.bw.logRegs := by
  rw [State.listPoison_logRegs]
  cases c <;> rfl

theorem State.cleanLine_logRegs (s : State) (line : Nat) : (s.cleanLine line).bw.logRegs = s.bw.logRegs := by
  unfold State.cleanLine
  split
  · next x _ =>
    split
    · exact s.writtenBack_logRegs true x line x.poison
    · rfl
  · rfl

theorem State.cleanHead_logRegs (s : State) (slice : Nat) : (s.cleanHead slice).bw.logRegs = s.bw.logRegs := by
  unfold State.cleanHead
  split
  · exact s.cleanLine_logRegs _
  · rfl

theorem State.evictLine_logRegs (s : State) (line : Nat) : (s.evictLine line).bw.logRegs = s.bw.logRegs := by
  unfold State.evictLine
  split
  · next x _ => exact (congrArg Breakwater.logRegs (State.dropL1d_bw ..)).trans (s.writtenBack_logRegs x.dirty x line x.poison)
  · rfl

theorem State.takeWay_logRegs (s : State) (line : Nat) : (s.takeWay line).1.bw.logRegs = s.bw.logRegs := by
  unfold State.takeWay
  dsimp only
  split
  · rfl
  · split
    · exact s.evictLine_logRegs _
    · rfl

/-- The clean that makes room for a dirty line (R218). -/
theorem State.makeRoom_logRegs (s : State) (slice : Nat) (c : Prop) [Decidable c] :
    (if c then s.cleanHead slice else s).bw.logRegs = s.bw.logRegs := by
  split
  · exact s.cleanHead_logRegs slice
  · rfl

theorem State.sliceWrite_logRegs (s : State) (line : Nat) (data : Line) (mask : BitVec 64) (w : Option CoreId) :
    (s.sliceWrite line data mask w).bw.logRegs = s.bw.logRegs := by
  unfold State.sliceWrite
  dsimp only
  split
  · exact congrArg Breakwater.logRegs (State.dropL1d_bw ..)
  · rw [← s.dropL1d_bw line w]
    generalize s.dropL1d line w = t
    have hthrough (c : Bool) (l2 : L2) :
        (if c then State.memWrite { t with l2 := l2 } line data mask else { t with l2 := l2 }).bw.logRegs = t.bw.logRegs := by
      cases c <;> rfl
    rw [← hthrough t.ck.supEpisode (t.l2.unlist line (granulesCovered mask))]
    generalize (if t.ck.supEpisode = true then _ else _ : State) = u
    split
    · split
      · rfl
      · exact u.makeRoom_logRegs ..
    · split
      · rfl
      · exact (State.takeWay_logRegs ..).trans (u.makeRoom_logRegs ..)

theorem State.engineWrite_logRegs (s : State) (line : Nat) (data : Line) (mask : BitVec 64) :
    (s.engineWrite line data mask).bw.logRegs = s.bw.logRegs := by
  unfold State.engineWrite
  split
  · exact s.sliceWrite_logRegs line data mask none
  · dsimp only
    refine (congrArg Breakwater.logRegs (State.dropL1d_bw ..)).trans ?_
    split
    · next x _ => exact s.writtenBack_logRegs x.dirty x line _
    · rfl

theorem State.engineStore_logRegs (s : State) (a : Nat) (b : Blob) : (s.engineStore a b).bw.logRegs = s.bw.logRegs :=
  foldl_keeps (P := fun t : State => t.bw.logRegs = s.bw.logRegs) (fun t _ h => (t.engineWrite_logRegs ..).trans h) _ s rfl

-- The log (R345, R346) ----------------------------------------------------------------------------------------------------

theorem exec_logRecordWrite_eq (s : State) : exec .logRecordWrite s = execLogRecordWrite s := rfl
theorem exec_logTakeReread_eq (s : State) : exec .logTakeReread s = execLogTakeReread s := rfl
theorem exec_logWriteError_eq (s : State) : exec .logWriteError s = execLogWriteError s := rfl

/-- Where the next record goes. -/
def Breakwater.recordAddr (b : Breakwater) : Nat := b.ringBase.toNat * 4096 + 64 + 32 * (b.logPut.toNat % b.logSlots)

/-- The oldest entry in its slot, and then the new PUT at the base of the ring. -/
def State.logWritten (s : State) (e : LogEntry) : State :=
  (s.engineStore s.bw.recordAddr { len := 32, bits := logRecord e s.bw.logSeq }).engineStore (s.bw.ringBase.toNat * 4096)
    { len := 8, bits := (s.bw.logPut + 1).toNat }

theorem State.logWritten_logRegs (s : State) (e : LogEntry) : (s.logWritten e).bw.logRegs = s.bw.logRegs := by
  rw [State.logWritten, State.engineStore_logRegs, State.engineStore_logRegs]

/-- The oldest entry leaves the buffer, and PUT and SEQ count it. -/
def State.logAdvance (s : State) (rest : List LogEntry) : State :=
  s.mapBw fun w => { w with logBuf := rest, logPut := w.logPut + 1, logSeq := w.logSeq + 1 }

theorem State.logAdvance_spec (s : State) (rest : List LogEntry) :
    (s.logAdvance rest).bw.logBuf = rest ∧ (s.logAdvance rest).bw.logPut = s.bw.logPut + 1 ∧
    (s.logAdvance rest).bw.logSeq = s.bw.logSeq + 1 ∧ (s.logAdvance rest).bw.logEn = s.bw.logEn ∧
    (s.logAdvance rest).bw.logErr = s.bw.logErr ∧ (s.logAdvance rest).mem = s.mem ∧ (s.logAdvance rest).l2 = s.l2 ∧
    (s.logAdvance rest).pl = s.pl :=
  ⟨rfl, rfl, rfl, rfl, rfl, rfl, rfl, rfl⟩

theorem State.offerEvent_mapBw (s : State) (f : Breakwater → Breakwater) (id : Nat) (src : OfferSrc) :
    (s.mapBw f).offerEvent id src = (s.offerEvent id src).mapBw f := by
  simp only [State.offerEvent, apply_ite fun t => State.mapBw t f]
  rfl

section
variable {s : State} {e : LogEntry} {rest : List LogEntry} (hbuf : s.bw.logBuf = e :: rest)
include hbuf

theorem exec_logRecordWrite_full (hfull : s.bw.logSlots < (s.bw.logPut + 1 - s.bw.logTake).toNat) :
    exec .logRecordWrite s = .next s := by
  have hstop : (!s.rootRuns || !s.bw.logEn || decide (s.bw.logSlots < (s.bw.logPut + 1 - s.bw.logTake).toNat)) = true := by
    rw [decide_eq_true hfull, Bool.or_true]
  rw [exec_logRecordWrite_eq, execLogRecordWrite]
  simp only [hbuf, hstop, if_true]

variable (hroot : s.rootRuns = true) (hen : s.bw.logEn = true) (hroom : (s.bw.logPut + 1 - s.bw.logTake).toNat ≤ s.bw.logSlots)
  (hfree : s.rangeHeld s.bw.recordAddr 32 = false ∧ s.lineHeld (s.bw.ringBase.toNat * 4096 / 64) = false)
include hroot hen hroom hfree

theorem exec_logRecordWrite_open : exec .logRecordWrite s =
    if !(s.mappedAll s.bw.recordAddr 32 && s.mapped (s.bw.ringBase.toNat * 4096)) then .next (s.mapBw (·.logFail))
    else .next (((s.logWritten e).offerEvent 0x007 .latch).logAdvance rest) := by
  have hgo : (!s.rootRuns || !s.bw.logEn || decide (s.bw.logSlots < (s.bw.logPut + 1 - s.bw.logTake).toNat)) = false := by
    rw [hroot, hen, decide_eq_false (Nat.not_lt.mpr hroom)]
    rfl
  have hput : (s.bw.logPut.toNat + 1) % 2 ^ 64 = (s.bw.logPut + 1).toNat := (BitVec.toNat_add s.bw.logPut 1).symm
  obtain ⟨hrange, hline⟩ := hfree
  unfold Breakwater.recordAddr at hrange
  rw [exec_logRecordWrite_eq, execLogRecordWrite, State.logAdvance, ← State.offerEvent_mapBw]
  simp only [hbuf, hgo, hrange, hline, State.engineWordPut, hput, Bool.or_self, Bool.false_eq_true, if_false]
  rfl

theorem exec_logRecordWrite_unmapped
    (hmap : s.mappedAll s.bw.recordAddr 32 = false ∨ s.mapped (s.bw.ringBase.toNat * 4096) = false) :
    exec .logRecordWrite s = .next (s.mapBw (·.logFail)) := by
  rw [exec_logRecordWrite_open hbuf hroot hen hroom hfree, if_pos]
  simpa using hmap

theorem exec_logRecordWrite_writes (hrecord : s.mappedAll s.bw.recordAddr 32 = true)
    (hbase : s.mapped (s.bw.ringBase.toNat * 4096) = true) : ∃ t : State,
      exec .logRecordWrite s = .next t ∧ t.bw.logBuf = rest ∧ t.bw.logPut = s.bw.logPut + 1 ∧
      t.bw.logSeq = s.bw.logSeq + 1 ∧ t.bw.logEn = true ∧ t.bw.logErr = s.bw.logErr ∧ t.mem = (s.logWritten e).mem ∧
      t.l2 = (s.logWritten e).l2 ∧ t.pl.offers = ((s.logWritten e).offerEvent 0x007 .latch).pl.offers := by
  have hexec := (exec_logRecordWrite_open hbuf hroot hen hroom hfree).trans (if_neg (by simp [hrecord, hbase]))
  have hregs := s.logWritten_logRegs e
  rw [← State.offerEvent_bw (s.logWritten e) 0x007 .latch] at hregs
  simp only [Breakwater.logRegs, Prod.mk.injEq] at hregs
  obtain ⟨hEn, hErr, hPut, hSeq⟩ := hregs
  obtain ⟨hmem, hl2⟩ := offerEvent_local (s.logWritten e) 0x007 .latch
  obtain ⟨hbuf', hPut', hSeq', hEn', hErr', hmem', hl2', hpl'⟩ :=
    ((s.logWritten e).offerEvent 0x007 .latch).logAdvance_spec rest
  rw [hPut] at hPut'
  rw [hSeq] at hSeq'
  exact ⟨_, hexec, hbuf', hPut', hSeq', hEn'.trans (hEn.trans hen), hErr'.trans hErr, hmem'.trans hmem, hl2'.trans hl2,
    congrArg Pilot.offers hpl'⟩

end

theorem exec_logWriteError_fails {s : State} {e : LogEntry} {rest : List LogEntry} (hbuf : s.bw.logBuf = e :: rest)
    (hen : s.bw.logEn = true) : exec .logWriteError s = .next (s.mapBw (·.logFail)) := by
  simp [exec_logWriteError_eq, execLogWriteError, hbuf, hen]

theorem exec_log_empty {s : State} (hbuf : s.bw.logBuf = []) :
    exec .logRecordWrite s = .next s ∧ exec .logWriteError s = .next s := by
  simp [exec_logRecordWrite_eq, exec_logWriteError_eq, execLogRecordWrite, execLogWriteError, hbuf]

theorem exec_logTakeReread_reads {s : State} {v : Nat} (hroot : s.rootRuns = true) (hen : s.bw.logEn = true)
    (hword : s.engineWord (s.bw.ringBase.toNat * 4096 + 8) = some v) :
    exec .logTakeReread s = .next (s.mapBw fun w => { w with logTake := BitVec.ofNat 64 v }) := by
  simp [exec_logTakeReread_eq, execLogTakeReread, hroot, hen, hword]

theorem State.attnBits_log (s : State) : s.attnBits.getLsbD 1 = (!s.bw.logBuf.isEmpty || s.bw.logPut != s.bw.logTake) := by
  unfold State.attnBits
  cases !s.bw.logBuf.isEmpty || s.bw.logPut != s.bw.logTake
  all_goals simp [setBit]

-- The fields of a log record (Table 4 of "Operating at scale") ------------------------------------------------------------

theorem faultUnit_lt (src inst : Nat) : faultUnit src inst < 16 := by
  unfold faultUnit
  repeat' split
  all_goals omega

theorem shownInst_lt (e : FaultEvent) : shownInst e < 2 ^ 16 := by
  unfold shownInst
  dsimp only
  split <;> omega

theorem logRecord_fields (e : LogEntry) (seq : BitVec 32) : logRecord e seq % 2 ^ 64 = e.time.toNat ∧
    logRecord e seq / 2 ^ 64 % 2 ^ 8 = (if e.event then 2 else 1) ∧
    logRecord e seq / 2 ^ 72 % 2 ^ 8 = e.code.toNat ∧ logRecord e seq / 2 ^ 80 % 4 = e.cls.toNat ∧
    logRecord e seq / 2 ^ 82 % 2 = b2n e.esc ∧ logRecord e seq / 2 ^ 92 % 16 = e.ev.access.toNat ∧
    logRecord e seq / 2 ^ 96 % 2 ^ 16 = e.ev.master.toNat ∧ logRecord e seq / 2 ^ 128 % 2 ^ 48 = e.ev.addr.toNat ∧
    logRecord e seq / 2 ^ 192 = seq.toNat := by
  have hkind : (if e.event then 2 else 1) < 2 ^ 8 := by split <;> decide
  have hesc : b2n e.esc < 2 := by cases e.esc <;> decide
  have hunit : (if e.event then 0 else faultUnit e.ev.src.toNat e.ev.inst.toNat) < 16 := by
    split
    · decide
    · exact faultUnit_lt _ _
  have hinst : (if e.event then 0 else shownInst e.ev) < 2 ^ 16 := by
    split
    · decide
    · exact shownInst_lt e.ev
  have htime := e.time.isLt
  have hcode := e.code.isLt
  have hcls := e.cls.isLt
  have haccess := e.ev.access.isLt
  have hmaster := e.ev.master.isLt
  have haddr := e.ev.addr.isLt
  unfold logRecord
  dsimp only
  generalize (if e.event then 2 else 1) = kind at hkind ⊢
  generalize (if e.event then 0 else faultUnit e.ev.src.toNat e.ev.inst.toNat) = unit at hunit ⊢
  generalize (if e.event then 0 else shownInst e.ev) = inst at hinst ⊢
  refine ⟨?_, ?_, ?_, ?_, ?_, ?_, ?_, ?_, ?_⟩
  all_goals omega

-- The obligation ----------------------------------------------------------------------------------------------------------

/-- Settles O53: arrivals through the queue, records through `recordFault_proj`, the log through `exec_logRecordWrite_open`. -/
theorem faultsAndLog : Obligations.FaultsAndLog := by
  unfold Obligations.FaultsAndLog
  refine ⟨⟨?held, ?arrive, ?plain, ?full, ?sense, ?accept, ?acknowledge, ?unknown⟩, ?log⟩
  case held => exact fun s arrivals h => exec_faultRecord_held h arrivals
  case arrive =>
    intro s hporst hsup plain now
    refine ⟨?one, ?none, ?behind, ?idle, ?two⟩
    case one =>
      intro e hqueue he
      have hself : (s.sense e).withQueue [] = s.sense e := State.withQueue_self (by simp [hqueue])
      rw [exec_faultRecord_single hporst hsup he (by simp [hqueue]) (q := now e) (rest := []) (by rw [hqueue]; rfl), hself]
    case none => exact fun q rest hqueue => exec_faultRecord_next hporst hsup hqueue
    case behind =>
      intro e q rest hqueue hroom he
      exact exec_faultRecord_single hporst hsup he (by simp [hqueue]; omega) (by rw [hqueue]; rfl)
    case idle => exact exec_faultRecord_none hporst hsup
    case two => exact fun e f hqueue hlt he hf => exec_faultRecord_pair hporst hsup he hf hqueue hlt
  case plain => exact fun e s h => State.handlingAction_of_src h s
  case full =>
    intro s q hfull t
    have ht : t = s.recordFault q true := State.queueFault_of_full hfull q
    obtain ⟨hqueue, hlostq, hcaps, hlog⟩ := s.recordFault_lost q
    rw [ht]
    refine ⟨hqueue, hlostq, hcaps, hlog, fun hnone hsrc => ?_⟩
    rw [← Breakwater.classify_of_no_unacked hnone q.ev]
    exact State.recordFault_pending hsrc
  case sense =>
    intro s e fatal
    rw [State.sense_bw]
    exact s.bw.sensed_safe e
  case accept =>
    intro s q e key same merged up cls t fatal
    have hclassify : s.bw.classify e = (cls, up) := s.bw.classify_eq e
    have hcls : (s.bw.classify q.ev).1 = cls := congrArg Prod.fst hclassify
    have hup : (s.bw.classify q.ev).2 = up := congrArg Prod.snd hclassify
    have hfatal : fatalFault (s.bw.classify q.ev).1 e.src.toNat = fatal := by rw [hcls]; rfl
    refine ⟨?pending, ?others, ?safe, ?release, ?fStop, ?doubleF, ?unacked, ?counts, ?free, ?held, ?rest⟩
    case pending => exact hcls ▸ State.recordFault_pending
    case others => exact hcls ▸ fun k hk i => State.recordFault_pending_ne hk
    case safe => exact hfatal ▸ s.acceptFault_safe q
    case release => exact fun h => (s.acceptFault_release q).trans (if_pos (hfatal.trans h))
    case fStop => exact hcls ▸ s.acceptFault_fStop q
    case doubleF => exact hcls ▸ s.acceptFault_doubleF q
    case unacked => exact hcls ▸ s.acceptFault_unacked q
    case counts => exact hcls ▸ s.acceptFault_counts q
    case free =>
      intro k hk hfree
      rw [State.acceptFault_caps_same s q (hk.trans hcls.symm), Capture.take_free hfree, hup]
    case held =>
      intro k hk hheld
      rw [State.acceptFault_caps_same s q (hk.trans hcls.symm), Capture.take_held hheld]
    case rest =>
      intro k hk
      exact State.acceptFault_caps_ne s q (hcls ▸ hk)
  case acknowledge =>
    intro s src inst before after u hunacked hsrc hinst hcls hbefore
    rw [exec_faultAcknowledge_eq]
    simp only [State.mapBw, hunacked, dropUnacked_append hsrc hinst hcls after before hbefore]
  case unknown =>
    intro s src inst hnone
    rw [exec_faultAcknowledge_eq]
    simp only [State.mapBw, dropUnacked_of_none _ hnone]
  case log =>
    intro s
    refine ⟨?entry, exec_log_empty, fun v => exec_logTakeReread_reads, s.attnBits_log, logRecord_fields⟩
    intro e rest hbuf hroot hen base slots a used free record written
    exact ⟨exec_logRecordWrite_full hbuf, exec_logRecordWrite_writes hbuf hroot hen,
      exec_logRecordWrite_unmapped hbuf hroot hen, exec_logWriteError_fails hbuf hen⟩

end Sys2Proof.Machine
end
